-- ==== Sys2Proof/Word.lean ====
section
/-!
DEFINITION. Word.lean: the plain word types of the module (R4, R42, R170, R171).
-/
namespace Sys2Proof

/-- One byte of memory (R4). -/
abbrev Byte := BitVec 8
/-- A scalar register or a control register (R69, R76). -/
abbrev Word := BitVec 64
/-- A scratchpad row, a line of global memory, a vector register (R104). -/
abbrev Row := BitVec 2048
/-- A virtual or physical address (R87, R96). -/
abbrev Addr := BitVec 52
/-- A slot of a bundle (R171). -/
abbrev SlotWord := BitVec 32
/-- The payload of a surrendered slot (R177). -/
abbrev Imm31 := BitVec 31
/-- A lane mask: one bit for each 16-bit lane (R69). -/
abbrev LaneMask := BitVec 128

end Sys2Proof
end

