-- ==== Sys2Proof/Syntax.lean ====
section
/-!
DEFINITION. Syntax.lean: the instructions of the opcode map (R180) and the happenings of the module's units
(opcode_table.json), one constructor a row. A slot instruction carries its operands as the fields of its slot name
them, its surrendered words included (R177). The stop bit E belongs to the bundle and is no operand (R170).
-/
namespace Sys2Proof

/-! ## Operands -/

/-- The four latch groups (R72). -/
inductive Lat where | bs | bv | bl | bx
deriving DecidableEq, Repr

/-- A source field (R173); codes 46 and 47 name nothing. -/
inductive Src where
  | reg (r : BitVec 5)
  | zero | one | negOne | half | two
  | lane
  | wid (k : Fin 6)
  | core
  | die
  | latch (g : Lat) (age : BitVec 2)
deriving DecidableEq, Repr

/-- Operand B of a major that takes a long immediate: the field, or one to three surrendered words (R177). -/
inductive Opnd where
  | src (x : Src)
  | imm (ws : List Imm31)
deriving DecidableEq, Repr

/-- A guard (layout G of R179). -/
structure Guard where
  neg : Bool
  p : BitVec 3
deriving DecidableEq, Repr

/-- A scalar or vector destination with the N bit (R175). -/
structure Dst where
  n : Bool
  r : BitVec 5
deriving DecidableEq, Repr

/-- Lane types, F[2:0] of layout V (R179). -/
inductive LaneT where | f64 | f32 | f16 | bf16 | i64 | i32 | i16 | i8
deriving DecidableEq, Repr

/-- Rounding codes (R53). -/
inductive Rnd where | rne | rtz | rup | rdn | rna | satrne
deriving DecidableEq, Repr

/-- Format codes 0 to 19 (R142). -/
inductive Fmt where
  | fp64 | fp32 | fp16 | bf16 | e4m3 | e5m2 | e2m3 | e3m2 | e2m1 | e2m1x
  | i8 | u8 | i4 | en4 | i16 | i32 | i64 | u16 | u32 | u64
deriving DecidableEq, Repr

/-- Conditions of CMP (R179). -/
inductive CmpC where | eq | ne | lt | le | gt | ge | ltu | leu | gtu | geu
deriving DecidableEq, Repr
/-- Conditions of SFCMP (R179, R192). -/
inductive FcmpC where | eq | ne | lt | le | gt | ge | un | ord
deriving DecidableEq, Repr
/-- Conditions of BRC (R179, R195). -/
inductive BrC where | eqz | nez | ltz | gez | gtz | lez
deriving DecidableEq, Repr
/-- Conditions of VCMP (R214). -/
inductive VcmpC where | eq | ne | lt | le | gt | ge | ltu | geu
deriving DecidableEq, Repr
/-- The six conversions of SFCVT (R193). -/
inductive SfConv where | f64ToI64 | i64ToF64 | f64ToU64 | u64ToF64 | f64ToF32 | f32ToF64
deriving DecidableEq, Repr
/-- The control registers that exist (R76). -/
inductive CReg where
  | status | cycle | mpc | wp0 | wp1 | wp2 | wp3 | tvec | tfbase | tcause | tepc | tval | tscr | ayctl
deriving DecidableEq, Repr
/-- Ordering of an atomic (R179). -/
inductive AOrd where | rlx | acq | rel | ar
deriving DecidableEq, Repr
/-- Kinds of factor slots (R272). -/
inductive FKind where | rs | cs | rh | ch
deriving DecidableEq, Repr
/-- Operations of a reduction entry (R146). -/
inductive ROp where | sum | max | ssq
deriving DecidableEq, Repr
/-- Scopes (R102, R176). -/
inductive Scope where | core | clu | die | dev | sys
deriving DecidableEq, Repr
/-- A branch target: an offset in words of `w` bits, or an absolute long immediate (R180, R195). -/
inductive Tgt (w : Nat) where
  | rel (o : BitVec w)
  | abs (ws : List Imm31)
deriving DecidableEq, Repr
/-- The B offset of a memory operand, or its long immediate in bytes (R32, R177). -/
inductive Off where
  | off (o : BitVec 6)
  | imm (ws : List Imm31)
deriving DecidableEq, Repr

/-! ## Operand shapes of the slots (R180) -/

structure OpS2 where (g : Guard) (d : Dst) (a : Src) (b : Opnd) deriving DecidableEq, Repr
structure OpS1 where (g : Guard) (d : Dst) (a : Src) deriving DecidableEq, Repr
structure OpMovi where (g : Guard) (d : Dst) (b : Opnd) deriving DecidableEq, Repr
structure OpCmp where (cc : CmpC) (d : BitVec 3) (a : Src) (b : Opnd) deriving DecidableEq, Repr
structure OpFcmp where (cc : FcmpC) (d : BitVec 3) (a : Src) (b : Opnd) deriving DecidableEq, Repr
structure OpP2 where (g : Guard) (d a b : BitVec 3) deriving DecidableEq, Repr
structure OpP1 where (g : Guard) (d a : BitVec 3) deriving DecidableEq, Repr
structure OpSf where (rm : Rnd) (d : Dst) (a : Src) (b : Opnd) deriving DecidableEq, Repr
structure OpSfcvt where (rm : Rnd) (m : SfConv) (d : Dst) (a : Src) deriving DecidableEq, Repr
structure OpMfc where (d : Dst) (x : CReg) deriving DecidableEq, Repr
structure OpMtc where (x : CReg) (b : Opnd) deriving DecidableEq, Repr
structure OpBr where (g : Guard) (t : Tgt 17) deriving DecidableEq, Repr
structure OpBrc where (cc : BrC) (a : Src) (o : BitVec 11) deriving DecidableEq, Repr
structure OpCall where (d : Dst) (t : Tgt 12) deriving DecidableEq, Repr
structure OpJmpr where (g : Guard) (a : Src) deriving DecidableEq, Repr
structure OpLoop where (o : BitVec 11) (b : Opnd) deriving DecidableEq, Repr
structure OpMloop where (o : BitVec 11) (b : Opnd) (ii : BitVec 6) deriving DecidableEq, Repr
/-- Layout V: `m` is the rounding code on floating lanes and 0 signed, 1 unsigned on integer lanes (R179). -/
structure OpV3 where (m : BitVec 3) (t : LaneT) (d : Dst) (a : Src) (b : Opnd) deriving DecidableEq, Repr
structure OpV2 where (m : BitVec 3) (t : LaneT) (d : Dst) (a : Src) deriving DecidableEq, Repr
structure OpVcmp where (cc : VcmpC) (t : LaneT) (d : BitVec 3) (a : Src) (b : Opnd) deriving DecidableEq, Repr
structure OpVl where (d : Dst) (a : Src) (b : Opnd) deriving DecidableEq, Repr
structure OpVsel where (s : BitVec 3) (d : Dst) (a : Src) (b : Opnd) deriving DecidableEq, Repr
structure OpVcvt where (rm : Rnd) (st tt : LaneT) (tu su : Bool) (d : Dst) (a : Src) deriving DecidableEq, Repr
structure OpVpack where (rm : Rnd) (st : LaneT) (f : Fmt) (d : Dst) (a : Src) deriving DecidableEq, Repr
structure OpVunpk where (k : BitVec 3) (tt : LaneT) (f : Fmt) (d : Dst) (a : Src) deriving DecidableEq, Repr
structure OpVt1 where (t : LaneT) (d : Dst) (a : Src) deriving DecidableEq, Repr
structure OpVt2 where (t : LaneT) (d : Dst) (a : Src) (b : Opnd) deriving DecidableEq, Repr
structure OpVrm where (n : BitVec 5) (d : Dst) (a : Src) (b : Opnd) deriving DecidableEq, Repr
structure OpM2 where (d a b : BitVec 3) deriving DecidableEq, Repr
structure OpM1 where (d a : BitVec 3) deriving DecidableEq, Repr
structure OpMpop where (d : Dst) (a : BitVec 3) deriving DecidableEq, Repr
structure OpXpush where (mode : BitVec 2) (f : Fmt) (a : Src) deriving DecidableEq, Repr
structure OpXpop where (d : Dst) deriving DecidableEq, Repr
structure OpDefer where (m : BitVec 3) (k : BitVec 2) (d : BitVec 3) (a : BitVec 5) (b : Opnd) deriving DecidableEq, Repr
structure OpDrain where (k : BitVec 2) (d : Dst) (a : Src) deriving DecidableEq, Repr
/-- MMA and MMAS: the optional word holds m' of A and of B (R236). -/
structure OpMma where (g : Guard) (wrap : Bool) (d : BitVec 3) (ta tb : BitVec 6) (prec : Option (BitVec 6 × BitVec 6))
deriving DecidableEq, Repr
/-- MMAT: its word also holds K - 1 (R236). -/
structure OpMmat where (g : Guard) (wrap : Bool) (d : BitVec 3) (ta tb : BitVec 6) (mA mB : BitVec 6) (k1 : BitVec 12)
deriving DecidableEq, Repr
structure OpAclr where (d : BitVec 3) deriving DecidableEq, Repr
structure OpAcc where (d : BitVec 3) (a : Src) (o : BitVec 6) deriving DecidableEq, Repr
structure OpKat where (g : Guard) (d : BitVec 3) (ta tb : BitVec 6) (w0 w1 : Imm31) deriving DecidableEq, Repr
structure OpT2 where (rm : Rnd) (ta tb td : BitVec 6) deriving DecidableEq, Repr
structure OpTscale where (rm : Rnd) (ta : BitVec 6) (b : Opnd) (td : BitVec 6) deriving DecidableEq, Repr
structure OpT1 where (rm : Rnd) (ta td : BitVec 6) deriving DecidableEq, Repr
structure OpFset where (k : FKind) (ta : BitVec 6) (b : Opnd) (slot : BitVec 6) deriving DecidableEq, Repr
structure OpTT where (ta tb : BitVec 6) deriving DecidableEq, Repr
structure OpT where (t : BitVec 6) deriving DecidableEq, Repr
structure OpFread where (d : Dst) (ta : BitVec 6) (b : Opnd) deriving DecidableEq, Repr
structure OpRed where (op : ROp) (ta : BitVec 6) (b : Opnd) deriving DecidableEq, Repr
structure OpB where (b : Opnd) deriving DecidableEq, Repr
structure OpRrt where (op : ROp) (d : Dst) (a : Src) (b : Opnd) deriving DecidableEq, Repr
structure OpLd where (d : Dst) (a : Src) (o : Off) deriving DecidableEq, Repr
structure OpSt where (d : BitVec 5) (a : Src) (o : Off) deriving DecidableEq, Repr
structure OpLds where (d : Dst) (a : Src) (o : Off) (l : BitVec 5) deriving DecidableEq, Repr
structure OpSts where (d : BitVec 5) (a : Src) (o : Off) (l : BitVec 5) deriving DecidableEq, Repr
structure OpAddr where (a : Src) (o : Off) deriving DecidableEq, Repr
structure OpCpy where (d : BitVec 3) (ta tb : BitVec 6) (follow bar res strm : Bool) (c : BitVec 2) (ws : List Imm31)
deriving DecidableEq, Repr
structure OpCpym where (d : BitVec 3) (ta tb : BitVec 6) (c : BitVec 2) (recv : BitVec 8) deriving DecidableEq, Repr
structure OpGath where (d : BitVec 3) (a : Src) (tb : BitVec 6) (c : BitVec 2) deriving DecidableEq, Repr
structure OpCwait where (d : BitVec 3) (b : Opnd) (c : BitVec 2) deriving DecidableEq, Repr
structure OpCwaitWp where (a : Src) (c : BitVec 2) deriving DecidableEq, Repr
structure OpAt where (d : Dst) (a b : Src) (o : AOrd) (z : Bool) deriving DecidableEq, Repr
structure OpBind where (d : BitVec 3) (a b : Src) (obj : BitVec 17) deriving DecidableEq, Repr
structure OpAcq where (d : Dst) (a : Src) (b : Opnd) (t : BitVec 3) deriving DecidableEq, Repr
structure OpA where (a : Src) deriving DecidableEq, Repr
structure OpFwait where (d : BitVec 3) (a : Src) (b : Opnd) (f : BitVec 4) deriving DecidableEq, Repr
structure OpFpost where (a : Src) (f : BitVec 4) deriving DecidableEq, Repr
structure OpFpostr where (a : Src) (b : Opnd) (f : BitVec 4) deriving DecidableEq, Repr
structure OpPab where (d : BitVec 3) (a : Src) (b : Opnd) deriving DecidableEq, Repr
structure OpPa where (d : BitVec 3) (a : Src) deriving DecidableEq, Repr
structure OpPb where (d : BitVec 3) (b : Opnd) deriving DecidableEq, Repr
structure OpMarm where (d : Dst) (a : Src) deriving DecidableEq, Repr
structure OpTrig where (d : BitVec 3) (a b : Src) (w : Imm31) deriving DecidableEq, Repr
structure OpAB where (a : Src) (b : Opnd) deriving DecidableEq, Repr
/-- A predicate and two scalar sources, no immediate (R308). -/
structure OpPss where (d : BitVec 3) (a b : Src) deriving DecidableEq, Repr
structure OpResadv where (d : BitVec 5) (ta : BitVec 6) (b : Src) (obj : BitVec 17) deriving DecidableEq, Repr
structure OpReschk where (d : BitVec 3) (ta : BitVec 6) deriving DecidableEq, Repr
structure OpD where (d : BitVec 5) deriving DecidableEq, Repr
structure OpApush where (d : BitVec 3) (a b : Src) (entry : Addr) deriving DecidableEq, Repr
structure OpDa where (d : BitVec 5) (a : Src) deriving DecidableEq, Repr
structure OpDab where (d : BitVec 5) (a b : Src) deriving DecidableEq, Repr
structure OpSS where (a b : Src) deriving DecidableEq, Repr
structure OpXread where (d : BitVec 5) (n : BitVec 3) deriving DecidableEq, Repr
structure OpPfx where (scope : Scope) (surr : BitVec 7) (vm0 : BitVec 3) (vm0e : Bool) (vm1 : BitVec 3) (vm1e : Bool)
deriving DecidableEq, Repr

/-! ## Arguments of the happenings -/

abbrev CoreId := Fin 1024
abbrev DieId := Fin 8
abbrev ClusterId := Fin 128

/-- A master (R157). -/
inductive Master where
  | core (c : CoreId)
  | chan (c : CoreId) (n : Fin 4)
  | coll (d : DieId)
  | sched (d : DieId)
  | host (l : Fin 2)
  | peer (p : Fin 64)
  | mgmt
deriving DecidableEq, Repr

/-- An access arriving from outside through a base address register or a peer port (R362, R369, R372). -/
inductive ExtOp where
  | read (n : Nat)
  | write (n : Nat) (data : Nat)
  | fetchAdd (w64 : Bool) (v : Word)
  | swap (w64 : Bool) (v : Word)
  | cas (w64 : Bool) (old new : Word)
deriving DecidableEq, Repr

/-- What the boot firmware brings (R156, R367, R369, R375): a failing step with its code, and the values it writes; the digests
by which the steps extend measurement slots 1 to 4. -/
structure BootIn where
  fail : Option (Nat × Nat)
  access : List (Fin 64 × Fin 64 × BitVec 192)
  devid : BitVec 6
  cssegs : Vector (BitVec 32) 8
  trpools : Vector (BitVec 32) 8
  digests : Vector (BitVec 256) 4
deriving DecidableEq, Repr

/-- What a stream's address range counts in: offsets of a base address register, or of the host window (R366). -/
inductive IdeSpace where | bar0 | bar2 | host
deriving DecidableEq, Repr

/-- A request to the DOE mailbox (R361, R366, R368). `ideKey` makes a stream secure, with a range of addresses, both ends
included. -/
inductive DoeReq where
  | discovery
  | version
  | algorithms
  | measurement (i : Nat)
  | ideKey (stream : Fin 8) (space : IdeSpace) (lo hi : BitVec 64)
  | secured (r : DoeReq)
  | other
deriving DecidableEq, Repr

/-- A write to a function's MSI-X structures (R365): the mask of a vector, or the enable bit and the function mask. -/
inductive MsixWrite where
  | vector (v : Fin 2048) (masked : Bool)
  | control (enable masked : Bool)
deriving DecidableEq, Repr

/-- A write to the MSI-X structures of the function on a link. -/
structure MsixAccess where (l : Fin 2) (w : MsixWrite) deriving DecidableEq, Repr

/-- An answer to the `n`-th page request outstanding on a link (R364). -/
structure PriAns where (l : Fin 2) (n : Fin 512) (ok : Bool) deriving DecidableEq, Repr

/-- What takes the fatal path: the ECODE of the error, and the sections of the dump that it keeps from being read (R359, R360). -/
structure FatalIn where (ecode : BitVec 8) (lost : List Nat) deriving DecidableEq, Repr

/-- A collective firing that fails (R330): the die, and the peer whose own firing has failed, none where this die finds it. -/
structure CollIn where (die : DieId) (peer : Option (Fin 64)) deriving DecidableEq, Repr

/-- What an address translation service answers (R364). -/
inductive AtsAns where
  | grant (hpa : BitVec 64) (rd wr ex : Bool)
  | refuse
deriving DecidableEq, Repr

inductive Instr where
  -- control and scalar (R180, majors 0x00 to 0x17)
  | nop
  | pfx (o : OpPfx)
  | add (o : OpS2) | sub (o : OpS2) | adds (o : OpS2) | mul (o : OpS2)
  | mulh (o : OpS2) | mulhu (o : OpS2) | min (o : OpS2) | max (o : OpS2)
  | minu (o : OpS2) | maxu (o : OpS2) | and (o : OpS2) | or (o : OpS2)
  | xor (o : OpS2) | andn (o : OpS2) | shl (o : OpS2) | shr (o : OpS2)
  | sar (o : OpS2) | rot (o : OpS2) | clz (o : OpS1) | popc (o : OpS1)
  | brev (o : OpS1) | movi (o : OpMovi)
  | cmp (o : OpCmp) | sel (o : OpS2)
  | pand (o : OpP2) | por (o : OpP2) | pxor (o : OpP2) | pnot (o : OpP1)
  | sfadd (o : OpSf) | sfmul (o : OpSf) | sfma (o : OpSf) | sfcmp (o : OpFcmp) | sfcvt (o : OpSfcvt)
  | mfc (o : OpMfc) | mtc (o : OpMtc) | rdwid (o : OpXpop)
  | br (o : OpBr) | brc (o : OpBrc) | call (o : OpCall) | jmpr (o : OpJmpr) | ret (o : OpA)
  | loop (o : OpLoop) | mloop (o : OpMloop) | lbrk (g : Guard)
  | ppt | ckpt | rdz (id : BitVec 12)
  -- vector (majors 0x20 to 0x3A), transposer and deferral (0x40 to 0x43)
  | vadd (o : OpV3) | vsub (o : OpV3) | vmul (o : OpV3) | vfma (o : OpV3) | vfms (o : OpV3)
  | vmin (o : OpV3) | vmax (o : OpV3) | vadds (o : OpV3) | vsubs (o : OpV3) | vmulh (o : OpV3)
  | vabs (o : OpV2) | vneg (o : OpV2) | vcmp (o : OpVcmp)
  | vand (o : OpVl) | vor (o : OpVl) | vxor (o : OpVl)
  | vshl (o : OpVt2) | vshr (o : OpVt2) | vsar (o : OpVt2)
  | vsel (o : OpVsel) | vcvt (o : OpVcvt) | vpack (o : OpVpack) | vunpk (o : OpVunpk)
  | vbcast (o : OpVt1) | vext (o : OpVt2) | vlane (o : OpVt2) | vperm (o : OpVt2) | vrm (o : OpVrm)
  | vreds (o : OpVt1) | vredmMax (o : OpVt1) | vredmMin (o : OpVt1) | vscan (o : OpVt1) | topk (o : OpVt2)
  | vexp2 (o : OpVt1) | vlog2 (o : OpVt1) | vrcp (o : OpVt1) | vrsq (o : OpVt1)
  | vsig (o : OpVt1) | vtanh (o : OpVt1) | vsilu (o : OpVt1) | vgelu (o : OpVt1) | vexpd (o : OpVt2)
  | mand (o : OpM2) | mor (o : OpM2) | mnot (o : OpM1) | mpop (o : OpMpop) | mfirst (o : OpM1)
  | xpush (o : OpXpush) | xpop (o : OpXpop) | defer (o : OpDefer) | drain (o : OpDrain)
  -- matrix (majors 0x48 to 0x5F)
  | mma (o : OpMma) | mmas (o : OpMma) | mmat (o : OpMmat) | mpcset (o : OpB)
  | aclr (o : OpAclr) | accld (o : OpAcc) | accst (o : OpAcc) | kat (o : OpKat)
  | texpd (o : OpT1) | tadd (o : OpT2) | tsub (o : OpT2) | tmul (o : OpT2) | tscale (o : OpTscale)
  | trelu (o : OpT1) | tcvt (o : OpT1)
  | fset (o : OpFset) | fclr (o : OpT) | fcopy (o : OpTT) | fcopyAcc (o : OpT) | fbind (o : OpFset) | fread (o : OpFread)
  | rrow (o : OpRed) | rcol (o : OpRed) | rseal (o : OpB) | rrtalloc (o : OpRrt) | rrtfree (o : OpB) | resolve (o : OpT)
  -- memory, copies, atomics (majors 0x60 to 0x6F)
  | ldr (o : OpLd) | str (o : OpSt) | lds (o : OpLds) | sts (o : OpSts)
  | ldg (o : OpLd) | stg (o : OpSt) | ldgs (o : OpLd) | stgs (o : OpSt)
  | pref (o : OpAddr) | cflush (o : OpAddr) | cinv (o : OpAddr)
  | cpy (o : OpCpy) | cpym (o : OpCpym) | gath (o : OpGath) | scat (o : OpGath)
  | publ (o : OpT) | cwait (o : OpCwait) | cwaitWp (o : OpCwaitWp)
  | aadd (o : OpAt) | aadds (o : OpAt) | amin (o : OpAt) | amax (o : OpAt)
  | aand (o : OpAt) | aor (o : OpAt) | axor (o : OpAt) | axchg (o : OpAt) | acas (o : OpAt) | afadd (o : OpAt)
  -- synchronisation (majors 0x70 to 0x77)
  | bind (o : OpBind) | acq (o : OpAcq) | rel (o : OpA) | fence
  | fwait (o : OpFwait) | fpost (o : OpFpost) | fpostr (o : OpFpostr) | sync (o : OpPab)
  | barr (o : OpPa) | barrx (o : OpPab) | bwait (o : OpPab) | rearm (o : OpPab)
  | marm (o : OpMarm) | mwait (o : OpPb) | trig (o : OpTrig) | tcntAdd (o : OpAB) | tcntSet (o : OpAB)
  -- tasks, residency, activities, collectives, cache pages, system (majors 0x78 to 0x7D)
  | tlaunch (o : OpPa) | tspawn (o : OpPss) | tdep (o : OpPa) | tend
  | resadv (o : OpResadv) | resdrop (o : OpT) | reschk (o : OpReschk)
  | abegin (o : OpD) | apush (o : OpApush) | asave (o : OpDa) | acommit (o : OpPa) | aabandon (o : OpPss)
  | cend (o : OpA) | aresume (o : OpSS) | adiscard (o : OpA)
  | ctile (o : OpPss) | cready (o : OpPa) | cplan (o : OpPss) | cwaitc (o : OpPss)
  | btset (o : OpPss) | btlook (o : OpDab) | btinv (o : OpA) | sacc (o : OpDab) | grace (o : OpPss) | handover (o : OpPss)
  | trap (code : BitVec 12) | rft | ebreak | signal (o : OpPss) | xread (o : OpXread) | xclr (n : BitVec 3) | errld (o : OpDa)
  -- the host, the management controller, links and power
  | lqtailDoorbell (q : Fin 256) (v : Word)
  | lqEnable (q : Fin 256) (en : Bool)
  | ringReset (q : Fin 256)
  | lqctlErrClear (q : Fin 256)
  | registerWrite (m : Master) (off : BitVec 26) (op : ExtOp)
  | lqkill (m : Master) (lid : BitVec 16)
  | tbivc (m : Master) (v : Word)
  | tbivcComplete
  | tbivcOvrClear (m : Master)
  | preemptRequest (m : Master) (c : CoreId)
  | errorRecordFree (m : Master) (d : DieId) (b : Fin 4) (r : Fin 8)
  | errorOvfClear (m : Master) (d : DieId) (b : Fin 4) (r : Fin 8)
  | accessTableWrite (m : Master) (t : Fin 64) (i : Fin 64) (e : BitVec 192)
  | cssegWrite (m : Master) (d : DieId) (v : Word)
  | trpoolWrite (m : Master) (d : DieId) (v : Word)
  | devidWrite (m : Master) (v : Word)
  | hostSyncAcquire (l : Fin 2) (d : DieId) (i : Fin 16384)
  | hostSyncRelease (l : Fin 2) (d : DieId) (i : Fin 16384)
  | bar2Access (l : Fin 2) (op : ExtOp) (off : BitVec 40)
  | peerRequest (p : Fin 64) (op : ExtOp) (pa : Addr)
  | powerOn (b : BootIn)
  | reset (b : BootIn)
  | spdmRequest (l : Fin 2) (r : DoeReq)
  | ideIntegrityFailure (l : Fin 2) (st : Fin 8)
  | atsInvalidation (asn : Fin 16) (vpn : BitVec 36) (size : BitVec 2)
  | atsResponse (r : AtsAns)
  | priResponse (r : PriAns)
  | powerStepDown (watts : Nat) (hot : Bool)
  | powerStepUp
  | junctionLimit (d : DieId)
  | d3hotEntry
  | d0Return
  | powerRemoval
  | laneStepDown (p : Fin 18)
  | portDown (p : Fin 18)
  -- the scheduling path
  | launchFetch
  | stagingShareApply (d : DieId)
  | fuseChange (cl : ClusterId)
  | roleModeStart (cl : ClusterId)
  | walkerExpand (d : DieId)
  | overflowMove (d : DieId)
  | priorityAging (d : DieId) (k : Nat)
  | dispatch (d : DieId)
  | taskStart (c : CoreId)
  | balancerSample
  | migration
  -- the core
  | resultDeliver (c : CoreId)
  | freezeStart (c : CoreId)
  | freezeRelease (c : CoreId)
  | slotResume (c : CoreId)
  | stallWatchdog (c : CoreId)
  | waitComplete (c : CoreId)
  | waitTimeout (c : CoreId)
  | factorHoldRelease (c : CoreId)
  | factorHoldExpiry (c : CoreId)
  | monitorWake (c : CoreId)
  | trapEntry (c : CoreId)
  | dueCycleFault (c : CoreId)
  | signalInterrupt (c : CoreId)
  | assayMismatch (c : CoreId)
  | poisonConsumption (c : CoreId) (pa : Addr)
  | journalFullCheckpoint (c : CoreId)
  -- the matrix array, the channels, the engines
  | matrixOpStart (c : CoreId)
  | matrixChunkEnd (c : CoreId)
  | matrixOpEnd (c : CoreId)
  | followOnArrival (c : CoreId) (n : Fin 4)
  | copyStart (c : CoreId) (n : Fin 4)
  | copyRow (c : CoreId) (n : Fin 4)
  | copyComplete (c : CoreId) (n : Fin 4)
  | copyFault (c : CoreId) (n : Fin 4)
  | collectiveFiring (d : DieId)
  | collectiveComplete (e : Fin 1024) (peers : List Nat)
  | collectiveFault (x : CollIn)
  | triggerFire (d : DieId) (k : Fin 256)
  | flagPostArrival (c : CoreId) (f : Fin 16)
  | barrierOpArrival (d : DieId)
  | releaseArrival (d : DieId)
  | abandonment
  | compensationTaskRun
  | pageWalk (d : DieId)
  | walkComplete (d : DieId) (k : Nat)
  -- the coherence protocol: each names the message that arrives by its place among those in transit
  | gets (k : Nat) | getm (k : Nat) | putm (k : Nat) | data (k : Nat) | grant (k : Nat)
  | fwds (k : Nat) | fwdm (k : Nat) | dataf (k : Nat) | fwdack (k : Nat) | fwdnack (k : Nat)
  | inv (k : Nat) | invack (k : Nat) | binv (k : Nat) | back (k : Nat) | putack (k : Nat)
  -- errors
  | correctedError (d : DieId) (b : Fin 4) (unit : BitVec 4) (pa : Addr)
  | uncorrectableError (d : DieId) (b : Fin 4) (unit : BitVec 4) (pa : Addr)
  | fatalPath (d : DieId) (e : FatalIn)
  | atomicHoldExpiry (c : CoreId)
  | msixVectorUnmask (x : MsixAccess)
  | bar2Resize (n : Fin 11)
deriving DecidableEq, Repr

end Sys2Proof
end

