-- ==== Sys2Proof/WellFormed.lean ====
section
/-!
DEFINITION. WellFormed.lean: the slot instructions that an encoding admits (R173 to R184): which constants stand where,
which lane types, rounding codes, formats and word counts a major accepts. A happening has no encoding and is well formed
as it is.
-/
namespace Sys2Proof

def LaneT.width : LaneT → Nat
  | .f64 | .i64 => 64
  | .f32 | .i32 => 32
  | .f16 | .bf16 | .i16 => 16
  | .i8 => 8

def LaneT.isFloat : LaneT → Bool
  | .f64 | .f32 | .f16 | .bf16 => true
  | _ => false

/-- Constant 0.5 has no place in an integer operation (R174). -/
def Src.okInt (x : Src) : Bool := x != .half
def Src.ok (int : Bool) (x : Src) : Bool := !int || x.okInt

/-- The number that surrendered words form, the first word least significant (R177). -/
def immNat : List Imm31 → Nat
  | [] => 0
  | w :: r => w.toNat + 2 ^ 31 * immNat r

/-- One to three words; bits above a floating width are zero (R177). -/
def immOk (flt : Option Nat) (ws : List Imm31) : Bool :=
  decide (1 ≤ ws.length) && decide (ws.length ≤ 3) &&
  match flt with
  | none => true
  | some w => decide (immNat ws < 2 ^ w)

/-- Operand B: `flt` is the floating width, none for an integer operation. -/
def Opnd.ok (flt : Option Nat) : Opnd → Bool
  | .src x => x.ok flt.isNone
  | .imm ws => immOk flt ws

def Off.ok : Off → Bool
  | .off _ => true
  | .imm ws => immOk none ws

def Tgt.ok {n : Nat} : Tgt n → Bool
  | .rel _ => true
  | .abs ws => immOk none ws

def LaneT.flt (t : LaneT) : Option Nat := if t.isFloat then some t.width else none

/-- The F[5:3] code of layout V (R179, R213). -/
def vModeOk (m : BitVec 3) (t : LaneT) : Bool := if t.isFloat then decide (m.toNat ≤ 4) else decide (m.toNat ≤ 1)

/-- Narrow format codes 4 to 13 (R219, R220). -/
def Fmt.code : Fmt → BitVec 5
  | .fp64 => 0 | .fp32 => 1 | .fp16 => 2 | .bf16 => 3 | .e4m3 => 4 | .e5m2 => 5 | .e2m3 => 6 | .e3m2 => 7
  | .e2m1 => 8 | .e2m1x => 9 | .i8 => 10 | .u8 => 11 | .i4 => 12 | .en4 => 13 | .i16 => 14 | .i32 => 15
  | .i64 => 16 | .u16 => 17 | .u32 => 18 | .u64 => 19
def Fmt.narrow (f : Fmt) : Bool := decide (4 ≤ f.code.toNat) && decide (f.code.toNat ≤ 13)

/-- Bits of a code of a format: the six-bit formats are stored in eight (R42, R53). -/
def Fmt.bits (f : Fmt) : Nat :=
  match f with
  | .e2m3 | .e3m2 => 6
  | .fp64 | .i64 | .u64 => 64
  | .fp32 | .i32 | .u32 => 32
  | .fp16 | .bf16 | .i16 | .u16 => 16
  | .e4m3 | .e5m2 | .i8 | .u8 => 8
  | .e2m1 | .e2m1x | .i4 | .en4 => 4

/-- The integer formats narrower than 16 bits, EN4 apart. -/
def Fmt.smallInt (f : Fmt) : Bool := f == .i8 || f == .u8 || f == .i4

/-- Element storage width of a format (R42). -/
def Fmt.width : Fmt → Nat
  | .fp64 | .i64 | .u64 => 64
  | .fp32 | .i32 | .u32 => 32
  | .fp16 | .bf16 | .i16 | .u16 => 16
  | .e4m3 | .e5m2 | .e2m3 | .e3m2 | .i8 | .u8 => 8
  | .e2m1 | .e2m1x | .i4 | .en4 => 4

def LaneT.sfu (t : LaneT) : Bool := t == .f32 || t == .f16 || t == .bf16

/-- XPUSH: the format code belongs to its mode's column (R230). -/
def xpushOk (mode : BitVec 2) (f : Fmt) : Bool :=
  match mode.toNat with
  | 0 | 1 => f == .fp64
  | 2 => decide (f.code.toNat ≤ 13)
  | _ => decide (f.code.toNat ≤ 8) || (decide (10 ≤ f.code.toNat) && decide (f.code.toNat ≤ 12))

/-- VCVT's rounding code and unsigned bits (R218). -/
def vcvtOk (rm : Rnd) (st tt : LaneT) (tu su : Bool) : Bool :=
  (rm != .satrne || (st.isFloat && tt.isFloat && decide (tt.width < st.width))) &&
  !(tu && tt.isFloat) && !(su && st.isFloat)

/-- CPY's words (R181). -/
def cpyOk (follow bar : Bool) (ws : List Imm31) : Bool :=
  decide (ws.length ≤ 2) &&
  (if follow then decide (ws.length = 2) else if bar then decide (1 ≤ ws.length) else true) &&
  match ws with
  | [] => true
  | w :: _ => w.extractLsb' 27 4 == 0

def OpS2.wf (o : OpS2) : Bool := o.a.okInt && o.b.ok none
def OpS1.wf (o : OpS1) : Bool := o.a.okInt
def OpSf.wf (o : OpSf) : Bool := o.rm != .satrne && o.b.ok (some 64)
def OpV3.wfF (o : OpV3) : Bool := o.t.isFloat && vModeOk o.m o.t && o.b.ok o.t.flt
def OpV3.wfI (o : OpV3) : Bool := !o.t.isFloat && vModeOk o.m o.t && o.a.okInt && o.b.ok none
def OpV3.wf (o : OpV3) : Bool := vModeOk o.m o.t && o.a.ok (!o.t.isFloat) && o.b.ok o.t.flt
def OpV2.wf (o : OpV2) : Bool := vModeOk o.m o.t && o.a.ok (!o.t.isFloat)
def OpVcmp.wf (o : OpVcmp) : Bool :=
  o.t != .i8 && !(o.t.isFloat && (o.cc == .ltu || o.cc == .geu)) && o.a.ok (!o.t.isFloat) && o.b.ok o.t.flt
def OpVl.wf (o : OpVl) : Bool := o.a.okInt && o.b.ok none
def OpVt2.wfShift (o : OpVt2) : Bool := !o.t.isFloat && o.a.okInt && o.b.ok none
/-- Data in A of type t, an integer index, count or step in B. -/
def OpVt2.wfIx (o : OpVt2) : Bool := o.a.ok (!o.t.isFloat) && o.b.ok none
def OpVt2.wf (o : OpVt2) : Bool := o.a.ok (!o.t.isFloat) && o.b.ok o.t.flt
def OpVt1.wf (o : OpVt1) : Bool := o.a.ok (!o.t.isFloat)
def OpVt1.wfSfu (o : OpVt1) : Bool := o.t.sfu
def OpAt.wf (o : OpAt) : Bool := o.a.okInt && o.b.okInt
def OpPss.wf (o : OpPss) : Bool := o.a.okInt && o.b.okInt
def OpPab.wf (o : OpPab) : Bool := o.a.okInt && o.b.ok none
def OpLd.wf (o : OpLd) : Bool := o.a.okInt && o.o.ok
def OpSt.wf (o : OpSt) : Bool := o.a.okInt && o.o.ok
def dIn1to6 (d : BitVec 3) : Bool := decide (1 ≤ d.toNat) && decide (d.toNat ≤ 6)

/-- Whether an encoding of the opcode map stands for the instruction (R180, R183). -/
def Instr.wf : Instr → Bool
  | .nop | .ppt | .ckpt | .fence | .tend | .rft | .ebreak => true
  | .pfx _ => true
  | .add o | .sub o | .adds o | .mul o | .mulh o | .mulhu o | .min o | .max o | .minu o | .maxu o
  | .and o | .or o | .xor o | .andn o | .shl o | .shr o | .sar o | .rot o | .sel o => o.wf
  | .clz o | .popc o | .brev o => o.wf
  | .movi o => o.b.ok none
  | .cmp o => o.a.okInt && o.b.ok none
  | .pand _ | .por _ | .pxor _ | .pnot _ => true
  | .sfadd o | .sfmul o | .sfma o => o.wf
  | .sfcmp o => o.b.ok (some 64)
  | .sfcvt o => (o.rm != .satrne || o.m == .f64ToF32) && (o.a.okInt || (o.m != .i64ToF64 && o.m != .u64ToF64))
  | .mfc _ | .rdwid _ => true
  | .mtc o => o.b.ok none
  | .br o => o.t.ok
  | .brc o => o.a.okInt
  | .call o => o.t.ok
  | .jmpr o => o.a.okInt
  | .ret o => o.a.okInt
  | .loop o => o.b.ok none
  | .mloop o => o.b.ok none && o.ii != 0
  | .lbrk _ | .rdz _ => true
  | .vfma o | .vfms o => o.wfF
  | .vadds o | .vsubs o | .vmulh o => o.wfI
  | .vadd o | .vsub o | .vmul o | .vmin o | .vmax o => o.wf
  | .vabs o | .vneg o => o.wf
  | .vcmp o => o.wf
  | .vand o | .vor o | .vxor o => o.wf
  | .vshl o | .vshr o | .vsar o => o.wfShift
  | .vsel o => o.a.okInt && o.b.ok none
  | .vcvt o => vcvtOk o.rm o.st o.tt o.tu o.su && o.a.ok (!o.st.isFloat)
  | .vpack o => o.f.narrow && (o.rm != .satrne || decide (o.f.bits < o.st.width)) && o.a.ok (!o.st.isFloat)
  | .vunpk o => o.f.narrow && o.a.ok o.f.smallInt && decide (o.k.toNat * (2048 / o.tt.width) < 2048 / o.f.width)
  | .vbcast o => o.wf
  | .vext o | .vlane o | .vperm o => o.wfIx
  | .vrm o => o.a.okInt && o.b.ok none
  | .vreds o | .vredmMax o | .vredmMin o | .vscan o => o.wf
  | .topk o => o.wfIx && (o.d.n || o.d.r != 31)
  | .vexp2 o | .vlog2 o | .vrcp o | .vrsq o | .vsig o | .vtanh o | .vsilu o | .vgelu o => o.wfSfu
  | .vexpd o => o.t.sfu && o.b.ok o.t.flt
  | .mand _ | .mor _ | .mnot _ | .mpop _ | .mfirst _ => true
  | .xpush o => xpushOk o.mode o.f && o.a.okInt
  | .xpop _ => true
  | .defer o => o.b.ok none && decide (o.a.toNat + o.k.toNat ≤ 31)
  | .drain o => o.a.okInt && (o.d.n || decide (o.d.r.toNat + o.k.toNat + 1 ≤ 31))
  | .mma _ | .mmas _ | .mmat _ | .aclr _ | .kat _ => true
  | .mpcset o => o.b.ok none
  | .accld o | .accst o => o.a.okInt
  | .texpd _ | .tadd _ | .tsub _ | .tmul _ | .trelu _ | .tcvt _ => true
  | .tscale o => o.b.ok (some 64)
  | .fset o => o.b.ok (some 64)
  | .fclr _ | .fcopyAcc _ | .resolve _ => true
  | .fcopy o => o.ta != o.tb
  | .fbind o => o.b.ok none
  | .fread o => o.b.ok none
  | .rrow o | .rcol o => o.b.ok none
  | .rseal o | .rrtfree o => o.b.ok none
  | .rrtalloc o => o.a.okInt && o.b.ok (some 64)
  | .ldr o | .ldg o | .ldgs o => o.wf
  | .str o | .stg o | .stgs o => o.wf
  | .lds o => o.a.okInt && o.o.ok
  | .sts o => o.a.okInt && o.o.ok
  | .pref o | .cflush o | .cinv o => o.a.okInt && o.o.ok
  | .cpy o => cpyOk o.follow o.bar o.ws && (!o.follow || o.strm)
  | .cpym o => o.recv.getLsbD 0 == false && o.recv.getLsbD 7 == false
  | .gath o | .scat o => o.a.okInt
  | .publ _ => true
  | .cwait o => o.b.ok none
  | .cwaitWp o => o.a.okInt
  | .aadd o | .aadds o | .amin o | .amax o | .aand o | .aor o | .axor o | .axchg o | .acas o => o.wf
  | .afadd o => o.a.okInt
  | .bind o => o.a.okInt && o.b.okInt
  | .acq o => o.a.okInt && o.b.ok none
  | .rel o => o.a.okInt
  | .fwait o => o.a.okInt && o.b.ok none
  | .fpost o => o.a.okInt
  | .fpostr o => o.a.okInt && o.b.ok none
  | .sync o | .barrx o | .rearm o => o.wf
  | .barr o => o.a.okInt
  | .bwait o => o.wf && dIn1to6 o.d
  | .marm o => o.a.okInt
  | .mwait o => o.b.ok none
  | .trig o => o.a.okInt && o.b.okInt
  | .tcntAdd o | .tcntSet o => o.a.okInt && o.b.ok none
  | .tlaunch o | .tdep o => o.a.okInt
  | .tspawn o => o.wf
  | .resadv o => o.b.okInt
  | .resdrop _ | .reschk _ | .abegin _ => true
  | .apush o => o.a.okInt && o.b.okInt
  | .asave o => o.a.okInt
  | .acommit o => o.a.okInt
  | .aabandon o => o.wf
  | .cend o | .adiscard o => o.a.okInt
  | .aresume o => o.a.okInt && o.b.okInt
  | .ctile o | .cplan o => o.wf
  | .cready o => o.a.okInt
  | .cwaitc o => o.wf && dIn1to6 o.d
  | .btset o | .grace o | .handover o => o.wf
  | .btlook o => o.a.okInt && o.b.okInt
  | .btinv o => o.a.okInt
  | .sacc o => o.a.okInt
  | .trap _ | .xread _ | .xclr _ => true
  | .signal o => o.wf
  | .errld o => o.a.okInt
  | _ => true

/-- Whether the constructor is a slot instruction of R180, and no happening of a unit. -/
def Instr.isSlot : Instr → Bool
  | .lqtailDoorbell .. | .lqEnable .. | .ringReset .. | .lqctlErrClear .. | .registerWrite .. | .lqkill .. | .tbivc ..
  | .tbivcComplete | .tbivcOvrClear .. | .preemptRequest .. | .errorRecordFree .. | .errorOvfClear ..
  | .accessTableWrite .. | .cssegWrite .. | .trpoolWrite .. | .devidWrite .. | .hostSyncAcquire .. | .hostSyncRelease ..
  | .bar2Access .. | .peerRequest .. | .powerOn .. | .reset .. | .spdmRequest .. | .ideIntegrityFailure ..
  | .atsInvalidation .. | .atsResponse .. | .priResponse .. | .powerStepDown .. | .powerStepUp | .junctionLimit ..
  | .d3hotEntry | .d0Return | .powerRemoval | .laneStepDown .. | .portDown .. | .launchFetch | .stagingShareApply ..
  | .fuseChange .. | .roleModeStart .. | .walkerExpand .. | .overflowMove .. | .priorityAging .. | .dispatch ..
  | .taskStart .. | .balancerSample | .migration | .resultDeliver .. | .freezeStart .. | .freezeRelease ..
  | .slotResume .. | .stallWatchdog .. | .waitComplete .. | .waitTimeout .. | .factorHoldRelease ..
  | .factorHoldExpiry .. | .monitorWake .. | .trapEntry .. | .dueCycleFault .. | .signalInterrupt ..
  | .assayMismatch .. | .poisonConsumption .. | .journalFullCheckpoint .. | .matrixOpStart .. | .matrixChunkEnd ..
  | .matrixOpEnd .. | .followOnArrival .. | .copyStart .. | .copyRow .. | .copyComplete .. | .copyFault ..
  | .collectiveFiring .. | .collectiveComplete .. | .collectiveFault .. | .triggerFire .. | .flagPostArrival ..
  | .barrierOpArrival .. | .releaseArrival .. | .abandonment | .compensationTaskRun | .pageWalk .. | .walkComplete ..
  | .gets .. | .getm .. | .putm .. | .data .. | .grant .. | .fwds .. | .fwdm .. | .dataf .. | .fwdack .. | .fwdnack ..
  | .inv .. | .invack .. | .binv .. | .back .. | .putack .. | .correctedError .. | .uncorrectableError ..
  | .fatalPath .. | .atomicHoldExpiry .. | .msixVectorUnmask .. | .bar2Resize .. => false
  | _ => true

end Sys2Proof
end

