-- ==== Sys2Proof/Decode.lean ====
section
/-!
DEFINITION. Decode.lean: slots and bundles from their words, total, with the TCAUSE of R183 for every word that is no
instruction, in the order of R184 step 4 (major, F, then D with N before it, A, B, word count); then the encoder,
written from the same table R180.
-/
namespace Sys2Proof

/-- A decoding step: a value or the illegal-instruction cause (R183). -/
abbrev Dec (α : Type) := Except (BitVec 16) α

def chk (b : Bool) (c : BitVec 16) : Dec Unit := if b then .ok () else .error c

/-! ## Fields (R171) -/

def wOp (w : SlotWord) : BitVec 7 := w.extractLsb' 24 7
def wN (w : SlotWord) : Bool := w.getLsbD 23
def wD (w : SlotWord) : BitVec 5 := w.extractLsb' 18 5
def wA (w : SlotWord) : BitVec 6 := w.extractLsb' 12 6
def wB (w : SlotWord) : BitVec 6 := w.extractLsb' 6 6
def wF (w : SlotWord) : BitVec 6 := w.extractLsb' 0 6
def wE (w : SlotWord) : Bool := w.getLsbD 31

/-- A slot word with E = 0. -/
def mkW (op : BitVec 7) (n : Bool) (d : BitVec 5) (a b f : BitVec 6) : SlotWord :=
  0#1 ++ (op ++ (BitVec.ofBool n ++ (d ++ (a ++ (b ++ f)))))

/-! ## Field decoders -/

def srcOf (int : Bool) (c : BitVec 6) : Dec Src :=
  if c.toNat < 32 then .ok (.reg (c.setWidth 5))
  else if 48 ≤ c.toNat then
    let age : BitVec 2 := c.setWidth 2
    match (c.extractLsb' 2 2).toNat with
    | 0 => .ok (.latch .bs age)
    | 1 => .ok (.latch .bv age)
    | 2 => .ok (.latch .bl age)
    | _ => .ok (.latch .bx age)
  else
    match c.toNat with
    | 32 => .ok .zero
    | 33 => .ok .one
    | 34 => .ok .negOne
    | 35 => if int then .error 0x0004 else .ok .half
    | 36 => .ok .two
    | 37 => .ok .lane
    | 38 => .ok (.wid 0)
    | 39 => .ok (.wid 1)
    | 40 => .ok (.wid 2)
    | 41 => .ok (.wid 3)
    | 42 => .ok (.wid 4)
    | 43 => .ok (.wid 5)
    | 44 => .ok .core
    | 45 => .ok .die
    | _ => .error 0x0004

/-- Operand B, or the long immediate that replaces it (R177). -/
def opndOf (flt : Option Nat) (c : BitVec 6) (ws : List Imm31) : Dec Opnd :=
  match ws with
  | [] => (srcOf flt.isNone c).map .src
  | _ => do
    chk (c == 0) 0x0006
    chk (decide (ws.length ≤ 3)) 0x000B
    chk (immOk flt ws) 0x0006
    pure (.imm ws)

def offOf (c : BitVec 6) (ws : List Imm31) : Dec Off :=
  match ws with
  | [] => .ok (.off c)
  | _ => do
    chk (c == 0) 0x0006
    chk (decide (ws.length ≤ 3)) 0x000B
    pure (.imm ws)

def noWords (ws : List Imm31) : Dec Unit := chk ws.isEmpty 0x000B
def z6 (c : BitVec 6) : Dec Unit := chk (c == 0) 0x0006
def z5 (c : BitVec 5) : Dec Unit := chk (c == 0) 0x0006
/-- N is reserved (R175). -/
def nz (w : SlotWord) : Dec Unit := chk (!wN w) 0x0006
/-- A register of a file of eight in field D (R175). -/
def d8 (w : SlotWord) : Dec (BitVec 3) := do
  nz w
  chk (decide ((wD w).toNat < 8)) 0x0005
  pure ((wD w).setWidth 3)
/-- A register of a file of eight in a source field (R174). -/
def s8 (c : BitVec 6) : Dec (BitVec 3) := do
  chk (decide (c.toNat < 8)) 0x0004
  pure (c.setWidth 3)
def dst (w : SlotWord) : Dst := ⟨wN w, wD w⟩
def gOf (w : SlotWord) : Guard := ⟨(wF w).getLsbD 5, (wF w).extractLsb' 2 3⟩
def f10 (w : SlotWord) : Nat := ((wF w).extractLsb' 0 2).toNat
def f20 (w : SlotWord) : Nat := ((wF w).extractLsb' 0 3).toNat
def f53 (w : SlotWord) : Nat := ((wF w).extractLsb' 3 3).toNat
/-- F[5:2], F[5:3] zero. -/
def zf52 (w : SlotWord) : Dec Unit := chk ((wF w).extractLsb' 2 4 == 0) 0x0006
def zf53 (w : SlotWord) : Dec Unit := chk ((wF w).extractLsb' 3 3 == 0) 0x0006

def rndOf (c : Nat) : Dec Rnd :=
  match c with
  | 0 => .ok .rne | 1 => .ok .rtz | 2 => .ok .rup | 3 => .ok .rdn | 4 => .ok .rna | 5 => .ok .satrne
  | _ => .error 0x0003
def rndArith (c : Nat) : Dec Rnd := if c = 5 then .error 0x0003 else rndOf c
def laneOf (w : SlotWord) : LaneT :=
  match f20 w with
  | 0 => .f64 | 1 => .f32 | 2 => .f16 | 3 => .bf16 | 4 => .i64 | 5 => .i32 | 6 => .i16 | _ => .i8
def lane3 (c : BitVec 3) : LaneT :=
  match c.toNat with
  | 0 => .f64 | 1 => .f32 | 2 => .f16 | 3 => .bf16 | 4 => .i64 | 5 => .i32 | 6 => .i16 | _ => .i8
def fmtOf (c : BitVec 5) : Dec Fmt :=
  match c.toNat with
  | 0 => .ok .fp64 | 1 => .ok .fp32 | 2 => .ok .fp16 | 3 => .ok .bf16 | 4 => .ok .e4m3 | 5 => .ok .e5m2
  | 6 => .ok .e2m3 | 7 => .ok .e3m2 | 8 => .ok .e2m1 | 9 => .ok .e2m1x | 10 => .ok .i8 | 11 => .ok .u8
  | 12 => .ok .i4 | 13 => .ok .en4 | 14 => .ok .i16 | 15 => .ok .i32 | 16 => .ok .i64 | 17 => .ok .u16
  | 18 => .ok .u32 | 19 => .ok .u64
  | _ => .error 0x0003
def cmpOf (c : Nat) : Dec CmpC :=
  match c with
  | 0 => .ok .eq | 1 => .ok .ne | 2 => .ok .lt | 3 => .ok .le | 4 => .ok .gt | 5 => .ok .ge | 6 => .ok .ltu
  | 7 => .ok .leu | 8 => .ok .gtu | 9 => .ok .geu | _ => .error 0x0003
def fcmpOf (c : Nat) : Dec FcmpC :=
  match c with
  | 0 => .ok .eq | 1 => .ok .ne | 2 => .ok .lt | 3 => .ok .le | 4 => .ok .gt | 5 => .ok .ge | 6 => .ok .un
  | 7 => .ok .ord | _ => .error 0x0003
def brcOf (c : Nat) : Dec BrC :=
  match c with
  | 0 => .ok .eqz | 1 => .ok .nez | 2 => .ok .ltz | 3 => .ok .gez | 4 => .ok .gtz | 5 => .ok .lez
  | _ => .error 0x0003
def vcmpOf (c : Nat) : VcmpC :=
  match c with
  | 0 => .eq | 1 => .ne | 2 => .lt | 3 => .le | 4 => .gt | 5 => .ge | 6 => .ltu | _ => .geu
def sfcOf (c : Nat) : Dec SfConv :=
  match c with
  | 0 => .ok .f64ToI64 | 1 => .ok .i64ToF64 | 2 => .ok .f64ToU64 | 3 => .ok .u64ToF64 | 4 => .ok .f64ToF32
  | 5 => .ok .f32ToF64 | _ => .error 0x0003
def cregOf (c : BitVec 6) : Dec CReg :=
  match c.toNat with
  | 0x00 => .ok .status | 0x01 => .ok .cycle | 0x04 => .ok .mpc | 0x05 => .ok .wp0 | 0x06 => .ok .wp1
  | 0x07 => .ok .wp2 | 0x08 => .ok .wp3 | 0x10 => .ok .tvec | 0x11 => .ok .tfbase | 0x12 => .ok .tcause
  | 0x13 => .ok .tepc | 0x14 => .ok .tval | 0x15 => .ok .tscr | 0x16 => .ok .ayctl
  | _ => .error 0x0003
def ordOf (w : SlotWord) : AOrd :=
  match ((wF w).extractLsb' 1 2).toNat with
  | 0 => .rlx | 1 => .acq | 2 => .rel | _ => .ar
def fkindOf (c : BitVec 2) : FKind :=
  match c.toNat with
  | 0 => .rs | 1 => .cs | 2 => .rh | _ => .ch
def ropOf (c : Nat) : Dec ROp :=
  match c with
  | 0 => .ok .sum | 1 => .ok .max | 2 => .ok .ssq | _ => .error 0x0003
def scopeOf (c : Nat) : Dec Scope :=
  match c with
  | 0 => .ok .core | 1 => .ok .clu | 2 => .ok .die | 3 => .ok .dev | 4 => .ok .sys | _ => .error 0x000D

/-! ## Shapes -/

def dS2 (w : SlotWord) (ws : List Imm31) : Dec OpS2 := do
  let a ← srcOf true (wA w)
  let b ← opndOf none (wB w) ws
  pure ⟨gOf w, dst w, a, b⟩

def dS1 (w : SlotWord) (ws : List Imm31) : Dec OpS1 := do
  let a ← srcOf true (wA w)
  z6 (wB w)
  noWords ws
  pure ⟨gOf w, dst w, a⟩

def dMovi (w : SlotWord) (ws : List Imm31) : Dec OpMovi := do
  z6 (wA w)
  let b ← opndOf none (wB w) ws
  pure ⟨gOf w, dst w, b⟩

def dCmp (w : SlotWord) (ws : List Imm31) : Dec OpCmp := do
  let cc ← cmpOf ((wF w).extractLsb' 2 4).toNat
  chk ((wF w).extractLsb' 0 2 == 0) 0x0006
  let d ← d8 w
  let a ← srcOf true (wA w)
  let b ← opndOf none (wB w) ws
  pure ⟨cc, d, a, b⟩

def dFcmp (w : SlotWord) (ws : List Imm31) : Dec OpFcmp := do
  let cc ← fcmpOf ((wF w).extractLsb' 2 4).toNat
  chk ((wF w).extractLsb' 0 2 == 0) 0x0006
  let d ← d8 w
  let a ← srcOf false (wA w)
  let b ← opndOf (some 64) (wB w) ws
  pure ⟨cc, d, a, b⟩

/-- SEL: F[1:0] zero (R180). -/
def dSel (w : SlotWord) (ws : List Imm31) : Dec OpS2 := do
  chk ((wF w).extractLsb' 0 2 == 0) 0x0006
  dS2 w ws

def dP2 (w : SlotWord) (ws : List Imm31) : Dec OpP2 := do
  let d ← d8 w
  let a ← s8 (wA w)
  let b ← s8 (wB w)
  noWords ws
  pure ⟨gOf w, d, a, b⟩

def dP1 (w : SlotWord) (ws : List Imm31) : Dec OpP1 := do
  let d ← d8 w
  let a ← s8 (wA w)
  z6 (wB w)
  noWords ws
  pure ⟨gOf w, d, a⟩

def dSf (w : SlotWord) (ws : List Imm31) : Dec OpSf := do
  let rm ← rndArith (f53 w)
  let a ← srcOf false (wA w)
  let b ← opndOf (some 64) (wB w) ws
  pure ⟨rm, dst w, a, b⟩

def dSfcvt (w : SlotWord) (ws : List Imm31) : Dec OpSfcvt := do
  let m ← sfcOf (f20 w)
  let rm ← rndOf (f53 w)
  chk (rm != .satrne || m == .f64ToF32) 0x0003
  let a ← srcOf (m == .i64ToF64 || m == .u64ToF64) (wA w)
  z6 (wB w)
  noWords ws
  pure ⟨rm, m, dst w, a⟩

def dMfc (w : SlotWord) (ws : List Imm31) : Dec OpMfc := do
  let x ← cregOf (wA w)
  z6 (wB w)
  noWords ws
  pure ⟨dst w, x⟩

def dMtc (w : SlotWord) (ws : List Imm31) : Dec OpMtc := do
  nz w
  z5 (wD w)
  let x ← cregOf (wA w)
  let b ← opndOf none (wB w) ws
  pure ⟨x, b⟩

/-- RDWID and XPOP: a destination alone. -/
def dD (w : SlotWord) (ws : List Imm31) : Dec OpXpop := do
  z6 (wA w)
  z6 (wB w)
  noWords ws
  pure ⟨dst w⟩

def dBr (w : SlotWord) (ws : List Imm31) : Dec OpBr := do
  chk ((wF w).extractLsb' 0 2 == 0) 0x0006
  nz w
  match ws with
  | [] => pure ⟨gOf w, .rel (wD w ++ (wA w ++ wB w))⟩
  | _ => do
    z5 (wD w)
    z6 (wA w)
    z6 (wB w)
    chk (decide (ws.length ≤ 3)) 0x000B
    pure ⟨gOf w, .abs ws⟩

def dBrc (w : SlotWord) (ws : List Imm31) : Dec OpBrc := do
  let cc ← brcOf (f53 w)
  chk ((wF w).extractLsb' 0 3 == 0) 0x0006
  nz w
  let a ← srcOf true (wA w)
  noWords ws
  pure ⟨cc, a, wD w ++ wB w⟩

def dCall (w : SlotWord) (ws : List Imm31) : Dec OpCall := do
  z6 (wF w)
  match ws with
  | [] => pure ⟨dst w, .rel (wA w ++ wB w)⟩
  | _ => do
    z6 (wA w)
    z6 (wB w)
    chk (decide (ws.length ≤ 3)) 0x000B
    pure ⟨dst w, .abs ws⟩

def dJmpr (w : SlotWord) (ws : List Imm31) : Dec OpJmpr := do
  nz w
  z5 (wD w)
  let a ← srcOf true (wA w)
  z6 (wB w)
  noWords ws
  pure ⟨gOf w, a⟩

/-- One scalar source in A, every other field zero. -/
def dA (w : SlotWord) (ws : List Imm31) : Dec OpA := do
  nz w
  z5 (wD w)
  let a ← srcOf true (wA w)
  z6 (wB w)
  noWords ws
  pure ⟨a⟩

def dLoop (w : SlotWord) (ws : List Imm31) : Dec OpLoop := do
  z6 (wF w)
  nz w
  let b ← opndOf none (wB w) ws
  pure ⟨wD w ++ wA w, b⟩

def dMloop (w : SlotWord) (ws : List Imm31) : Dec OpMloop := do
  chk (wF w != 0) 0x0003
  nz w
  let b ← opndOf none (wB w) ws
  pure ⟨wD w ++ wA w, b, wF w⟩

/-- Every field but F zero. -/
def dNone (w : SlotWord) (ws : List Imm31) : Dec Unit := do
  nz w
  z5 (wD w)
  z6 (wA w)
  z6 (wB w)
  noWords ws

def dLbrk (w : SlotWord) (ws : List Imm31) : Dec Guard := do
  chk ((wF w).extractLsb' 0 2 == 0) 0x0006
  dNone w ws
  pure (gOf w)

def dRdz (w : SlotWord) (ws : List Imm31) : Dec (BitVec 12) := do
  nz w
  z5 (wD w)
  noWords ws
  pure (wA w ++ wB w)

/-- Which lanes a vector major takes (R212). -/
inductive VKind where | any | flt | int
deriving DecidableEq, Repr

def vModeChk (k : VKind) (w : SlotWord) : Dec Unit := do
  let t := laneOf w
  chk (vModeOk ((wF w).extractLsb' 3 3) t) 0x0003
  chk (match k with
    | .any => true
    | .flt => t.isFloat
    | .int => !t.isFloat) 0x0003

def dV3 (k : VKind) (w : SlotWord) (ws : List Imm31) : Dec OpV3 := do
  vModeChk k w
  let t := laneOf w
  let a ← srcOf (!t.isFloat) (wA w)
  let b ← opndOf t.flt (wB w) ws
  pure ⟨(wF w).extractLsb' 3 3, t, dst w, a, b⟩

/-- VABS and VNEG: the minor stands in B, which is checked after A (R184). -/
def dVun (w : SlotWord) (ws : List Imm31) : Dec Instr := do
  vModeChk .any w
  let t := laneOf w
  let a ← srcOf (!t.isFloat) (wA w)
  let o : OpV2 := ⟨(wF w).extractLsb' 3 3, t, dst w, a⟩
  match (wB w).toNat with
  | 0 => do
    noWords ws
    pure (.vabs o)
  | 1 => do
    noWords ws
    pure (.vneg o)
  | _ => .error 0x0003

def dVcmp (w : SlotWord) (ws : List Imm31) : Dec OpVcmp := do
  let t := laneOf w
  let cc := vcmpOf (f53 w)
  chk (t != .i8 && !(t.isFloat && (cc == .ltu || cc == .geu))) 0x0003
  let d ← d8 w
  let a ← srcOf (!t.isFloat) (wA w)
  let b ← opndOf t.flt (wB w) ws
  pure ⟨cc, t, d, a, b⟩

def dVl (w : SlotWord) (ws : List Imm31) : Dec OpVl := do
  let a ← srcOf true (wA w)
  let b ← opndOf none (wB w) ws
  pure ⟨dst w, a, b⟩

def dVshift (w : SlotWord) (ws : List Imm31) : Dec OpVt2 := do
  let t := laneOf w
  chk (!t.isFloat) 0x0003
  chk (!(wF w).getLsbD 5) 0x0006
  let a ← srcOf true (wA w)
  let b ← opndOf none (wB w) ws
  pure ⟨t, dst w, a, b⟩

def dVsel (w : SlotWord) (ws : List Imm31) : Dec OpVsel := do
  zf53 w
  let a ← srcOf true (wA w)
  let b ← opndOf none (wB w) ws
  pure ⟨(wF w).extractLsb' 0 3, dst w, a, b⟩

def dVcvt (w : SlotWord) (ws : List Imm31) : Dec OpVcvt := do
  let rm ← rndOf (f53 w)
  let st := laneOf w
  let tt := lane3 ((wB w).extractLsb' 0 3)
  let tu := (wB w).getLsbD 3
  let su := (wB w).getLsbD 4
  chk (rm != .satrne || (st.isFloat && tt.isFloat && decide (tt.width < st.width))) 0x0003
  let a ← srcOf (!st.isFloat) (wA w)
  chk (!(tu && tt.isFloat) && !(su && st.isFloat) && !(wB w).getLsbD 5) 0x0006
  noWords ws
  pure ⟨rm, st, tt, tu, su, dst w, a⟩

/-- Whether a conversion of VPACK narrows, as SATRNE asks (R53); a reserved format code fails in its own turn. -/
def satFits (st : LaneT) (c : BitVec 5) : Bool :=
  match fmtOf c with
  | .ok f => !f.narrow || decide (f.bits < st.width)
  | .error _ => true

def dVpack (w : SlotWord) (ws : List Imm31) : Dec OpVpack := do
  let rm ← rndOf (f53 w)
  let st := laneOf w
  chk (rm != .satrne || satFits st ((wB w).extractLsb' 0 5)) 0x0003
  let a ← srcOf (!st.isFloat) (wA w)
  let f ← fmtOf ((wB w).extractLsb' 0 5)
  chk f.narrow 0x0003
  chk (!(wB w).getLsbD 5) 0x0006
  noWords ws
  pure ⟨rm, st, f, dst w, a⟩

/-- The narrow integer formats, in which a special source of VUNPK stands as an integer (R174, R220). -/
def intFmt (c : BitVec 5) : Bool := decide (10 ≤ c.toNat) && decide (c.toNat ≤ 12)

def dVunpk (w : SlotWord) (ws : List Imm31) : Dec OpVunpk := do
  let k := (wF w).extractLsb' 3 3
  let tt := laneOf w
  let a ← srcOf (intFmt ((wB w).extractLsb' 0 5)) (wA w)
  let f ← fmtOf ((wB w).extractLsb' 0 5)
  chk (f.narrow && decide (k.toNat * (2048 / tt.width) < 2048 / f.width)) 0x0003
  chk (!(wB w).getLsbD 5) 0x0006
  noWords ws
  pure ⟨k, tt, f, dst w, a⟩

/-- One source of the lane type, B zero. -/
def dVt1 (w : SlotWord) (ws : List Imm31) : Dec OpVt1 := do
  let t := laneOf w
  let a ← srcOf (!t.isFloat) (wA w)
  z6 (wB w)
  noWords ws
  pure ⟨t, dst w, a⟩

def dVbcast (w : SlotWord) (ws : List Imm31) : Dec OpVt1 := do
  zf53 w
  dVt1 w ws

/-- A of the lane type, B an integer. -/
def dVix (w : SlotWord) (ws : List Imm31) : Dec OpVt2 := do
  let t := laneOf w
  let a ← srcOf (!t.isFloat) (wA w)
  let b ← opndOf none (wB w) ws
  pure ⟨t, dst w, a, b⟩

def dVperm (w : SlotWord) (ws : List Imm31) : Dec OpVt2 := do
  zf53 w
  dVix w ws

def dVrm (w : SlotWord) (ws : List Imm31) : Dec OpVrm := do
  chk (!(wF w).getLsbD 5) 0x0006
  let a ← srcOf true (wA w)
  let b ← opndOf none (wB w) ws
  pure ⟨(wF w).extractLsb' 0 5, dst w, a, b⟩

def dTopk (w : SlotWord) (ws : List Imm31) : Dec OpVt2 := do
  zf53 w
  chk (wN w || wD w != 31) 0x0005
  dVix w ws

def dSfu (w : SlotWord) (ws : List Imm31) : Dec OpVt1 := do
  chk (laneOf w).sfu 0x0003
  dVt1 w ws

def dVexpd (w : SlotWord) (ws : List Imm31) : Dec OpVt2 := do
  let t := laneOf w
  chk t.sfu 0x0003
  zf53 w
  let a ← srcOf false (wA w)
  let b ← opndOf t.flt (wB w) ws
  pure ⟨t, dst w, a, b⟩

def dM2 (w : SlotWord) (ws : List Imm31) : Dec OpM2 := do
  let d ← d8 w
  let a ← s8 (wA w)
  let b ← s8 (wB w)
  noWords ws
  pure ⟨d, a, b⟩

def dM1 (w : SlotWord) (ws : List Imm31) : Dec OpM1 := do
  let d ← d8 w
  let a ← s8 (wA w)
  z6 (wB w)
  noWords ws
  pure ⟨d, a⟩

def dMpop (w : SlotWord) (ws : List Imm31) : Dec OpMpop := do
  let a ← s8 (wA w)
  z6 (wB w)
  noWords ws
  pure ⟨dst w, a⟩

def dXpush (w : SlotWord) (ws : List Imm31) : Dec OpXpush := do
  zf52 w
  nz w
  z5 (wD w)
  let a ← srcOf true (wA w)
  let mode := (wF w).extractLsb' 0 2
  chk (decide (2 ≤ mode.toNat) || wB w == 0) 0x0006
  let f ← fmtOf ((wB w).extractLsb' 0 5)
  chk (xpushOk mode f) 0x0003
  chk (!(wB w).getLsbD 5) 0x0006
  noWords ws
  pure ⟨mode, f, a⟩

def dDefer (w : SlotWord) (ws : List Imm31) : Dec OpDefer := do
  chk (!(wF w).getLsbD 5) 0x0006
  let k := (wF w).extractLsb' 0 2
  let d ← d8 w
  chk (decide ((wA w).toNat + k.toNat ≤ 31)) 0x0005
  let b ← opndOf none (wB w) ws
  pure ⟨(wF w).extractLsb' 2 3, k, d, (wA w).setWidth 5, b⟩

def dDrain (w : SlotWord) (ws : List Imm31) : Dec OpDrain := do
  zf52 w
  let k := (wF w).extractLsb' 0 2
  chk (wN w || decide ((wD w).toNat + k.toNat + 1 ≤ 31)) 0x0005
  let a ← srcOf true (wA w)
  z6 (wB w)
  noWords ws
  pure ⟨k, dst w, a⟩

def dMma (w : SlotWord) (ws : List Imm31) : Dec OpMma := do
  chk (!(wF w).getLsbD 1) 0x0006
  let d ← d8 w
  match ws with
  | [] => pure ⟨gOf w, (wF w).getLsbD 0, d, wA w, wB w, none⟩
  | [x] => do
    chk (x.extractLsb' 12 19 == 0) 0x0006
    pure ⟨gOf w, (wF w).getLsbD 0, d, wA w, wB w, some (x.extractLsb' 0 6, x.extractLsb' 6 6)⟩
  | _ => .error 0x000B

def dMmat (w : SlotWord) (ws : List Imm31) : Dec OpMmat := do
  chk (!(wF w).getLsbD 1) 0x0006
  let d ← d8 w
  match ws with
  | [x] => do
    chk (x.extractLsb' 24 7 == 0) 0x0006
    pure ⟨gOf w, (wF w).getLsbD 0, d, wA w, wB w, x.extractLsb' 0 6, x.extractLsb' 6 6, x.extractLsb' 12 12⟩
  | _ => .error 0x000B

/-- One operand in B, every other field zero. -/
def dB (w : SlotWord) (ws : List Imm31) : Dec OpB := do
  z6 (wF w)
  nz w
  z5 (wD w)
  z6 (wA w)
  let b ← opndOf none (wB w) ws
  pure ⟨b⟩

def dAclr (w : SlotWord) (ws : List Imm31) : Dec OpAclr := do
  zf52 w
  let d ← d8 w
  z6 (wA w)
  z6 (wB w)
  noWords ws
  pure ⟨d⟩

def dAcc (w : SlotWord) (ws : List Imm31) : Dec OpAcc := do
  zf52 w
  let d ← d8 w
  let a ← srcOf true (wA w)
  noWords ws
  pure ⟨d, a, wB w⟩

def dKat (w : SlotWord) (ws : List Imm31) : Dec OpKat := do
  chk ((wF w).extractLsb' 0 2 == 0) 0x0006
  let d ← d8 w
  match ws with
  | [x, y] => pure ⟨gOf w, d, wA w, wB w, x, y⟩
  | _ => .error 0x000B

/-- The rounding code in D[20:18], D[22:21] zero (R268). -/
def dTd (w : SlotWord) : Dec Rnd := do
  nz w
  let rm ← rndOf ((wD w).extractLsb' 0 3).toNat
  chk ((wD w).extractLsb' 3 2 == 0) 0x0006
  pure rm

def dT2 (w : SlotWord) (ws : List Imm31) : Dec OpT2 := do
  let rm ← dTd w
  noWords ws
  pure ⟨rm, wA w, wB w, wF w⟩

def dT1 (w : SlotWord) (ws : List Imm31) : Dec OpT1 := do
  let rm ← dTd w
  z6 (wB w)
  noWords ws
  pure ⟨rm, wA w, wF w⟩

def dTscale (w : SlotWord) (ws : List Imm31) : Dec OpTscale := do
  let rm ← dTd w
  let b ← opndOf (some 64) (wB w) ws
  pure ⟨rm, wA w, b, wF w⟩

def dFslot (flt : Option Nat) (w : SlotWord) (ws : List Imm31) : Dec OpFset := do
  nz w
  chk ((wD w).extractLsb' 2 3 == 0) 0x0006
  let b ← opndOf flt (wB w) ws
  pure ⟨fkindOf ((wD w).extractLsb' 0 2), wA w, b, wF w⟩

def dT (w : SlotWord) (ws : List Imm31) : Dec OpT := do
  nz w
  z5 (wD w)
  z6 (wB w)
  noWords ws
  pure ⟨wA w⟩

def dFcopy (w : SlotWord) (ws : List Imm31) : Dec Instr := do
  z6 (wF w)
  nz w
  z5 (wD w)
  noWords ws
  pure (if wA w = wB w then .fcopyAcc ⟨wA w⟩ else .fcopy ⟨wA w, wB w⟩)

def dFread (w : SlotWord) (ws : List Imm31) : Dec OpFread := do
  z6 (wF w)
  let b ← opndOf none (wB w) ws
  pure ⟨dst w, wA w, b⟩

def dRed (w : SlotWord) (ws : List Imm31) : Dec OpRed := do
  let op ← ropOf (f10 w)
  zf52 w
  nz w
  z5 (wD w)
  let b ← opndOf none (wB w) ws
  pure ⟨op, wA w, b⟩

def dRrt (w : SlotWord) (ws : List Imm31) : Dec OpRrt := do
  let op ← ropOf (f10 w)
  zf52 w
  let a ← srcOf true (wA w)
  let b ← opndOf (some 64) (wB w) ws
  pure ⟨op, dst w, a, b⟩

def dLd (w : SlotWord) (ws : List Imm31) : Dec OpLd := do
  z6 (wF w)
  let a ← srcOf true (wA w)
  let o ← offOf (wB w) ws
  pure ⟨dst w, a, o⟩

def dSt (w : SlotWord) (ws : List Imm31) : Dec OpSt := do
  z6 (wF w)
  nz w
  let a ← srcOf true (wA w)
  let o ← offOf (wB w) ws
  pure ⟨wD w, a, o⟩

def dLds (w : SlotWord) (ws : List Imm31) : Dec OpLds := do
  chk (!(wF w).getLsbD 5) 0x0006
  let a ← srcOf true (wA w)
  let o ← offOf (wB w) ws
  pure ⟨dst w, a, o, (wF w).extractLsb' 0 5⟩

def dSts (w : SlotWord) (ws : List Imm31) : Dec OpSts := do
  chk (!(wF w).getLsbD 5) 0x0006
  nz w
  let a ← srcOf true (wA w)
  let o ← offOf (wB w) ws
  pure ⟨wD w, a, o, (wF w).extractLsb' 0 5⟩

def dAddr (w : SlotWord) (ws : List Imm31) : Dec OpAddr := do
  zf52 w
  nz w
  z5 (wD w)
  let a ← srcOf true (wA w)
  let o ← offOf (wB w) ws
  pure ⟨a, o⟩

def dCpy (w : SlotWord) (ws : List Imm31) : Dec OpCpy := do
  let follow := (wF w).getLsbD 5
  let bar := (wF w).getLsbD 4
  chk (!follow || (wF w).getLsbD 2) 0x0006
  let d ← d8 w
  chk (decide (ws.length ≤ 2) &&
    (if follow then decide (ws.length = 2) else if bar then decide (1 ≤ ws.length) else true)) 0x000B
  chk (match ws with
    | [] => true
    | x :: _ => x.extractLsb' 27 4 == 0) 0x0006
  pure ⟨d, wA w, wB w, follow, bar, (wF w).getLsbD 3, (wF w).getLsbD 2, (wF w).extractLsb' 0 2, ws⟩

def dCpym (w : SlotWord) (ws : List Imm31) : Dec OpCpym := do
  zf52 w
  let d ← d8 w
  match ws with
  | [x] => do
    chk (x.extractLsb' 8 23 == 0 && !x.getLsbD 0 && !x.getLsbD 7) 0x0006
    pure ⟨d, wA w, wB w, (wF w).extractLsb' 0 2, x.extractLsb' 0 8⟩
  | _ => .error 0x000B

def dGath (w : SlotWord) (ws : List Imm31) : Dec OpGath := do
  zf53 w
  let d ← d8 w
  let a ← srcOf true (wA w)
  noWords ws
  pure ⟨d, a, wB w, (wF w).extractLsb' 1 2⟩

def dCh (w : SlotWord) (ws : List Imm31) : Dec Instr := do
  chk ((wF w).extractLsb' 4 2 == 0) 0x0006
  let c := (wF w).extractLsb' 1 2
  match (wF w).getLsbD 0, (wF w).getLsbD 3 with
  | false, true => .error 0x0006
  | false, false => do
    chk (c == 0) 0x0006
    let t ← dT w ws
    pure (.publ t)
  | true, false => do
    let d ← d8 w
    z6 (wA w)
    let b ← opndOf none (wB w) ws
    pure (.cwait ⟨d, b, c⟩)
  | true, true => do
    nz w
    z5 (wD w)
    let a ← srcOf true (wA w)
    z6 (wB w)
    noWords ws
    pure (.cwaitWp ⟨a, c⟩)

def dAt (flt : Bool) (w : SlotWord) (ws : List Imm31) : Dec OpAt := do
  let a ← srcOf true (wA w)
  let b ← srcOf (!flt) (wB w)
  noWords ws
  pure ⟨dst w, a, b, ordOf w, (wF w).getLsbD 0⟩

def dBind (w : SlotWord) (ws : List Imm31) : Dec OpBind := do
  z6 (wF w)
  let d ← d8 w
  let a ← srcOf true (wA w)
  let b ← srcOf true (wB w)
  match ws with
  | [x] => do
    chk (x.extractLsb' 17 14 == 0) 0x0006
    pure ⟨d, a, b, x.extractLsb' 0 17⟩
  | _ => .error 0x000B

def dAcq (w : SlotWord) (ws : List Imm31) : Dec Instr := do
  chk ((wF w).extractLsb' 4 2 == 0) 0x0006
  let t := (wF w).extractLsb' 1 3
  if (wF w).getLsbD 0 then do
    chk (t == 0) 0x0006
    let a ← dA w ws
    pure (.rel a)
  else do
    let a ← srcOf true (wA w)
    let b ← opndOf none (wB w) ws
    pure (.acq ⟨dst w, a, b, t⟩)

def dFlag (w : SlotWord) (ws : List Imm31) : Dec Instr := do
  let f := (wF w).extractLsb' 0 4
  match ((wF w).extractLsb' 4 2).toNat with
  | 0 => do
    let d ← d8 w
    let a ← srcOf true (wA w)
    let b ← opndOf none (wB w) ws
    pure (.fwait ⟨d, a, b, f⟩)
  | 1 => do
    nz w
    z5 (wD w)
    let a ← srcOf true (wA w)
    z6 (wB w)
    noWords ws
    pure (.fpost ⟨a, f⟩)
  | 2 => do
    nz w
    z5 (wD w)
    let a ← srcOf true (wA w)
    let b ← opndOf none (wB w) ws
    pure (.fpostr ⟨a, b, f⟩)
  | _ => .error 0x0003

def dPab (w : SlotWord) (ws : List Imm31) : Dec OpPab := do
  let d ← d8 w
  let a ← srcOf true (wA w)
  let b ← opndOf none (wB w) ws
  pure ⟨d, a, b⟩

def dPa (w : SlotWord) (ws : List Imm31) : Dec OpPa := do
  let d ← d8 w
  let a ← srcOf true (wA w)
  z6 (wB w)
  noWords ws
  pure ⟨d, a⟩

def dPb (w : SlotWord) (ws : List Imm31) : Dec OpPb := do
  let d ← d8 w
  z6 (wA w)
  let b ← opndOf none (wB w) ws
  pure ⟨d, b⟩

/-- A predicate pair pD, p(D+1) (R304, R327). -/
def dPabPair (w : SlotWord) (ws : List Imm31) : Dec OpPab := do
  nz w
  chk (decide (1 ≤ (wD w).toNat) && decide ((wD w).toNat ≤ 6)) 0x0005
  dPab w ws

def dMarm (w : SlotWord) (ws : List Imm31) : Dec OpMarm := do
  let a ← srcOf true (wA w)
  z6 (wB w)
  noWords ws
  pure ⟨dst w, a⟩

def dTrig (w : SlotWord) (ws : List Imm31) : Dec OpTrig := do
  let d ← d8 w
  let a ← srcOf true (wA w)
  let b ← srcOf true (wB w)
  match ws with
  | [x] => pure ⟨d, a, b, x⟩
  | _ => .error 0x000B

def dAB (w : SlotWord) (ws : List Imm31) : Dec OpAB := do
  nz w
  z5 (wD w)
  let a ← srcOf true (wA w)
  let b ← opndOf none (wB w) ws
  pure ⟨a, b⟩

def dPss (w : SlotWord) (ws : List Imm31) : Dec OpPss := do
  let d ← d8 w
  let a ← srcOf true (wA w)
  let b ← srcOf true (wB w)
  noWords ws
  pure ⟨d, a, b⟩

def dPssPair (w : SlotWord) (ws : List Imm31) : Dec OpPss := do
  nz w
  chk (decide (1 ≤ (wD w).toNat) && decide ((wD w).toNat ≤ 6)) 0x0005
  dPss w ws

def dResadv (w : SlotWord) (ws : List Imm31) : Dec OpResadv := do
  nz w
  let b ← srcOf true (wB w)
  match ws with
  | [x] => do
    chk (x.extractLsb' 17 14 == 0) 0x0006
    pure ⟨wD w, wA w, b, x.extractLsb' 0 17⟩
  | _ => .error 0x000B

def dReschk (w : SlotWord) (ws : List Imm31) : Dec OpReschk := do
  let d ← d8 w
  z6 (wB w)
  noWords ws
  pure ⟨d, wA w⟩

def dDonly (w : SlotWord) (ws : List Imm31) : Dec OpD := do
  nz w
  z6 (wA w)
  z6 (wB w)
  noWords ws
  pure ⟨wD w⟩

def dApush (w : SlotWord) (ws : List Imm31) : Dec OpApush := do
  let d ← d8 w
  let a ← srcOf true (wA w)
  let b ← srcOf true (wB w)
  match ws with
  | [x, y] => do
    chk (y.extractLsb' 21 10 == 0) 0x0006
    pure ⟨d, a, b, y.extractLsb' 0 21 ++ x⟩
  | _ => .error 0x000B

def dDa (w : SlotWord) (ws : List Imm31) : Dec OpDa := do
  nz w
  let a ← srcOf true (wA w)
  z6 (wB w)
  noWords ws
  pure ⟨wD w, a⟩

def dDab (fltB : Bool) (w : SlotWord) (ws : List Imm31) : Dec OpDab := do
  nz w
  let a ← srcOf true (wA w)
  let b ← srcOf (!fltB) (wB w)
  noWords ws
  pure ⟨wD w, a, b⟩

def dSS (w : SlotWord) (ws : List Imm31) : Dec OpSS := do
  nz w
  z5 (wD w)
  let a ← srcOf true (wA w)
  let b ← srcOf true (wB w)
  noWords ws
  pure ⟨a, b⟩

def dTrap (w : SlotWord) (ws : List Imm31) : Dec (BitVec 12) := do
  nz w
  z5 (wD w)
  noWords ws
  pure (wA w ++ wB w)

/-- The raw record number of XREAD and XCLR (R336). -/
def dXn (w : SlotWord) : Dec (BitVec 3) := do
  chk (decide ((wA w).toNat < 8)) 0x0003
  z6 (wB w)
  pure ((wA w).setWidth 3)

/-! ## Majors -/

/-- Decodes one slot word (bit 31, E, ignored) with the words surrendered to it. The order of two faults inside
one field is log 41. -/
def decodeSlot (w : SlotWord) (ws : List Imm31) : Dec Instr :=
  let g2 (l : Nat → Dec Instr) : Dec Instr := l (f10 w)
  match (wOp w).toNat with
  | 0x00 => do
    z6 (wF w)
    dNone w ws
    pure .nop
  | 0x01 => g2 fun
    | 0 => (dS2 w ws).map .add
    | 1 => (dS2 w ws).map .sub
    | 2 => (dS2 w ws).map .adds
    | _ => (dS2 w ws).map .mul
  | 0x02 => g2 fun
    | 0 => (dS2 w ws).map .mulh
    | 1 => (dS2 w ws).map .mulhu
    | 2 => (dS2 w ws).map .min
    | _ => (dS2 w ws).map .max
  | 0x03 => g2 fun
    | 0 => (dS2 w ws).map .minu
    | 1 => (dS2 w ws).map .maxu
    | 2 => (dS2 w ws).map .and
    | _ => (dS2 w ws).map .or
  | 0x04 => g2 fun
    | 0 => (dS2 w ws).map .xor
    | 1 => (dS2 w ws).map .andn
    | 2 => (dS2 w ws).map .shl
    | _ => (dS2 w ws).map .shr
  | 0x05 => g2 fun
    | 0 => (dS2 w ws).map .sar
    | 1 => (dS2 w ws).map .rot
    | 2 => (dS1 w ws).map .clz
    | _ => (dS1 w ws).map .popc
  | 0x06 => g2 fun
    | 0 => (dS1 w ws).map .brev
    | 1 => (dMovi w ws).map .movi
    | _ => .error 0x0003
  | 0x07 => (dCmp w ws).map .cmp
  | 0x08 => (dSel w ws).map .sel
  | 0x09 => g2 fun
    | 0 => (dP2 w ws).map .pand
    | 1 => (dP2 w ws).map .por
    | 2 => (dP2 w ws).map .pxor
    | _ => (dP1 w ws).map .pnot
  | 0x0A =>
    match f20 w with
    | 0 => (dSf w ws).map .sfadd
    | 1 => (dSf w ws).map .sfmul
    | 2 => (dSf w ws).map .sfma
    | _ => .error 0x0003
  | 0x0B => (dFcmp w ws).map .sfcmp
  | 0x0C => (dSfcvt w ws).map .sfcvt
  | 0x0D => g2 fun
    | 0 => do
      zf52 w
      (dMfc w ws).map .mfc
    | 1 => do
      zf52 w
      (dMtc w ws).map .mtc
    | 2 => do
      zf52 w
      (dD w ws).map .rdwid
    | _ => .error 0x0003
  | 0x10 => (dBr w ws).map .br
  | 0x11 => (dBrc w ws).map .brc
  | 0x12 => (dCall w ws).map .call
  | 0x13 => g2 fun
    | 0 => (dJmpr w ws).map .jmpr
    | 1 => do
      zf52 w
      (dA w ws).map .ret
    | _ => .error 0x0003
  | 0x14 => (dLoop w ws).map .loop
  | 0x15 => (dMloop w ws).map .mloop
  | 0x16 => (dLbrk w ws).map .lbrk
  | 0x17 => g2 fun
    | 0 => do
      zf52 w
      dNone w ws
      pure .ppt
    | 1 => do
      zf52 w
      dNone w ws
      pure .ckpt
    | 2 => do
      zf52 w
      (dRdz w ws).map .rdz
    | _ => .error 0x0003
  | 0x20 => (dV3 .any w ws).map .vadd
  | 0x21 => (dV3 .any w ws).map .vsub
  | 0x22 => (dV3 .any w ws).map .vmul
  | 0x23 => (dV3 .flt w ws).map .vfma
  | 0x24 => (dV3 .flt w ws).map .vfms
  | 0x25 => (dV3 .any w ws).map .vmin
  | 0x26 => (dV3 .any w ws).map .vmax
  | 0x27 => (dV3 .int w ws).map .vadds
  | 0x28 => (dV3 .int w ws).map .vsubs
  | 0x29 => (dV3 .int w ws).map .vmulh
  | 0x2A =>
    dVun w ws
  | 0x2B => (dVcmp w ws).map .vcmp
  | 0x2C => g2 fun
    | 0 => do
      zf52 w
      (dVl w ws).map .vand
    | 1 => do
      zf52 w
      (dVl w ws).map .vor
    | 2 => do
      zf52 w
      (dVl w ws).map .vxor
    | _ => .error 0x0003
  | 0x2D =>
    match ((wF w).extractLsb' 3 2).toNat with
    | 0 => (dVshift w ws).map .vshl
    | 1 => (dVshift w ws).map .vshr
    | 2 => (dVshift w ws).map .vsar
    | _ => .error 0x0003
  | 0x2E => (dVsel w ws).map .vsel
  | 0x2F => (dVcvt w ws).map .vcvt
  | 0x30 => (dVpack w ws).map .vpack
  | 0x31 => (dVunpk w ws).map .vunpk
  | 0x32 => (dVbcast w ws).map .vbcast
  | 0x33 =>
    match f53 w with
    | 0 => (dVix w ws).map .vext
    | 1 => (dVix w ws).map .vlane
    | _ => .error 0x0003
  | 0x34 => (dVperm w ws).map .vperm
  | 0x35 => (dVrm w ws).map .vrm
  | 0x36 =>
    match f53 w with
    | 0 => (dVt1 w ws).map .vreds
    | 1 => (dVt1 w ws).map .vredmMax
    | 2 => (dVt1 w ws).map .vredmMin
    | 3 => (dVt1 w ws).map .vscan
    | _ => .error 0x0003
  | 0x37 => (dTopk w ws).map .topk
  | 0x38 =>
    match f53 w with
    | 0 => (dSfu w ws).map .vexp2
    | 1 => (dSfu w ws).map .vlog2
    | 2 => (dSfu w ws).map .vrcp
    | 3 => (dSfu w ws).map .vrsq
    | 4 => (dSfu w ws).map .vsig
    | 5 => (dSfu w ws).map .vtanh
    | 6 => (dSfu w ws).map .vsilu
    | _ => (dSfu w ws).map .vgelu
  | 0x39 => (dVexpd w ws).map .vexpd
  | 0x3A =>
    match f20 w with
    | 0 => do
      zf53 w
      (dM2 w ws).map .mand
    | 1 => do
      zf53 w
      (dM2 w ws).map .mor
    | 2 => do
      zf53 w
      (dM1 w ws).map .mnot
    | 3 => do
      zf53 w
      (dMpop w ws).map .mpop
    | 4 => do
      zf53 w
      (dM1 w ws).map .mfirst
    | _ => .error 0x0003
  | 0x40 => (dXpush w ws).map .xpush
  | 0x41 => do
    z6 (wF w)
    (dD w ws).map .xpop
  | 0x42 => (dDefer w ws).map .defer
  | 0x43 => (dDrain w ws).map .drain
  | 0x48 => (dMma w ws).map .mma
  | 0x49 => (dMma w ws).map .mmas
  | 0x4A => (dMmat w ws).map .mmat
  | 0x4B => (dB w ws).map .mpcset
  | 0x4C => g2 fun
    | 0 => (dAclr w ws).map .aclr
    | 1 => (dAcc w ws).map .accld
    | 2 => (dAcc w ws).map .accst
    | _ => .error 0x0003
  | 0x4D => (dKat w ws).map .kat
  | 0x4E => (dT1 w ws).map .texpd
  | 0x4F => (dT2 w ws).map .tadd
  | 0x50 => (dT2 w ws).map .tsub
  | 0x51 => (dT2 w ws).map .tmul
  | 0x52 => (dTscale w ws).map .tscale
  | 0x53 => (dT1 w ws).map .trelu
  | 0x54 => (dT1 w ws).map .tcvt
  | 0x55 => (dFslot (some 64) w ws).map .fset
  | 0x56 => do
    z6 (wF w)
    (dT w ws).map .fclr
  | 0x57 => dFcopy w ws
  | 0x58 => (dFslot none w ws).map .fbind
  | 0x59 => (dFread w ws).map .fread
  | 0x5A => (dRed w ws).map .rrow
  | 0x5B => (dRed w ws).map .rcol
  | 0x5C => (dB w ws).map .rseal
  | 0x5D => (dRrt w ws).map .rrtalloc
  | 0x5E => (dB w ws).map .rrtfree
  | 0x5F => do
    z6 (wF w)
    (dT w ws).map .resolve
  | 0x60 => (dLd w ws).map .ldr
  | 0x61 => (dSt w ws).map .str
  | 0x62 => (dLds w ws).map .lds
  | 0x63 => (dSts w ws).map .sts
  | 0x64 => (dLd w ws).map .ldg
  | 0x65 => (dSt w ws).map .stg
  | 0x66 => (dLd w ws).map .ldgs
  | 0x67 => (dSt w ws).map .stgs
  | 0x68 => g2 fun
    | 0 => (dAddr w ws).map .pref
    | 1 => (dAddr w ws).map .cflush
    | 2 => (dAddr w ws).map .cinv
    | _ => .error 0x0003
  | 0x69 => (dCpy w ws).map .cpy
  | 0x6A => (dCpym w ws).map .cpym
  | 0x6B => if (wF w).getLsbD 0 then (dGath w ws).map .scat else (dGath w ws).map .gath
  | 0x6C => dCh w ws
  | 0x6D =>
    match f53 w with
    | 0 => (dAt false w ws).map .aadd
    | 1 => (dAt false w ws).map .aadds
    | 2 => (dAt false w ws).map .amin
    | 3 => (dAt false w ws).map .amax
    | 4 => (dAt false w ws).map .aand
    | 5 => (dAt false w ws).map .aor
    | 6 => (dAt false w ws).map .axor
    | _ => (dAt false w ws).map .axchg
  | 0x6E => do
    chk (f53 w == 0) 0x0003
    (dAt false w ws).map .acas
  | 0x6F => do
    chk (f53 w == 0) 0x0003
    (dAt true w ws).map .afadd
  | 0x70 => (dBind w ws).map .bind
  | 0x71 => dAcq w ws
  | 0x72 => do
    z6 (wF w)
    dNone w ws
    pure .fence
  | 0x73 => dFlag w ws
  | 0x74 => do
    z6 (wF w)
    (dPab w ws).map .sync
  | 0x75 => g2 fun
    | 0 => do
      zf52 w
      (dPa w ws).map .barr
    | 1 => do
      zf52 w
      (dPab w ws).map .barrx
    | 2 => do
      zf52 w
      (dPabPair w ws).map .bwait
    | _ => do
      zf52 w
      (dPab w ws).map .rearm
  | 0x76 => do
    chk ((wF w).extractLsb' 1 5 == 0) 0x0006
    if (wF w).getLsbD 0 then (dPb w ws).map .mwait else (dMarm w ws).map .marm
  | 0x77 => g2 fun
    | 0 => do
      zf52 w
      (dTrig w ws).map .trig
    | 1 => do
      zf52 w
      (dAB w ws).map .tcntAdd
    | 2 => do
      zf52 w
      (dAB w ws).map .tcntSet
    | _ => .error 0x0003
  | 0x78 => do
    zf52 w
    g2 fun
    | 0 => (dPa w ws).map .tlaunch
    | 1 => (dPss w ws).map .tspawn
    | 2 => (dPa w ws).map .tdep
    | _ => do
      dNone w ws
      pure .tend
  | 0x79 => g2 fun
    | 0 => do
      zf52 w
      (dResadv w ws).map .resadv
    | 1 => do
      zf52 w
      (dT w ws).map .resdrop
    | 2 => do
      zf52 w
      (dReschk w ws).map .reschk
    | _ => .error 0x0003
  | 0x7A => do
    zf53 w
    match f20 w with
    | 0 => (dDonly w ws).map .abegin
    | 1 => (dApush w ws).map .apush
    | 2 => (dDa w ws).map .asave
    | 3 => (dPa w ws).map .acommit
    | 4 => (dPss w ws).map .aabandon
    | 5 => (dA w ws).map .cend
    | 6 => (dSS w ws).map .aresume
    | _ => (dA w ws).map .adiscard
  | 0x7B => do
    zf52 w
    g2 fun
    | 0 => (dPss w ws).map .ctile
    | 1 => (dPa w ws).map .cready
    | 2 => (dPss w ws).map .cplan
    | _ => (dPssPair w ws).map .cwaitc
  | 0x7C =>
    match f20 w with
    | 0 => do
      zf53 w
      (dPss w ws).map .btset
    | 1 => do
      zf53 w
      (dDab false w ws).map .btlook
    | 2 => do
      zf53 w
      (dA w ws).map .btinv
    | 3 => do
      zf53 w
      (dDab true w ws).map .sacc
    | 4 => do
      zf53 w
      (dPss w ws).map .grace
    | 5 => do
      zf53 w
      (dPss w ws).map .handover
    | _ => .error 0x0003
  | 0x7D =>
    match f20 w with
    | 0 => do
      zf53 w
      (dTrap w ws).map .trap
    | 1 => do
      zf53 w
      dNone w ws
      pure .rft
    | 2 => do
      zf53 w
      dNone w ws
      pure .ebreak
    | 3 => do
      zf53 w
      (dPss w ws).map .signal
    | 4 => do
      zf53 w
      nz w
      let n ← dXn w
      noWords ws
      pure (.xread ⟨wD w, n⟩)
    | 5 => do
      zf53 w
      nz w
      z5 (wD w)
      let n ← dXn w
      noWords ws
      pure (.xclr n)
    | 6 => do
      zf53 w
      (dDa w ws).map .errld
    | _ => .error 0x0003
  | 0x7E => .error 0x0007
  | 0x7F => .error 0x0002
  | _ => .error 0x0001

/-! ## Bundles (R170 to R178, R184) -/

/-- The prefix slot (R176); its reserved bits are checked in its turn. -/
def dPfx (w : SlotWord) : Dec OpPfx := do
  let scope ← scopeOf (w.extractLsb' 21 3).toNat
  chk (wF w == 0) 0x0006
  pure ⟨scope, w.extractLsb' 14 7, w.extractLsb' 11 3, w.getLsbD 10, w.extractLsb' 7 3, w.getLsbD 6⟩

/-- Slot classes (R172, R180). -/
inductive Cls where | none | control | scalar | vector | load | matrix | transposer | sync | pfx
deriving DecidableEq, Repr

def clsOf (op : Nat) : Cls :=
  if op = 0 then .none
  else if op ≤ 0x0D then .scalar
  else if op < 0x10 then .none
  else if op ≤ 0x17 then .control
  else if op < 0x20 then .none
  else if op ≤ 0x3A then .vector
  else if op < 0x40 then .none
  else if op ≤ 0x41 then .transposer
  else if op ≤ 0x43 then .vector
  else if op < 0x48 then .none
  else if op ≤ 0x5F then .matrix
  else if op ≤ 0x6F then .load
  else if op ≤ 0x77 then .sync
  else if op = 0x78 then .control
  else if op ≤ 0x7B then .sync
  else if op = 0x7C then .load
  else if op = 0x7D then .control
  else if op = 0x7E then .pfx
  else .none

def Cls.limit : Cls → Nat
  | .scalar | .vector => 2
  | .none => 8
  | _ => 1

/-- Majors that take a lane mask (R180). -/
def masked (op : Nat) : Bool :=
  decide (0x20 ≤ op) && decide (op ≤ 0x39) && op != 0x2E && op != 0x35

/-- A slot of a bundle: its position, its word, the words surrendered to it, its meaning and its lane mask. -/
structure BSlot where
  pos : Nat
  word : SlotWord
  ws : List Imm31
  instr : Instr
  vm : Option (BitVec 3)
deriving DecidableEq, Repr

structure Bundle where
  words : Nat
  scope : Scope
  slots : List BSlot
deriving DecidableEq, Repr

/-- An illegal instruction: cause, slot position, slot word (R183). -/
structure Illegal where
  cause : BitVec 16
  pos : Nat
  word : SlotWord
deriving DecidableEq, Repr

/-- The slots that are not surrendered, each with the words surrendered to it (R177). -/
def groupSlots (surr : BitVec 7) : Nat → List SlotWord → List (Nat × SlotWord × List Imm31)
  | _, [] => []
  | k, w :: r =>
    let g := r.zipIdx.takeWhile fun e => surr.getLsbD (k + e.2)
    let t := groupSlots surr (k + 1) r
    if k ≠ 0 ∧ surr.getLsbD (k - 1) then t else (k, w, g.map fun e => e.1.setWidth 31) :: t

/-- The first slot at which a class passes its limit (R172). -/
def overLimit : List (Cls × Nat × SlotWord) → List Cls → Option (Nat × SlotWord)
  | [], _ => none
  | (c, k, w) :: r, seen =>
    if c.limit ≤ (seen.filter (· == c)).length then some (k, w) else overLimit r (c :: seen)

/-- The image of a follow-on command (R249). -/
def followChk (o : OpCpy) : Dec Unit :=
  match o.follow, o.ws with
  | true, [_, img] => do
    let i ← decodeSlot (img.setWidth 32) []
    chk (match i with
      | .mma _ | .aclr _ | .accld _ | .accst _ => true
      | _ => false) 0x0003
  | _, _ => .ok ()

/-- A LOOP or MLOOP whose F passes and whose end offset lies below its own bundle's length, which its fields D and A
fail (R184, R197, R201). -/
def shortLoop (n : Nat) (w : SlotWord) : Bool :=
  (wOp w == 0x14 || (wOp w == 0x15 && wF w != 0)) && decide ((wD w ++ wA w).toNat < n)

/-- A slot in its own turn of R184 step 4, in a bundle of `n` slots. -/
def decodeTurn (n k : Nat) (w : SlotWord) (ws : List Imm31) : Dec Instr :=
  if k = 0 ∧ wOp w = 0x7E then (dPfx w).map .pfx
  else if shortLoop n w then .error 0x0006
  else do
    let i ← decodeSlot w ws
    match i with
    | .cpy o => followChk o
    | _ => pure ()
    pure i

/-- The slots in turn; the masked slots take VM0 and VM1 in order (R178). -/
def decodeSlots (n : Nat) :
    List (Nat × SlotWord × List Imm31) → List (Option (BitVec 3)) → Except Illegal (List BSlot)
  | [], _ => .ok []
  | (k, w, ws) :: r, vms =>
    match decodeTurn n k w ws with
    | .error c => .error ⟨c, k, w⟩
    | .ok i =>
      let m := masked (wOp w).toNat
      (decodeSlots n r (if m then vms.tail else vms)).map
        fun t => ⟨k, w, ws, i, if m then (vms.head?).join else none⟩ :: t

/-- The words of a bundle, up to the first with E = 1 (R170). -/
def frame (l : List SlotWord) : Except Illegal (List SlotWord) :=
  let l8 := l.take 8
  match l8.findIdx? wE with
  | some k => if k ≤ 2 then .error ⟨0x0009, k, l8.getD k 0⟩ else .ok (l8.take (k + 1))
  | none => .error ⟨0x0009, 7, l8.getD 7 0⟩

/-- Decodes a bundle from the words at its address, in the order of R184 steps 1 to 5, then the lone RFT of R337. Which
slot is named where R183 leaves it open is log 41. -/
def decodeBundle (l : List SlotWord) : Except Illegal Bundle := do
  let ws ← frame l
  let w0 := ws.headD 0
  let pfx := wOp w0 == 0x7E
  let surr : BitVec 7 := if pfx then w0.extractLsb' 14 7 else 0
  let items := groupSlots surr 0 ws
  match (items.drop 1).find? fun e => wOp e.2.1 == 0x7E with
  | some (k, w, _) => .error ⟨0x0007, k, w⟩
  | none =>
  if pfx ∧ 4 < (w0.extractLsb' 21 3).toNat then .error ⟨0x000D, 0, w0⟩
  else if surr.getLsbD 0 ∨ ((List.range 7).any fun j => surr.getLsbD j && decide (ws.length ≤ j + 1)) then
    .error ⟨0x000A, 0, w0⟩
  else
  match items.find? fun e => decide (3 < e.2.2.length) || (!e.2.2.isEmpty && wOp e.2.1 == 0) with
  | some (k, w, _) => .error ⟨0x000A, k, w⟩
  | none =>
  match overLimit (items.map fun e => (clsOf (wOp e.2.1).toNat, e.1, e.2.1)) [] with
  | some (k, w) => .error ⟨0x0008, k, w⟩
  | none => do
  let vms : List (Option (BitVec 3)) :=
    if pfx then
      [if w0.getLsbD 10 then some (w0.extractLsb' 11 3) else none,
       if w0.getLsbD 6 then some (w0.extractLsb' 7 3) else none]
    else []
  let slots ← decodeSlots ws.length items vms
  let taken := (items.filter fun e => masked (wOp e.2.1).toNat).length
  if (vms.drop taken).any Option.isSome then .error ⟨0x0006, 0, w0⟩
  else
  match if slots.any (fun b => b.instr == .rft) then slots.find? (fun b => b.instr != .rft && b.instr != .nop) else none with
  | some b => .error ⟨0x0006, b.pos, b.word⟩
  | none =>
  let scope := match slots with
    | ⟨_, _, _, .pfx o, _⟩ :: _ => o.scope
    | _ => .core
  .ok ⟨ws.length, scope, slots⟩

/-! ## The encoder (R171 to R181) -/

def Lat.code : Lat → BitVec 2
  | .bs => 0 | .bv => 1 | .bl => 2 | .bx => 3

def Src.code : Src → BitVec 6
  | .reg r => r.setWidth 6
  | .zero => 32 | .one => 33 | .negOne => 34 | .half => 35 | .two => 36 | .lane => 37
  | .wid k => 38 + BitVec.ofNat 6 k.val
  | .core => 44 | .die => 45
  | .latch g age => 0b11#2 ++ (g.code ++ age)

def LaneT.code : LaneT → BitVec 3
  | .f64 => 0 | .f32 => 1 | .f16 => 2 | .bf16 => 3 | .i64 => 4 | .i32 => 5 | .i16 => 6 | .i8 => 7
def Rnd.code : Rnd → BitVec 3
  | .rne => 0 | .rtz => 1 | .rup => 2 | .rdn => 3 | .rna => 4 | .satrne => 5
def CmpC.code : CmpC → BitVec 4
  | .eq => 0 | .ne => 1 | .lt => 2 | .le => 3 | .gt => 4 | .ge => 5 | .ltu => 6 | .leu => 7 | .gtu => 8 | .geu => 9
def FcmpC.code : FcmpC → BitVec 4
  | .eq => 0 | .ne => 1 | .lt => 2 | .le => 3 | .gt => 4 | .ge => 5 | .un => 6 | .ord => 7
def BrC.code : BrC → BitVec 3
  | .eqz => 0 | .nez => 1 | .ltz => 2 | .gez => 3 | .gtz => 4 | .lez => 5
def VcmpC.code : VcmpC → BitVec 3
  | .eq => 0 | .ne => 1 | .lt => 2 | .le => 3 | .gt => 4 | .ge => 5 | .ltu => 6 | .geu => 7
def SfConv.code : SfConv → BitVec 3
  | .f64ToI64 => 0 | .i64ToF64 => 1 | .f64ToU64 => 2 | .u64ToF64 => 3 | .f64ToF32 => 4 | .f32ToF64 => 5
def CReg.code : CReg → BitVec 6
  | .status => 0x00 | .cycle => 0x01 | .mpc => 0x04 | .wp0 => 0x05 | .wp1 => 0x06 | .wp2 => 0x07 | .wp3 => 0x08
  | .tvec => 0x10 | .tfbase => 0x11 | .tcause => 0x12 | .tepc => 0x13 | .tval => 0x14 | .tscr => 0x15 | .ayctl => 0x16
def AOrd.code : AOrd → BitVec 2
  | .rlx => 0 | .acq => 1 | .rel => 2 | .ar => 3
def FKind.code : FKind → BitVec 2
  | .rs => 0 | .cs => 1 | .rh => 2 | .ch => 3
def ROp.code : ROp → BitVec 2
  | .sum => 0 | .max => 1 | .ssq => 2
def Scope.code : Scope → BitVec 3
  | .core => 0 | .clu => 1 | .die => 2 | .dev => 3 | .sys => 4

/-- A slot word and its surrendered words. -/
abbrev Enc := SlotWord × List Imm31

def Opnd.enc : Opnd → BitVec 6 × List Imm31
  | .src x => (x.code, [])
  | .imm ws => (0, ws)
def Off.enc : Off → BitVec 6 × List Imm31
  | .off o => (o, [])
  | .imm ws => (0, ws)
def Guard.f (g : Guard) (minor : BitVec 2) : BitVec 6 := BitVec.ofBool g.neg ++ (g.p ++ minor)
def p5 (d : BitVec 3) : BitVec 5 := d.setWidth 5
def p6 (d : BitVec 3) : BitVec 6 := d.setWidth 6

def eS2 (op : BitVec 7) (m : BitVec 2) (o : OpS2) : Enc :=
  (mkW op o.d.n o.d.r o.a.code o.b.enc.1 (o.g.f m), o.b.enc.2)
def eS1 (op : BitVec 7) (m : BitVec 2) (o : OpS1) : Enc := (mkW op o.d.n o.d.r o.a.code 0 (o.g.f m), [])
def eP2 (m : BitVec 2) (o : OpP2) : Enc := (mkW 0x09 false (p5 o.d) (p6 o.a) (p6 o.b) (o.g.f m), [])
def eSf (m : BitVec 3) (o : OpSf) : Enc := (mkW 0x0A o.d.n o.d.r o.a.code o.b.enc.1 (o.rm.code ++ m), o.b.enc.2)
def eV3 (op : BitVec 7) (o : OpV3) : Enc := (mkW op o.d.n o.d.r o.a.code o.b.enc.1 (o.m ++ o.t.code), o.b.enc.2)
def eV2 (b : BitVec 6) (o : OpV2) : Enc := (mkW 0x2A o.d.n o.d.r o.a.code b (o.m ++ o.t.code), [])
def eVl (m : BitVec 2) (o : OpVl) : Enc := (mkW 0x2C o.d.n o.d.r o.a.code o.b.enc.1 (0#4 ++ m), o.b.enc.2)
def eVsh (m : BitVec 2) (o : OpVt2) : Enc :=
  (mkW 0x2D o.d.n o.d.r o.a.code o.b.enc.1 (0#1 ++ (m ++ o.t.code)), o.b.enc.2)
def eVt1 (op : BitVec 7) (m : BitVec 3) (o : OpVt1) : Enc := (mkW op o.d.n o.d.r o.a.code 0 (m ++ o.t.code), [])
def eVt2 (op : BitVec 7) (m : BitVec 3) (o : OpVt2) : Enc :=
  (mkW op o.d.n o.d.r o.a.code o.b.enc.1 (m ++ o.t.code), o.b.enc.2)
def eM2 (m : BitVec 3) (o : OpM2) : Enc := (mkW 0x3A false (p5 o.d) (p6 o.a) (p6 o.b) (0#3 ++ m), [])
def eM1 (m : BitVec 3) (o : OpM1) : Enc := (mkW 0x3A false (p5 o.d) (p6 o.a) 0 (0#3 ++ m), [])
def eMma (op : BitVec 7) (o : OpMma) : Enc :=
  (mkW op false (p5 o.d) o.ta o.tb (o.g.f (0#1 ++ BitVec.ofBool o.wrap)),
   match o.prec with
   | none => []
   | some (x, y) => [0#19 ++ (y ++ x)])
def eAcc (m : BitVec 2) (o : OpAcc) : Enc := (mkW 0x4C false (p5 o.d) o.a.code o.o (0#4 ++ m), [])
def eT2 (op : BitVec 7) (o : OpT2) : Enc := (mkW op false (0#2 ++ o.rm.code) o.ta o.tb o.td, [])
def eT1 (op : BitVec 7) (o : OpT1) : Enc := (mkW op false (0#2 ++ o.rm.code) o.ta 0 o.td, [])
def eFs (op : BitVec 7) (o : OpFset) : Enc := (mkW op false (0#3 ++ o.k.code) o.ta o.b.enc.1 o.slot, o.b.enc.2)
def eT (op : BitVec 7) (f : BitVec 6) (o : OpT) : Enc := (mkW op false 0 o.t 0 f, [])
def eB (op : BitVec 7) (o : OpB) : Enc := (mkW op false 0 0 o.b.enc.1 0, o.b.enc.2)
def eRed (op : BitVec 7) (o : OpRed) : Enc := (mkW op false 0 o.ta o.b.enc.1 (0#4 ++ o.op.code), o.b.enc.2)
def eLd (op : BitVec 7) (o : OpLd) : Enc := (mkW op o.d.n o.d.r o.a.code o.o.enc.1 0, o.o.enc.2)
def eSt (op : BitVec 7) (o : OpSt) : Enc := (mkW op false o.d o.a.code o.o.enc.1 0, o.o.enc.2)
def eAddr (m : BitVec 2) (o : OpAddr) : Enc := (mkW 0x68 false 0 o.a.code o.o.enc.1 (0#4 ++ m), o.o.enc.2)
def eGath (m : BitVec 1) (o : OpGath) : Enc := (mkW 0x6B false (p5 o.d) o.a.code o.tb (0#3 ++ (o.c ++ m)), [])
def eAt (op : BitVec 7) (m : BitVec 3) (o : OpAt) : Enc :=
  (mkW op o.d.n o.d.r o.a.code o.b.code (m ++ (o.o.code ++ BitVec.ofBool o.z)), [])
def ePab (op : BitVec 7) (f : BitVec 6) (o : OpPab) : Enc :=
  (mkW op false (p5 o.d) o.a.code o.b.enc.1 f, o.b.enc.2)
def ePa (op : BitVec 7) (f : BitVec 6) (o : OpPa) : Enc := (mkW op false (p5 o.d) o.a.code 0 f, [])
def ePss (op : BitVec 7) (f : BitVec 6) (o : OpPss) : Enc := (mkW op false (p5 o.d) o.a.code o.b.code f, [])
def eAB (m : BitVec 2) (o : OpAB) : Enc := (mkW 0x77 false 0 o.a.code o.b.enc.1 (0#4 ++ m), o.b.enc.2)
def eA (op : BitVec 7) (f : BitVec 6) (o : OpA) : Enc := (mkW op false 0 o.a.code 0 f, [])
def eDa (op : BitVec 7) (f : BitVec 6) (o : OpDa) : Enc := (mkW op false o.d o.a.code 0 f, [])
def eDab (f : BitVec 6) (o : OpDab) : Enc := (mkW 0x7C false o.d o.a.code o.b.code f, [])

/-- The words of a slot instruction; a happening has none. -/
def encode : Instr → Option Enc
  | .nop => some (mkW 0x00 false 0 0 0 0, [])
  | .pfx o => some (0#1 ++ (0x7E#7 ++ (o.scope.code ++ (o.surr ++ (o.vm0 ++ (BitVec.ofBool o.vm0e ++
      (o.vm1 ++ (BitVec.ofBool o.vm1e ++ 0#6))))))), [])
  | .add o => some (eS2 0x01 0 o) | .sub o => some (eS2 0x01 1 o) | .adds o => some (eS2 0x01 2 o)
  | .mul o => some (eS2 0x01 3 o) | .mulh o => some (eS2 0x02 0 o) | .mulhu o => some (eS2 0x02 1 o)
  | .min o => some (eS2 0x02 2 o) | .max o => some (eS2 0x02 3 o) | .minu o => some (eS2 0x03 0 o)
  | .maxu o => some (eS2 0x03 1 o) | .and o => some (eS2 0x03 2 o) | .or o => some (eS2 0x03 3 o)
  | .xor o => some (eS2 0x04 0 o) | .andn o => some (eS2 0x04 1 o) | .shl o => some (eS2 0x04 2 o)
  | .shr o => some (eS2 0x04 3 o) | .sar o => some (eS2 0x05 0 o) | .rot o => some (eS2 0x05 1 o)
  | .clz o => some (eS1 0x05 2 o) | .popc o => some (eS1 0x05 3 o) | .brev o => some (eS1 0x06 0 o)
  | .movi o => some (mkW 0x06 o.d.n o.d.r 0 o.b.enc.1 (o.g.f 1), o.b.enc.2)
  | .cmp o => some (mkW 0x07 false (p5 o.d) o.a.code o.b.enc.1 (o.cc.code ++ 0#2), o.b.enc.2)
  | .sel o => some (eS2 0x08 0 o)
  | .pand o => some (eP2 0 o) | .por o => some (eP2 1 o) | .pxor o => some (eP2 2 o)
  | .pnot o => some (mkW 0x09 false (p5 o.d) (p6 o.a) 0 (o.g.f 3), [])
  | .sfadd o => some (eSf 0 o) | .sfmul o => some (eSf 1 o) | .sfma o => some (eSf 2 o)
  | .sfcmp o => some (mkW 0x0B false (p5 o.d) o.a.code o.b.enc.1 (o.cc.code ++ 0#2), o.b.enc.2)
  | .sfcvt o => some (mkW 0x0C o.d.n o.d.r o.a.code 0 (o.rm.code ++ o.m.code), [])
  | .mfc o => some (mkW 0x0D o.d.n o.d.r o.x.code 0 0, [])
  | .mtc o => some (mkW 0x0D false 0 o.x.code o.b.enc.1 1, o.b.enc.2)
  | .rdwid o => some (mkW 0x0D o.d.n o.d.r 0 0 2, [])
  | .br o => some (match o.t with
    | .rel k => (mkW 0x10 false (k.extractLsb' 12 5) (k.extractLsb' 6 6) (k.extractLsb' 0 6) (o.g.f 0), [])
    | .abs ws => (mkW 0x10 false 0 0 0 (o.g.f 0), ws))
  | .brc o => some (mkW 0x11 false (o.o.extractLsb' 6 5) o.a.code (o.o.extractLsb' 0 6) (o.cc.code ++ 0#3), [])
  | .call o => some (match o.t with
    | .rel k => (mkW 0x12 o.d.n o.d.r (k.extractLsb' 6 6) (k.extractLsb' 0 6) 0, [])
    | .abs ws => (mkW 0x12 o.d.n o.d.r 0 0 0, ws))
  | .jmpr o => some (mkW 0x13 false 0 o.a.code 0 (o.g.f 0), [])
  | .ret o => some (eA 0x13 1 o)
  | .loop o => some (mkW 0x14 false (o.o.extractLsb' 6 5) (o.o.extractLsb' 0 6) o.b.enc.1 0, o.b.enc.2)
  | .mloop o => some (mkW 0x15 false (o.o.extractLsb' 6 5) (o.o.extractLsb' 0 6) o.b.enc.1 o.ii, o.b.enc.2)
  | .lbrk g => some (mkW 0x16 false 0 0 0 (g.f 0), [])
  | .ppt => some (mkW 0x17 false 0 0 0 0, [])
  | .ckpt => some (mkW 0x17 false 0 0 0 1, [])
  | .rdz k => some (mkW 0x17 false 0 (k.extractLsb' 6 6) (k.extractLsb' 0 6) 2, [])
  | .vadd o => some (eV3 0x20 o) | .vsub o => some (eV3 0x21 o) | .vmul o => some (eV3 0x22 o)
  | .vfma o => some (eV3 0x23 o) | .vfms o => some (eV3 0x24 o) | .vmin o => some (eV3 0x25 o)
  | .vmax o => some (eV3 0x26 o) | .vadds o => some (eV3 0x27 o) | .vsubs o => some (eV3 0x28 o)
  | .vmulh o => some (eV3 0x29 o) | .vabs o => some (eV2 0 o) | .vneg o => some (eV2 1 o)
  | .vcmp o => some (mkW 0x2B false (p5 o.d) o.a.code o.b.enc.1 (o.cc.code ++ o.t.code), o.b.enc.2)
  | .vand o => some (eVl 0 o) | .vor o => some (eVl 1 o) | .vxor o => some (eVl 2 o)
  | .vshl o => some (eVsh 0 o) | .vshr o => some (eVsh 1 o) | .vsar o => some (eVsh 2 o)
  | .vsel o => some (mkW 0x2E o.d.n o.d.r o.a.code o.b.enc.1 (0#3 ++ o.s), o.b.enc.2)
  | .vcvt o => some (mkW 0x2F o.d.n o.d.r o.a.code
      (0#1 ++ (BitVec.ofBool o.su ++ (BitVec.ofBool o.tu ++ o.tt.code))) (o.rm.code ++ o.st.code), [])
  | .vpack o => some (mkW 0x30 o.d.n o.d.r o.a.code (0#1 ++ o.f.code) (o.rm.code ++ o.st.code), [])
  | .vunpk o => some (mkW 0x31 o.d.n o.d.r o.a.code (0#1 ++ o.f.code) (o.k ++ o.tt.code), [])
  | .vbcast o => some (eVt1 0x32 0 o)
  | .vext o => some (eVt2 0x33 0 o) | .vlane o => some (eVt2 0x33 1 o) | .vperm o => some (eVt2 0x34 0 o)
  | .vrm o => some (mkW 0x35 o.d.n o.d.r o.a.code o.b.enc.1 (0#1 ++ o.n), o.b.enc.2)
  | .vreds o => some (eVt1 0x36 0 o) | .vredmMax o => some (eVt1 0x36 1 o) | .vredmMin o => some (eVt1 0x36 2 o)
  | .vscan o => some (eVt1 0x36 3 o) | .topk o => some (eVt2 0x37 0 o)
  | .vexp2 o => some (eVt1 0x38 0 o) | .vlog2 o => some (eVt1 0x38 1 o) | .vrcp o => some (eVt1 0x38 2 o)
  | .vrsq o => some (eVt1 0x38 3 o) | .vsig o => some (eVt1 0x38 4 o) | .vtanh o => some (eVt1 0x38 5 o)
  | .vsilu o => some (eVt1 0x38 6 o) | .vgelu o => some (eVt1 0x38 7 o) | .vexpd o => some (eVt2 0x39 0 o)
  | .mand o => some (eM2 0 o) | .mor o => some (eM2 1 o) | .mnot o => some (eM1 2 o)
  | .mpop o => some (mkW 0x3A o.d.n o.d.r (p6 o.a) 0 3, []) | .mfirst o => some (eM1 4 o)
  | .xpush o => some (mkW 0x40 false 0 o.a.code (0#1 ++ o.f.code) (0#4 ++ o.mode), [])
  | .xpop o => some (mkW 0x41 o.d.n o.d.r 0 0 0, [])
  | .defer o => some (mkW 0x42 false (p5 o.d) (o.a.setWidth 6) o.b.enc.1 (0#1 ++ (o.m ++ o.k)), o.b.enc.2)
  | .drain o => some (mkW 0x43 o.d.n o.d.r o.a.code 0 (0#4 ++ o.k), [])
  | .mma o => some (eMma 0x48 o) | .mmas o => some (eMma 0x49 o)
  | .mmat o => some (mkW 0x4A false (p5 o.d) o.ta o.tb (o.g.f (0#1 ++ BitVec.ofBool o.wrap)),
      [0#7 ++ (o.k1 ++ (o.mB ++ o.mA))])
  | .mpcset o => some (eB 0x4B o)
  | .aclr o => some (mkW 0x4C false (p5 o.d) 0 0 0, [])
  | .accld o => some (eAcc 1 o) | .accst o => some (eAcc 2 o)
  | .kat o => some (mkW 0x4D false (p5 o.d) o.ta o.tb (o.g.f 0), [o.w0, o.w1])
  | .texpd o => some (eT1 0x4E o) | .tadd o => some (eT2 0x4F o) | .tsub o => some (eT2 0x50 o)
  | .tmul o => some (eT2 0x51 o)
  | .tscale o => some (mkW 0x52 false (0#2 ++ o.rm.code) o.ta o.b.enc.1 o.td, o.b.enc.2)
  | .trelu o => some (eT1 0x53 o) | .tcvt o => some (eT1 0x54 o)
  | .fset o => some (eFs 0x55 o) | .fclr o => some (eT 0x56 0 o)
  | .fcopy o => some (mkW 0x57 false 0 o.ta o.tb 0, []) | .fcopyAcc o => some (mkW 0x57 false 0 o.t o.t 0, [])
  | .fbind o => some (eFs 0x58 o)
  | .fread o => some (mkW 0x59 o.d.n o.d.r o.ta o.b.enc.1 0, o.b.enc.2)
  | .rrow o => some (eRed 0x5A o) | .rcol o => some (eRed 0x5B o) | .rseal o => some (eB 0x5C o)
  | .rrtalloc o => some (mkW 0x5D o.d.n o.d.r o.a.code o.b.enc.1 (0#4 ++ o.op.code), o.b.enc.2)
  | .rrtfree o => some (eB 0x5E o) | .resolve o => some (eT 0x5F 0 o)
  | .ldr o => some (eLd 0x60 o) | .str o => some (eSt 0x61 o)
  | .lds o => some (mkW 0x62 o.d.n o.d.r o.a.code o.o.enc.1 (0#1 ++ o.l), o.o.enc.2)
  | .sts o => some (mkW 0x63 false o.d o.a.code o.o.enc.1 (0#1 ++ o.l), o.o.enc.2)
  | .ldg o => some (eLd 0x64 o) | .stg o => some (eSt 0x65 o) | .ldgs o => some (eLd 0x66 o) | .stgs o => some (eSt 0x67 o)
  | .pref o => some (eAddr 0 o) | .cflush o => some (eAddr 1 o) | .cinv o => some (eAddr 2 o)
  | .cpy o => some (mkW 0x69 false (p5 o.d) o.ta o.tb (BitVec.ofBool o.follow ++ (BitVec.ofBool o.bar ++
      (BitVec.ofBool o.res ++ (BitVec.ofBool o.strm ++ o.c)))), o.ws)
  | .cpym o => some (mkW 0x6A false (p5 o.d) o.ta o.tb (0#4 ++ o.c), [0#23 ++ o.recv])
  | .gath o => some (eGath 0 o) | .scat o => some (eGath 1 o)
  | .publ o => some (eT 0x6C 0 o)
  | .cwait o => some (mkW 0x6C false (p5 o.d) 0 o.b.enc.1 (0#3 ++ (o.c ++ 1#1)), o.b.enc.2)
  | .cwaitWp o => some (mkW 0x6C false 0 o.a.code 0 (0b001#3 ++ (o.c ++ 1#1)), [])
  | .aadd o => some (eAt 0x6D 0 o) | .aadds o => some (eAt 0x6D 1 o) | .amin o => some (eAt 0x6D 2 o)
  | .amax o => some (eAt 0x6D 3 o) | .aand o => some (eAt 0x6D 4 o) | .aor o => some (eAt 0x6D 5 o)
  | .axor o => some (eAt 0x6D 6 o) | .axchg o => some (eAt 0x6D 7 o)
  | .acas o => some (eAt 0x6E 0 o) | .afadd o => some (eAt 0x6F 0 o)
  | .bind o => some (mkW 0x70 false (p5 o.d) o.a.code o.b.code 0, [0#14 ++ o.obj])
  | .acq o => some (mkW 0x71 o.d.n o.d.r o.a.code o.b.enc.1 (0#2 ++ (o.t ++ 0#1)), o.b.enc.2)
  | .rel o => some (eA 0x71 1 o)
  | .fence => some (mkW 0x72 false 0 0 0 0, [])
  | .fwait o => some (mkW 0x73 false (p5 o.d) o.a.code o.b.enc.1 (0#2 ++ o.f), o.b.enc.2)
  | .fpost o => some (mkW 0x73 false 0 o.a.code 0 (0b01#2 ++ o.f), [])
  | .fpostr o => some (mkW 0x73 false 0 o.a.code o.b.enc.1 (0b10#2 ++ o.f), o.b.enc.2)
  | .sync o => some (ePab 0x74 0 o)
  | .barr o => some (ePa 0x75 0 o) | .barrx o => some (ePab 0x75 1 o) | .bwait o => some (ePab 0x75 2 o)
  | .rearm o => some (ePab 0x75 3 o)
  | .marm o => some (mkW 0x76 o.d.n o.d.r o.a.code 0 0, [])
  | .mwait o => some (mkW 0x76 false (p5 o.d) 0 o.b.enc.1 1, o.b.enc.2)
  | .trig o => some (mkW 0x77 false (p5 o.d) o.a.code o.b.code 0, [o.w])
  | .tcntAdd o => some (eAB 1 o) | .tcntSet o => some (eAB 2 o)
  | .tlaunch o => some (ePa 0x78 0 o) | .tspawn o => some (ePss 0x78 1 o) | .tdep o => some (ePa 0x78 2 o)
  | .tend => some (mkW 0x78 false 0 0 0 3, [])
  | .resadv o => some (mkW 0x79 false o.d o.ta o.b.code 0, [0#14 ++ o.obj])
  | .resdrop o => some (eT 0x79 1 o)
  | .reschk o => some (mkW 0x79 false (p5 o.d) o.ta 0 2, [])
  | .abegin o => some (mkW 0x7A false o.d 0 0 0, [])
  | .apush o => some (mkW 0x7A false (p5 o.d) o.a.code o.b.code 1,
      [o.entry.extractLsb' 0 31, 0#10 ++ o.entry.extractLsb' 31 21])
  | .asave o => some (eDa 0x7A 2 o) | .acommit o => some (ePa 0x7A 3 o) | .aabandon o => some (ePss 0x7A 4 o)
  | .cend o => some (eA 0x7A 5 o) | .aresume o => some (mkW 0x7A false 0 o.a.code o.b.code 6, [])
  | .adiscard o => some (eA 0x7A 7 o)
  | .ctile o => some (ePss 0x7B 0 o) | .cready o => some (ePa 0x7B 1 o) | .cplan o => some (ePss 0x7B 2 o)
  | .cwaitc o => some (ePss 0x7B 3 o)
  | .btset o => some (ePss 0x7C 0 o) | .btlook o => some (eDab 1 o) | .btinv o => some (eA 0x7C 2 o)
  | .sacc o => some (eDab 3 o) | .grace o => some (ePss 0x7C 4 o) | .handover o => some (ePss 0x7C 5 o)
  | .trap k => some (mkW 0x7D false 0 (k.extractLsb' 6 6) (k.extractLsb' 0 6) 0, [])
  | .rft => some (mkW 0x7D false 0 0 0 1, []) | .ebreak => some (mkW 0x7D false 0 0 0 2, [])
  | .signal o => some (ePss 0x7D 3 o)
  | .xread o => some (mkW 0x7D false o.d (p6 o.n) 0 4, []) | .xclr n => some (mkW 0x7D false 0 (p6 n) 0 5, [])
  | .errld o => some (eDa 0x7D 6 o)
  | _ => none

/-- The instruction of an opcode-table word: a word alone, then with as many zero words surrendered to it as its major
requires. -/
def decodeTableWord (nbits w : Nat) : Option Instr :=
  let x := BitVec.ofNat 32 (w % 2 ^ nbits)
  if wOp x = 0x7E then
    match dPfx x with
    | .ok o => some (.pfx o)
    | .error _ => none
  else
    match decodeSlot x [], decodeSlot x [0], decodeSlot x [0, 0] with
    | .ok i, _, _ => some i
    | .error 0x000B, .ok i, _ => some i
    | .error 0x000B, .error 0x000B, .ok i => some i
    | _, _, _ => none

/-- How many zero words `decodeTableWord` supplies. -/
def tableWords (w : SlotWord) : Nat :=
  match decodeSlot w [], decodeSlot w [0] with
  | .error 0x000B, .error 0x000B => 2
  | .error 0x000B, _ => 1
  | _, _ => 0

end Sys2Proof
end

