-- ==== Sys2Proof/Machine/State.lean ====
section
/-!
DEFINITION. State.lean: everything the specification gives the module, as plain data (R68 to R169, R241, R308).
Addresses used as keys are natural numbers; a table of the hardware is a `Tab`, a list of (index, entry) pairs whose
unlisted entries hold the reset value named by the accessor in Machine/Store.lean.
-/
namespace Sys2Proof.Machine

/-- A table: (index, entry) pairs in rising order of index. -/
abbrev Tab (α : Type) := List (Nat × α)

/-! ## Inside a task context slot -/

/-- What an operation on its way comes after: the accesses of a slot of a core before number `seq` (R112, R302, R304). -/
structure Gate where
  core : Nat
  slot : Bool
  seq : Nat
deriving DecidableEq, Repr

/-- No party's accesses come before it. -/
def Gate.open : Gate := ⟨0, false, 0⟩

/-- The four register files an in-flight result may be addressed to, and none (FILE of R346). -/
inductive RFile where | scalar | vector | pred | mask | none
deriving DecidableEq, Repr

/-- Read, write, execute. -/
inductive Kind where | rd | wr | ex
deriving DecidableEq, Repr

/-- Kinds of translated accesses (AKIND of R346). -/
inductive AKind where | ldg | ldgs | stg | stgs | atomic | marm | cflush | cinv
deriving DecidableEq, Repr

/-- How far a translated access has come: its translation is outstanding, it has performed, or it has faulted. -/
inductive AccSt where | pending | done | fault (cause : BitVec 16)
deriving DecidableEq, Repr

/-- A translated access behind an in-flight result (R343, R346). -/
structure Acc where
  kind : AKind
  va : Addr
  /-- slot word of an atomic -/
  word : SlotWord
  /-- store data, or opnd(B) in [63:0] and opnd(D) in [127:64] of an atomic -/
  data : Row
  st : AccSt
  /-- performed, but the value is not back at the core yet (R16) -/
  late : Bool
  /-- the physical address at which it performed -/
  pa : Addr
  /-- its number among the core's accesses (R95, R112) -/
  seq : Nat
deriving DecidableEq, Repr

/-- A result of exposed latency on its way (R34, R122, R346). -/
structure InFl where
  /-- issued cycles until a bundle sees it -/
  delay : Nat
  file : RFile
  reg : BitVec 5
  group : Lat
  /-- the result enters no latch -/
  nl : Bool
  spos : BitVec 3
  baddr : Addr
  value : Row
  lmask : LaneMask
  /-- arithmetic cause recorded when it lands, 0 for none (R297) -/
  cause : BitVec 3
  acc : Option Acc
  /-- a remote result whose reply is not back at the core (R16, R308) -/
  remote : Bool
  /-- the place of its slot in the bundle that issues, counted from 1; 0 once that bundle has issued (R71) -/
  place : Nat
deriving DecidableEq, Repr

/-- A level of the hardware loop stack (R80). -/
structure Level where
  start : Addr
  stop : Addr
  count : BitVec 32
  ii : BitVec 6
  kind : Bool
  /-- the bundles of an MLOOP body with their physical addresses, as loaded in the cycle after its bundle (R201); none until
  loaded again after RFT -/
  body : Option (List (Addr × Addr × List SlotWord))
deriving DecidableEq, Repr

/-- A handle term (R144). -/
abbrev Handle := BitVec 17

/-- A scale slot of a factor record (R144). -/
structure ScaleSlot where
  coef : Word
  h0 : Handle
  h0v : Bool
  h1 : Handle
  h1v : Bool
deriving DecidableEq, Repr

/-- A shift slot of a factor record (R144). -/
structure ShiftSlot where
  val : Word
  h : Handle
  hv : Bool
  mul : Word
deriving DecidableEq, Repr

/-- Identity: COEF = 1.0, no handle (R144). -/
def ScaleSlot.one : ScaleSlot := ⟨0x3FF0000000000000, 0, false, 0, false⟩
/-- Identity: VAL = 0.0, no handle (R144). -/
def ShiftSlot.zero : ShiftSlot := ⟨0, 0, false, 0⟩

/-- A factor record: four arrays of 64 slots (R144). -/
structure FRec where
  rs : Vector ScaleSlot 64
  cs : Vector ScaleSlot 64
  rh : Vector ShiftSlot 64
  ch : Vector ShiftSlot 64
deriving DecidableEq, Repr

/-- The identity record (R144). -/
def FRec.identity : FRec :=
  ⟨.replicate 64 .one, .replicate 64 .one, .replicate 64 .zero, .replicate 64 .zero⟩

/-- States of a reduction-result entry (R146). -/
inductive RState where | free | opened | sealed
deriving DecidableEq, Repr

/-- A reduction-result entry (R146). -/
structure Red where
  state : RState
  op : ROp
  n : BitVec 32
  eps : Word
  val : Vector Word 64
  sse : Vector (BitVec 12) 64
deriving DecidableEq, Repr

/-- A FREE entry. -/
def Red.free : Red := ⟨.free, .sum, 0, 0, .replicate 64 0, .replicate 64 0⟩

/-- A tensor identifier entry (R141), with the global tensor image that the step read at its start (R143). -/
structure TidEnt where
  v : Bool
  wr : Bool
  fmt : BitVec 5
  ndim : BitVec 4
  gti : BitVec 24
  frec : BitVec 5
  fv : Bool
  xval : BitVec 16
  scbase : Addr
  org : Vector (BitVec 32) 10
  shp : Vector (BitVec 16) 10
  gtt : BitVec 1024
deriving DecidableEq, Repr

/-- An invalid entry. -/
def TidEnt.invalid : TidEnt :=
  ⟨false, false, 0, 0, 0, 0, false, 0, 0, .replicate 10 0, .replicate 10 0, 0⟩

/-- An operation of the matrix queue (R241, R242, R252, R277, R356). -/
structure MOp where
  instr : Instr
  word : SlotWord
  /-- the channel whose follow-on it is, and the command that it completes (R249, R250) -/
  follow : Option (Fin 4)
  fid : Nat
  slot : Bool
  /-- its place in the order of issue, among the core's accesses (R77) -/
  seq : Nat
  pos : BitVec 3
  baddr : Addr
  /-- the physical address of that bundle (R248) -/
  bpa : Addr
  /-- issued cycles before it may start -/
  wait : Nat
  /-- cycles run since its start -/
  run : Option Nat
  /-- the next chunk, or the next row -/
  next : Nat
  occ : Nat
  rowA : Nat
  rowB : Nat
  rowD : Nat
  /-- bits 16 and 17 of s28 and of s27 (R257) -/
  layS : BitVec 2
  layD : BitVec 2
  bval : Word
  /-- the metadata word of MMAS -/
  mdw : BitVec 32
  mA : Nat
  mB : Nat
  k : Nat
  tA : TidEnt
  tB : TidEnt
  tD : TidEnt
  fA : FRec
  fB : FRec
  scA : List Byte
  scB : List Byte
  /-- the accumulator through the last completed chunk; once the occupancy has ended, the rows that its write has still
  to store (R242) -/
  acc : List Row
  /-- the rows that the running chunk, or a tile operation, has read (R356) -/
  src : List Row
  /-- arithmetic causes raised so far, in order -/
  causes : List Nat
deriving DecidableEq, Repr

/-- A store held by the withholding buffer (R95): the slot whose segment it belongs to, its line, and the whole line or
one 64-bit lane of it. -/
structure Held where
  slot : Bool
  va : Addr
  /-- its physical address and attribute, once translated -/
  pa : Option Addr
  attr : BitVec 2
  /-- none: the whole line -/
  lane : Option (BitVec 5)
  data : Row
  /-- its number among the core's stores (R117) -/
  seq : Nat
  /-- its segment is closed: it publishes behind the stores before it (R95, R207) -/
  closed : Bool
  /-- a FENCE has come after it: later loads of the slot perform after it (R115) -/
  fenced : Bool
  /-- cycles before its line is asked for, once it is closed (R388) -/
  lag : Nat
deriving DecidableEq, Repr

/-- An entry of the deferral queue: tag, element identifier, values (R232). -/
structure Defd where
  tag : BitVec 8
  id : BitVec 32
  vals : List (BitVec 32)
deriving DecidableEq, Repr

/-- States of a task record (R17). -/
inductive TaskSt where | waiting | ready | queued | running | done | cancelled | poisoned | faulted
deriving DecidableEq, Repr

/-- A step that leaves its slot: it ends, or it is pre-empted (R206, R313, R349). -/
inductive Ending where
  | final (st : TaskSt) (cause : BitVec 16)
  | preempt (pc : Addr)
deriving DecidableEq, Repr

/-- The items that a checkpoint copies (R82, R207, R353, R356). -/
structure Shadow where
  pc : Addr
  prol : BitVec 12
  s : Vector Word 32
  v : Vector Row 32
  p : Vector Bool 8
  m : Vector LaneMask 8
  loops : List Level
  mpc : Word
  deferred : List Defd
  dq : BitVec 26
  sticky : Vector Word 8
  inflight : List InFl
  mq : List MOp
  /-- operations whose last write is still due -/
  mdue : List (Nat × MOp)
  /-- the empty cycle of R196 comes before the first bundle of the segment -/
  bubble : Bool
  a : Tab Row
  adopt : Vector Bool 8
  factors : Tab FRec
  reds : Tab Red
  /-- the checkpoint is that of the bundle at which the step leaves -/
  ending : Option Ending
deriving DecidableEq, Repr

/-- What a switched-out step waits for: the cause of its freeze (R16, R68). -/
inductive Wake where
  | access
  /-- CWAIT.wp: the channel and the count of rows (R296) -/
  | wp (n : Nat) (rows : Nat)
  | sfu
  | remote
  /-- the translation of a page, or the host's answer for it (R99, R308, R364) -/
  | page (va : Addr)
  /-- the buffers that still hold entries of a descriptor (R333) -/
  | btinv (desc : Addr)
  | rdz
deriving DecidableEq, Repr

/-- One of the two task context slots of a core (R68, R69). -/
structure Slot where
  /-- the task record that the slot runs, by its number in `State.tasks` -/
  task : Option Nat
  asn : BitVec 4
  fsw : Bool
  pc : Addr
  s : Vector Word 32
  v : Vector Row 32
  p : Vector Bool 8
  m : Vector LaneMask 8
  /-- row i of accumulator n at 64 n + i (R75) -/
  a : Tab Row
  wid : Word
  widf : Vector Word 6
  mpc : Word
  wp : Vector (BitVec 16) 4
  /-- the command that each write pointer follows -/
  wpo : Vector Nat 4
  /-- outermost first (R80) -/
  loops : List Level
  prol : BitVec 12
  sticky : Vector Word 8
  /-- causes that the records take at the end of the cycle, each with its place in the order of issue, its slot position and
  its bundle: those of the array, and of atomics that have landed (R55, R77) -/
  lcause : List (Nat × BitVec 3 × Addr × List Nat)
  sup : Bool
  depcx : Bool
  resumed : Bool
  replay : Bool
  migr : Bool
  eprio : BitVec 2
  tids : Tab TidEnt
  factors : Tab FRec
  reds : Tab Red
  adopt : Vector Bool 8
  attach : Option (BitVec 12)
  /-- the release record: an object, and the order number of its latest REL (R308, R320) -/
  released : List (BitVec 17 × Nat)
  shadow : Option Shadow
  /-- results parked at a switch (R68) -/
  parked : List InFl
  /-- switched out while frozen, and why (R68) -/
  out : Option Wake
  /-- the page whose walk its bundle waited for and that ended in a fault (R99) -/
  wfault : Option (BitVec 36 × BitVec 16)
  /-- the empty cycle after a taken branch is still to come (R196) -/
  bubble : Bool
  /-- poison was consumed since the last CKPT (R355) -/
  rolled : Bool
  /-- DEFERs issued since step start (R232) -/
  dq : BitVec 26
  /-- the number of the current segment (R82) -/
  seg : Nat
  /-- a compensation task whose CEND failed: it ends at the return from that trap (R326) -/
  cfail : Bool
  ending : Option Ending
deriving DecidableEq, Repr

/-- A slot at reset (R69): nothing runs. -/
def Slot.reset : Slot where
  task := none
  asn := 0
  fsw := false
  pc := 0
  s := .replicate 32 0
  v := .replicate 32 0
  p := .replicate 8 false
  m := .replicate 8 (BitVec.allOnes 128)
  a := []
  wid := 0
  widf := .replicate 6 0
  mpc := 0
  wp := .replicate 4 0
  wpo := .replicate 4 0
  loops := []
  prol := 0
  sticky := .replicate 8 0
  lcause := []
  sup := false
  depcx := false
  resumed := false
  replay := false
  migr := false
  eprio := 0
  tids := []
  factors := []
  reds := []
  adopt := .replicate 8 true
  attach := none
  released := []
  shadow := none
  parked := []
  out := none
  wfault := none
  bubble := false
  rolled := false
  dq := 0
  seg := 0
  cfail := false
  ending := none

/-! ## Inside a core -/

/-- The kinds of channel commands (R285, R292, R293). -/
inductive CmdKind where | cpy | cpym (recv : BitVec 8) | gath | scat
deriving DecidableEq, Repr

/-- How far a channel command has come. -/
inductive CmdSt where | queued | running | follow | stopped
deriving DecidableEq, Repr

/-- A channel command (R285 to R294, R181). -/
structure Cmd where
  kind : CmdKind
  /-- the endpoint registers s22 and s23 -/
  src : Word
  dst : Word
  tA : TidEnt
  tB : TidEnt
  /-- the target identifier that a PUBL names -/
  tid : BitVec 6
  res : Bool
  strm : Bool
  /-- barrier of the issuing die, and the bytes of it not yet landed -/
  bar : Option Nat
  left : Nat
  post : Option (Nat × Nat)
  follow : Option MOp
  fA : FRec
  /-- opnd(A) of GATH and SCAT, and the tokens read at start -/
  desc : Word
  pool : Addr
  table : Addr
  blocks : Nat
  toks : List Nat
  tokb : Nat
  /-- its number among the module's commands (R79, R119) -/
  id : Nat
  /-- the accesses of its core that its checkpoint publishes: those before this number perform first (R117) -/
  after : Nat
  /-- stores withheld when it issued, and what their lines held before the first of each published (R117) -/
  blind : List Nat
  old : List (Nat × Row)
  /-- the address whose walk or host page it waits for, and the fault in which that walk has ended (R99, R364) -/
  ask : Option Addr
  askf : Option (BitVec 16)
  slot : Bool
  task : Option Nat
  asn : BitVec 4
  sup : Bool
  /-- the segment that issued it (R354) -/
  seg : Nat
  scope : Scope
  pos : BitVec 3
  baddr : Addr
  rows : Nat
  row : Nat
  st : CmdSt
  /-- the fault that stopped it: ECODE and address -/
  bad : Option (BitVec 8 × Word)
deriving DecidableEq, Repr

/-- A copy channel (R122, R290). -/
structure Chan where
  q : List Cmd
  fault : Bool
deriving DecidableEq, Repr

/-- Bytes that an engine writes: `n` bytes from `pa`, the bits of `mask` only. -/
structure Part where
  pa : Nat
  n : Nat
  val : Nat
  mask : Nat
deriving DecidableEq, Repr

/-- An unpublished shadow row of a channel: its target bytes (R118, R288, R294). -/
structure ShRow where
  slot : Bool
  task : Option Nat
  tid : BitVec 6
  chan : Fin 4
  seg : Nat
  /-- the command has completed -/
  whole : Bool
  /-- the command that wrote it -/
  cmd : Nat
  parts : List Part
  poison : Bool
deriving DecidableEq, Repr

/-- A post on its way to a flag: it arrives once the sender's earlier accesses have performed (R302). -/
structure Post where
  flag : Nat
  count : Nat
  gate : Gate
deriving DecidableEq, Repr

/-- A publication that waits for the slot's accesses before number `seq`: the commands whose shadow rows it publishes (R118,
R289). -/
structure Pub where
  slot : Bool
  seq : Nat
  cmds : List Nat
deriving DecidableEq, Repr

/-- Why a core is frozen: the code of R350, the cycles so far, and what ends it. -/
structure Freeze where
  code : Nat
  cycles : Nat
  wake : Wake
deriving DecidableEq, Repr

/-- A bundle that waits (R280), holds (R260), or is held at SYNC (R303). -/
inductive HoldKind where
  | wait
  | factor
  | sync (mask : BitVec 8) (released : Bool)
deriving DecidableEq, Repr

/-- A trap whose entry waits for outstanding accesses (R342). -/
structure Trapping where
  cause : BitVec 16
  epc : Addr
  prol : BitVec 12
  tval : Word
  cycles : Nat
  /-- the array runs to the stops of R251; not after a rollback, whose queue has been re-created (R354) -/
  drain : Bool
deriving DecidableEq, Repr

/-- A bundle that does not issue yet: its kind, the cycles it has waited, and the limit of the wait shown. -/
structure Hold where
  kind : HoldKind
  waited : Nat
  limit : Nat
  /-- the slots of the bundle, by their place, whose own wait has ended with its condition met (R41) -/
  met : List Nat
deriving DecidableEq, Repr

/-- MOESI states (R89, R386). -/
inductive Moesi where | m | o | e | s | i
deriving DecidableEq, Repr

/-- A line of an L1 data cache (R89). Every valid copy of a line holds the line's coherent value, which `State.mem`
stores once; where a copy is dirty, `State.stack` holds what the home stack still has. -/
structure L1Line where
  pa : Addr
  st : Moesi
  valid : BitVec 4
  dirty : BitVec 4
  used : Nat
  /-- cycles left of the 64 of R20 -/
  hold : Nat
deriving DecidableEq, Repr

/-- The transposer block (R230, R231). -/
structure Xpose where
  mode : BitVec 2
  fmt : BitVec 5
  pushed : List Row
  popped : Nat
deriving DecidableEq, Repr

/-- An entry of a residency table (R147). -/
structure Resid where
  v : Bool
  stg : Bool
  gti : BitVec 24
  tile : BitVec 40
  loc : BitVec 23
  bytes : BitVec 24
  odie : BitVec 3
  oidx : BitVec 14
  ver : BitVec 32
  stamp : Nat
deriving DecidableEq, Repr

/-- A compute core (R15, R68, R122). -/
structure Core where
  slot0 : Slot
  slot1 : Slot
  /-- the slot in use: STATUS.CTX -/
  ctx : Bool
  bs : Vector Row 4
  bv : Vector Row 4
  bl : Vector Row 4
  bx : Vector Row 4
  inflight : List InFl
  cycle : Word
  tvec : Word
  tfbase : Word
  tcause : BitVec 16
  tepc : Word
  tval : Word
  tscr : Word
  ayctl : Word
  flags : Vector (BitVec 16) 16
  /-- the core's own posts, which take part in the next cycle (R162, R302) -/
  posts : List (Nat × Nat)
  /-- posts of other parties on their way (R162) -/
  rposts : List Post
  deferred : List Defd
  chans : Vector Chan 4
  shrows : List ShRow
  pubs : List Pub
  mq : List MOp
  /-- the operations that a trap recorded, by record position (R252) -/
  mkept : List MOp
  /-- the causes that the results recorded by a trap are to write when they land, by entry (R55) -/
  ckept : List (BitVec 3)
  /-- accumulator writes of completed occupancies: cycles left, operation (R242) -/
  mdue : List (Nat × MOp)
  /-- those that a rollback has re-created, and follow-ons of completed commands that it queues again, kept while its handler
  runs (R356) -/
  dkept : List (Nat × MOp)
  qkept : List MOp
  /-- pending assay mismatches: cycles left, KAT bundle (R248) -/
  assay : List (Nat × Addr)
  xpose : Xpose
  monitor : Option Addr
  monitorHit : Bool
  /-- signals with their senders, and what each comes after (R338) -/
  signals : List (BitVec 16 × BitVec 10 × Gate)
  withheld : List Held
  /-- rows journaled in the segment of a slot, with their old contents and their old poison (R94, R95) -/
  journal : List (Bool × Nat × Row × Bool)
  /-- FPOSTs and FWAIT takings of the segment of a slot: flag, count, taken (R354) -/
  fjournal : List (Bool × Nat × Nat × Bool)
  /-- a queue write waits for a full journal (R356) -/
  jfull : Bool
  resid : Tab Resid
  /-- issued cycles for which the special-function unit is occupied (R229) -/
  sfu : Nat
  freeze : Option Freeze
  hold : Option Hold
  trapping : Option Trapping
  /-- RFT has issued: the return waits for the handler's accesses and for the frame's pages (R349, R364) -/
  returning : Bool
  /-- partner cores marked as replaying (R209) -/
  marks : List Nat
  /-- the RDZ identifiers that marked cores have issued since -/
  rdzSeen : List (Nat × BitVec 12)
  preempt : Bool
  sel : Vector (BitVec 8) 4
  evc : Vector Word 4
  /-- event counters written since the core's last cycle began: they miss its events (R167) -/
  evset : BitVec 4
  l1 : Tab L1Line
  /-- lines of the instruction and metadata caches, by physical address / 256, the latest filled first (R84) -/
  icache : Tab Row
  mcache : Tab Row
  local_ : List Nat
  /-- the next number of the core's accesses, from 1 -/
  useq : Nat
deriving DecidableEq, Repr

/-- A core at reset. -/
def Core.reset : Core where
  slot0 := .reset
  slot1 := .reset
  ctx := false
  bs := .replicate 4 0
  bv := .replicate 4 0
  bl := .replicate 4 0
  bx := .replicate 4 0
  inflight := []
  cycle := 0
  tvec := 0
  tfbase := 0
  tcause := 0
  tepc := 0
  tval := 0
  tscr := 0
  ayctl := 0
  flags := .replicate 16 0
  posts := []
  rposts := []
  deferred := []
  chans := .replicate 4 ⟨[], false⟩
  shrows := []
  pubs := []
  mq := []
  mkept := []
  ckept := []
  mdue := []
  dkept := []
  qkept := []
  assay := []
  xpose := ⟨0, 0, [], 0⟩
  monitor := none
  monitorHit := false
  signals := []
  withheld := []
  journal := []
  fjournal := []
  jfull := false
  resid := []
  sfu := 0
  freeze := none
  hold := none
  trapping := none
  returning := false
  marks := []
  rdzSeen := []
  preempt := false
  sel := .replicate 4 0
  evc := .replicate 4 0
  evset := 0
  l1 := []
  icache := []
  mcache := []
  local_ := []
  useq := 1

/-! ## Inside a cluster and a die -/

/-- A cached translation (R99): a page of 2^size bytes. -/
structure Tlb where
  asn : BitVec 4
  va : Addr
  size : Nat
  pa : Addr
  rd : Bool
  wr : Bool
  ex : Bool
  task : Bool
  attr : BitVec 2
deriving DecidableEq, Repr

/-- A block translation buffer entry (R153). -/
structure Btb where
  desc : Addr
  block : Nat
  pbn : BitVec 24
  used : Nat
deriving DecidableEq, Repr

/-- The messages of the coherence protocol (R386). -/
inductive MsgKind where
  | gets | getm | putm | data | grant | fwds | fwdm | dataf | fwdack | fwdnack | inv | invack | binv | back | putack
deriving DecidableEq, Repr

/-- A message between a home slice and a cluster, or from an owner to a requester (R386). -/
structure Msg where
  kind : MsgKind
  pa : Addr
  /-- the cluster at the home's other end; of a DataF, the owner -/
  cl : Nat
  /-- the requesting cluster, and the L1 that its line goes to -/
  req : Nat
  core : Nat
  /-- the state granted, or that which the requester holds -/
  st : Moesi
  /-- the dirty sectors carried; of a GetM at its home and of a Grant, 15 where the owner has forwarded the line, whose DataF
  the requester then waits for -/
  dirty : BitVec 4
  atomic : Bool
deriving DecidableEq, Repr

/-- Where a requester has its line's data from: nowhere yet, the copy that the cluster holds, a message (R388). DESIGN CHOICE
(log 30): a request keeps the data of that copy where the L1 replaces it meanwhile. -/
inductive Have where | no | own | got
deriving DecidableEq, Repr

/-- A request that a cluster has sent for a line (R388). -/
structure Req where
  pa : Addr
  /-- GetM, else GetS -/
  excl : Bool
  core : Nat
  atomic : Bool
  /-- sectors that the waiting stores dirty -/
  dirty : BitVec 4
  data : Have
  grant : Option Moesi
  /-- an Inv or a BInv came meanwhile: the line stays invalid -/
  gone : Bool
  /-- a GetS that a GetM is to follow -/
  more : Bool
deriving DecidableEq, Repr

/-- A line in the write-back buffer, until its PutAck (R388). -/
structure WbLine where
  pa : Addr
  st : Moesi
  dirty : BitVec 4
deriving DecidableEq, Repr

structure Cluster where
  tlb : List Tlb
  btb : List Btb
  fused : Bool
  /-- the launch that holds the role mode (R132) -/
  role : Option Nat
  reqs : List Req
  wbuf : List WbLine
deriving DecidableEq, Repr

def Cluster.reset : Cluster := ⟨[], [], false, none, [], []⟩

/-- A barrier entry (R149). -/
structure Barrier where
  phase : BitVec 16
  exp : BitVec 16
  arr : BitVec 16
  pend : BitVec 56
  poison : Bool
deriving DecidableEq, Repr

/-- A sync-object entry (R148). -/
structure SyncObj where
  ver : BitVec 32
  lact : BitVec 12
  lav : Bool
deriving DecidableEq, Repr

/-- A triggered operation (R306): its image, and the registers it reads, taken at the TRIG. -/
structure TrigOp where
  ctr : Nat
  thr : BitVec 32
  img : Instr
  core : Nat
  slot : Bool
  task : Option Nat
  launch : Option Nat
  /-- a CPY's command as it will be enqueued -/
  cmd : Option Cmd
  opA : Word
  opB : Word
  scope : Scope
  /-- the address space and level of the party that issued the TRIG -/
  asn : BitVec 4
  sup : Bool
deriving DecidableEq, Repr

/-- A collective tile entry (R151). -/
structure Tile where
  v : Bool
  rdy : Bool
  op : BitVec 3
  type : BitVec 3
  pdie : BitVec 8
  bytes : BitVec 22
  soff : BitVec 21
  pdev : BitVec 64
  raddr : Addr
  plan : BitVec 12
  /-- the model's: the address space and level of the CREADY (log 17), and the accesses that it comes after -/
  asn : BitVec 4
  sup : Bool
  gate : Gate
deriving DecidableEq, Repr

/-- A directory entry (R92). -/
structure DirEnt where
  pa : Addr
  st : Moesi
  owner : Nat
  sharers : BitVec 128
  stamp : Nat
deriving DecidableEq, Repr

/-- A transaction at the home of a line: a request, or an eviction that a request waits for (R387, R388). -/
structure Txn where
  pa : Addr
  req : Msg
  evict : Bool
  /-- the owner whose FwdAck is awaited -/
  fwd : Option Nat
  /-- the clusters whose InvAck or BAck is awaited -/
  invs : List Nat
  /-- the last message is Data rather than Grant -/
  full : Bool
deriving DecidableEq, Repr

/-- A page-table walk: page, and who waits (R99). -/
structure Walk where
  asn : BitVec 4
  vpn : BitVec 36
  /-- waiting cores, and channels -/
  cores : List Nat
  chans : List (Nat × Nat)
  /-- started after the last TBIVC write -/
  fresh : Bool
deriving DecidableEq, Repr

/-- An L2 line (R91, R389): dirty or not, its last use, and its own content, which an L1's dirty sectors may be ahead of. -/
structure L2Line where
  pa : Addr
  dirty : Bool
  used : Nat
  data : Row
deriving DecidableEq, Repr

/-- A listed page (R334, R335): its descriptor's address space, PBN, counter address and notice address. -/
structure PendRel where
  ctr : Addr
  pbn : BitVec 24
  asn : BitVec 4
  notice : Option Addr
  /-- the level of the HANDOVER -/
  sup : Bool
deriving DecidableEq, Repr

/-- An error record (R158). -/
structure ErrRec where
  v : Bool
  rank : BitVec 2
  ovf : Bool
  unit : BitVec 4
  master : BitVec 16
  ecode : BitVec 8
  addr : Addr
  synd : Word
  time : Word
  stamp : Nat
deriving DecidableEq, Repr

def ErrRec.empty : ErrRec := ⟨false, 0, false, 0, 0, 0, 0, 0, 0, 0⟩

structure Bank where
  recs : Vector ErrRec 8
  ccnt : BitVec 16
  dcnt : BitVec 16
  ucnt : BitVec 16
deriving DecidableEq, Repr

def Bank.reset : Bank := ⟨.replicate 8 .empty, 0, 0, 0⟩

/-- What a core does to a barrier: an arrival with bytes, a REARM, the bytes of a bound copy (R163, R164). -/
inductive BarOp where
  | arrive (bytes : Nat)
  | rearm (exp : BitVec 16)
  | add (bytes : Nat)
deriving DecidableEq, Repr

/-- An operation on its way to a slice: bytes that landed or were lost at a barrier (R163), an operation of a core there that
its earlier accesses hold back (R304), a release of an object (R148). -/
inductive Arrival where
  | barr (die idx : Nat) (bytes : Nat) (fault : Bool)
  | bop (die idx : Nat) (op : BarOp) (gate : Gate)
  | rel (die idx : Nat) (lact : BitVec 12) (lav : Bool) (core : Nat) (slot : Bool) (seq : Nat)
deriving DecidableEq, Repr

structure Die where
  staging : Nat
  l2 : Tab (List L2Line)
  dir : Tab (List DirEnt)
  tlb : List Tlb
  missq : List Walk
  walks : List Walk
  /-- tasks ready, in order of entry -/
  ready : List Nat
  overflow : List Nat
  resid : Tab Resid
  sync : Tab SyncObj
  barriers : Tab Barrier
  tctr : Tab (BitVec 32)
  /-- triggered operations queued, in the order of their TRIG -/
  tops : List TrigOp
  /-- those that have become eligible, and run next -/
  tdue : List TrigOp
  tiles : Tab Tile
  cflt : List Nat
  firings : List Nat
  arrivals : List Arrival
  pendrel : List PendRel
  /-- freed pages whose notice word waits for a host page (R364) -/
  notices : List PendRel
  banks : Vector Bank 4
  csseg : Word
  trpool : Word
  /-- entries of the compensation stack in use, by index, with the order numbers of their two objects' RELs (R324) -/
  comps : Tab (Nat × Nat)
deriving DecidableEq, Repr

def Die.reset : Die where
  staging := 0
  l2 := []
  dir := []
  tlb := []
  missq := []
  walks := []
  ready := []
  overflow := []
  resid := []
  sync := []
  barriers := []
  tctr := []
  tops := []
  tdue := []
  tiles := []
  cflt := []
  firings := []
  arrivals := []
  pendrel := []
  notices := []
  banks := .replicate 4 .reset
  csseg := 0
  trpool := 0
  comps := []

/-! ## The module -/

/-- A host launch ring (R123). -/
structure Ring where
  base : Addr
  size : BitVec 64
  tail : BitVec 64
  en : Bool
  err : Bool
  head : BitVec 16
deriving DecidableEq, Repr

def Ring.reset : Ring := ⟨0, 0, 0, false, false, 0⟩

/-- Kinds of tasks: expanded by a walker, spawned (R311), a role task (R132), a compensation task (R325). -/
inductive TaskKind where | walked | spawned | role | comp
deriving DecidableEq, Repr

/-- What is saved of a pre-empted step (R206, R352). -/
structure Saved where
  pc : Addr
  s : List Word
deriving DecidableEq, Repr

/-- A task record (R11, R17). -/
structure Task where
  launch : Nat
  kind : TaskKind
  die : Nat
  wid : Word
  entry : Addr
  prio : BitVec 2
  pinned : Bool
  ctr : BitVec 16
  /-- the rule predecessors not yet final: launch and work identifier (R126) -/
  preds : List (Nat × Word)
  /-- added successors (R312) -/
  added : List Nat
  st : TaskSt
  depcx : Bool
  migr : Bool
  /-- cycles waited in a die ready queue (R19) -/
  waited : Nat
  eprio : BitVec 2
  /-- torn down while running (R136) -/
  torn : Bool
  /-- the accesses of its TSPAWN's step that come before it (R311) -/
  gate : Gate
  saved : Option Saved
  /-- share of zero at dispatch (R168) -/
  zero : Bool
  /-- activity, stack die and index of a compensation task -/
  comp : Option (BitVec 12 × Nat × Nat)
  cword : Word
  /-- the core that last ran it, 0x7FF for none (R135) -/
  core : Nat
deriving DecidableEq, Repr

/-- Where a launch stands. -/
inductive LaunchSt where | waiting | expanding | expanded | done
deriving DecidableEq, Repr

/-- A launch that has been fetched (R124, R139). -/
structure Launch where
  lid : BitVec 16
  asn : BitVec 4
  dies : BitVec 8
  stage : BitVec 4
  fuse : Bool
  role : Bool
  fsw : Bool
  loader : Addr
  storer : Addr
  /-- physical address of its completion word -/
  cw : Addr
  /-- the host ring it came from, none for TLAUNCH -/
  ring : Option Nat
  /-- the operator parameter block, as read at the fetch -/
  opb : BitVec 16384
  /-- next lexicographic index of each die -/
  nextIx : Tab Nat
  st : LaunchSt
  torn : Bool
  /-- work identifiers never created because of a teardown -/
  never : Bool
  /-- its long activity (R319) -/
  act : Option (BitVec 12)
  cause : Option (BitVec 16)
deriving DecidableEq, Repr

/-- States of an activity (R154). -/
inductive ActSt where | free | opened | abandoning | failed
deriving DecidableEq, Repr

structure Act where
  st : ActSt
  lid : BitVec 16
  launch : Nat
  top : Option (Nat × Nat)
  nsave : BitVec 16
  ties : List (BitVec 12)
deriving DecidableEq, Repr

def Act.free : Act := ⟨.free, 0, 0, none, 0, []⟩

/-- An abandonment under way (R323). -/
structure Abandon where
  act : BitVec 12
  save : BitVec 16
  status : Option Addr
  asn : BitVec 4
  die : Nat
  set : List (BitVec 12)
  /-- the compensation task running, or ended failed and waiting -/
  task : Option Nat
  /-- that task has executed CEND with status 1 -/
  tfail : Bool
  failed : Option (BitVec 12)
  /-- ADISCARD has discarded `act` -/
  dropped : Bool
  /-- all is done but the status word, whose page the host has still to grant (R364) -/
  owed : Option Nat
  /-- the accesses of its AABANDON's step that come before it -/
  gate : Gate
deriving DecidableEq, Repr

/-- A region binding (R150). -/
structure Region where
  asn : BitVec 4
  odie : BitVec 3
  oidx : BitVec 14
  nrows : BitVec 32
  base : BitVec 44
deriving DecidableEq, Repr

/-- A firing that waits for its members (R330). -/
structure Firing where
  die : Nat
  entry : Nat
  /-- the tile as read, and its poisoned lines -/
  data : Nat
  bad : List Nat
deriving DecidableEq, Repr

/-- A request for a host page: its space and page, the access that wants it, whether it is the repeated one (R364). -/
structure PageReq where
  /-- the PASID of its address space when it was sent, none where it has none (R364) -/
  pasid : Option (BitVec 20)
  asn : BitVec 4
  vpn : BitVec 36
  kind : Kind
  again : Bool
  /-- the host link that carries it -/
  link : Nat
deriving DecidableEq, Repr

/-- The MSI-X structures of one function (R365): enable, function mask, the vectors not masked, the vectors pending. -/
structure MsixFn where
  on : Bool
  masked : Bool
  opened : List Nat
  pending : List Nat
deriving DecidableEq, Repr

/-- An IDE stream of a host link with a range of addresses, and whether it is secure (R366). -/
structure IdeStream where
  link : Nat
  stream : Nat
  space : IdeSpace
  lo : Nat
  hi : Nat
  secure : Bool
deriving DecidableEq, Repr

/-- FATAL (R359). -/
structure Fatal where
  die : BitVec 3
  core : BitVec 10
  cause : BitVec 16
  dump : Addr
deriving DecidableEq, Repr

/-- Power states (R370). -/
inductive Power where | p0 | d3hot | d3cold
deriving DecidableEq, Repr

/-- The negotiated algorithms (R368). -/
inductive SpdmAlg where | rsassa3072 | sha256 | aes256gcm | secp384r1
deriving DecidableEq, Repr

/-- What the outside was last answered: nothing, data, a completion without data, completer abort. -/
inductive Reply where
  | none
  | data (v : Nat)
  | done
  | abort
  /-- the versions, major and minor, and the algorithms of R368 -/
  | versions (l : List (Nat × Nat))
  | algorithms (l : List SpdmAlg)
deriving DecidableEq, Repr

/-- Boot progress (R367): off, ready, or stopped with its code. -/
inductive Boot where
  | off
  | running (step : Nat) (b : BootIn)
  | ready
  | failed (step code : Nat)
deriving DecidableEq, Repr

/-- An access table entry as its 192 bits (R156). -/
abbrev AccEnt := BitVec 192

/-! ## The state of the model -/

/-- Which move comes next: a core issues, or a happening of a unit (log 1). -/
inductive Move where
  | issue (c : Fin 1024)
  | event (i : Instr)
deriving DecidableEq, Repr, Inhabited

/-- The slot being executed (R170 to R178). -/
structure Ctx where
  baddr : Addr
  /-- the physical address of the bundle (R248) -/
  bpa : Addr
  /-- address of the bundle that follows -/
  next : Addr
  /-- words of the bundle -/
  words : Nat
  pos : BitVec 3
  word : SlotWord
  scope : Scope
  mask : LaneMask
  /-- its place in the bundle or merged row, counted from 1 (R71, R203) -/
  place : Nat
deriving DecidableEq, Repr

/-- What the executed slot did to its bundle: nothing, a trap with its rank, the metadata cause, which comes last among the
illegal instructions (R184), a wait, a freeze. -/
inductive Sig where | none | trap (rank : Nat) | badMeta | poison | held | frozen | gone
deriving DecidableEq, Repr

/-- What the bundle does at its end. -/
structure Eff where
  redirect : Option Addr
  /-- the empty cycle of R196 -/
  bubble : Bool
  /-- no end handling (R198) -/
  noEnd : Bool
  ckpt : Bool
  /-- a slot of the bundle uses the special-function unit (R229) -/
  sfu : Bool
  /-- rows that the bundle's slots write: the row, a lane of 64 bits or all of it, the content (R86) -/
  rows : List (Nat × Option Nat × Row)
deriving DecidableEq, Repr

structure State where
  mem : List Host.Cell
  /-- row and line addresses marked as poisoned (R94) -/
  poison : List Nat
  /-- lines, by address / 256, whose home stack is behind a dirty copy in an L1 or L2: what the stack holds (R387, R389) -/
  stack : Tab Row
  cores : Tab Core
  clusters : Tab Cluster
  dies : Tab Die
  tasks : Tab Task
  launches : Tab Launch
  rings : Tab Ring
  /-- records submitted by TLAUNCH, with the address-space number that they must bear (none: any), and the accesses that the
  walker's read comes after (R310) -/
  tlaunch : List (Addr × Option (BitVec 4) × Gate)
  nextRing : Nat
  regions : List Region
  acts : Tab Act
  abandons : List Abandon
  plans : Tab (List Nat)
  /-- plans that are released once no firing is in flight under them, with the core and slot that wait (R328) -/
  planOut : List (Nat × Nat × Bool)
  /-- coherence messages in transit, in the order sent -/
  msgs : List Msg
  /-- transactions open at the homes, and requests that wait there in order of arrival -/
  home : List Txn
  homeq : List Msg
  fired : List Firing
  /-- migration commands on their way: source, destination, count (R131) -/
  migs : List (Nat × Nat × Nat)
  fatal : Option Fatal
  gttbase : Word
  asroot : Vector Word 16
  tbivc : Option (BitVec 36 × BitVec 4 × BitVec 2)
  tbivcWord : Word
  tbivcOvr : Bool
  boot : Boot
  aspasid : Vector Word 16
  peermap : Tab Word
  devid : Word
  powercap : Word
  pstate : Nat
  power : Power
  apbase : Word
  bar2 : Nat
  access : Tab (Tab AccEnt)
  /-- the functions' MSI-X structures, and the messages sent: function, vector (R365) -/
  msixFns : Vector MsixFn 2
  msixSent : List (Nat × Nat)
  /-- translation requests, and page requests, of which the first 512 of each link are outstanding (R361, R364) -/
  ats : List PageReq
  pri : List PageReq
  /-- pages that the host has refused, and that no waiting access has been told of yet -/
  denied : List (BitVec 4 × BitVec 36)
  /-- pages of the host: space, page, host address, and whether it may be read, written, executed (R364) -/
  hostPages : List (BitVec 4 × BitVec 36 × BitVec 64 × Bool × Bool × Bool)
  ide : List IdeStream
  ports : Vector Nat 18
  /-- measurement slots 1 to 4 (R367) -/
  meas : Vector (BitVec 256) 4
  -- the fields below are the model's own (log 1, 2)
  agenda : List Move
  tick : Nat
  fresh : Nat
  cur : Nat
  ctx : Ctx
  sig : Sig
  eff : Eff
  reply : Reply
deriving DecidableEq, Repr

/-- The module right after reset (R84, R69, R76, R122, R138, R160, R241, R308; logs 2, 4). -/
def State.reset : State where
  mem := []
  poison := []
  stack := []
  cores := []
  clusters := []
  dies := []
  tasks := []
  launches := []
  rings := []
  tlaunch := []
  nextRing := 0
  regions := []
  acts := []
  abandons := []
  plans := []
  planOut := []
  msgs := []
  home := []
  homeq := []
  fired := []
  migs := []
  fatal := none
  gttbase := 0
  asroot := .replicate 16 0
  tbivc := none
  tbivcWord := 0
  tbivcOvr := false
  boot := .off
  aspasid := .replicate 16 0
  peermap := []
  devid := 0
  powercap := 2300
  pstate := 0
  power := .p0
  apbase := 0
  bar2 := 36
  access := []
  msixFns := .replicate 2 ⟨false, false, [], []⟩
  msixSent := []
  ats := []
  pri := []
  denied := []
  hostPages := []
  ide := []
  ports := .replicate 18 448
  meas := .replicate 4 0
  agenda := []
  tick := 0
  fresh := 0
  cur := 0
  ctx := ⟨0, 0, 0, 0, 0, 0, .core, 0, 0⟩
  sig := .none
  eff := ⟨none, false, false, false, false, []⟩
  reply := .none

/-- The model's faults. -/
inductive Fault where
  /-- Raised by `step` when the agenda asks a core to issue after the fatal path has stopped issue on every die
  (R359). Safe: the module stays as it is until it is reset. -/
  | issueStopped
deriving DecidableEq, Repr

/-- The model's refusals. -/
inductive Refusal where
  /-- Raised by an arm of `exec` whose instruction has no meaning yet. Safe: the run stops. -/
  | notModelled (mnemonic : String)
deriving DecidableEq, Repr

end Sys2Proof.Machine
end

