-- ==== Sys2Proof/Machine/Store.lean ====
section
/-!
DEFINITION. Store.lean: tables, vectors and memory as data. Memory is one list of cells over the physical address space
of R87 in canonical form: addresses strictly rising, and no cell equal to 0, which is what an unlisted address reads as
(R84; host and peer windows: log 5).
-/
namespace Sys2Proof.Machine

/-! ## Tables -/

/-- The entry at index `k`, or `d` where none is listed. -/
def tget {α : Type} (t : Tab α) (k : Nat) (d : α) : α :=
  match t with
  | [] => d
  | (j, x) :: r => if k = j then x else tget r k d

/-- Writes the entry at index `k`, keeping the indices in rising order. -/
def tput {α : Type} (t : Tab α) (k : Nat) (x : α) : Tab α :=
  match t with
  | [] => [(k, x)]
  | (j, y) :: r => if k = j then (k, x) :: r else if k < j then (k, x) :: (j, y) :: r else (j, y) :: tput r k x

/-- Removes the entry at index `k`. -/
def tdel {α : Type} (t : Tab α) (k : Nat) : Tab α := t.filter fun e => e.1 != k

/-- Applies `f` to every listed entry. -/
def tmap {α : Type} (t : Tab α) (f : Nat → α → α) : Tab α := t.map fun e => (e.1, f e.1 e.2)

/-- Element `i` of a vector, or `d` beyond it. -/
def vget {α : Type} {n : Nat} (v : Vector α n) (i : Nat) (d : α) : α := v.toArray.getD i d

/-- A vector with element `i` replaced; beyond its length nothing changes. -/
def vset {α : Type} {n : Nat} (v : Vector α n) (i : Nat) (x : α) : Vector α n := v.setIfInBounds i x

/-! ## Memory -/

/-- The canonical form of memory. -/
abbrev Memory.wf (m : List Host.Cell) : Prop := m.Pairwise (fun a b => a.1 < b.1) ∧ ∀ c ∈ m, c.2 ≠ 0

/-- One byte. -/
def rd (m : List Host.Cell) (a : Nat) : Byte :=
  match m with
  | [] => 0
  | c :: r => if c.1 = a then c.2 else rd r a

/-- `n` bytes from `a`, little-endian (R4). -/
def rdN (m : List Host.Cell) (a n : Nat) : Nat :=
  m.foldl (fun acc c => if a ≤ c.1 ∧ c.1 < a + n then acc + c.2.toNat <<< (8 * (c.1 - a)) else acc) 0

/-- The nonzero bytes of `v` as cells from `a`. -/
def cellsOf (a : Nat) (v : Nat) : Nat → List Host.Cell
  | 0 => []
  | n + 1 => if v % 256 = 0 then cellsOf (a + 1) (v / 256) n
             else (a, BitVec.ofNat 8 v) :: cellsOf (a + 1) (v / 256) n

/-- Writes `n` bytes of `v` from `a`. -/
def wrN (m : List Host.Cell) (a n v : Nat) : List Host.Cell :=
  m.filter (fun c => decide (c.1 < a)) ++ cellsOf a v n ++ m.filter (fun c => decide (a + n ≤ c.1))

/-- Writes one byte. -/
def wr (m : List Host.Cell) (a : Nat) (b : Byte) : List Host.Cell := wrN m a 1 b.toNat

/-- A sorted list of addresses as a set. -/
def sput (l : List Nat) (a : Nat) : List Nat :=
  match l with
  | [] => [a]
  | b :: r => if a = b then l else if a < b then a :: l else b :: sput r a

def sdel (l : List Nat) (a : Nat) : List Nat := l.filter (· != a)

/-! ## Bits -/

/-- Lane `i` of width `w` of a row, as a number (R41). -/
def laneN (v : Row) (i w : Nat) : Nat := v.toNat >>> (w * i) % 2 ^ w

/-- A row made of `n` lanes of width `w`. -/
def rowOf (w : Nat) (l : List Nat) : Row :=
  BitVec.ofNat 2048 (l.foldr (fun x acc => (acc <<< w) + x % 2 ^ w) 0)

/-- The two's-complement reading of the low `n` bits (R41). -/
def sextN (x n : Nat) : Int :=
  let y := x % 2 ^ n
  if y < 2 ^ (n - 1) then (y : Int) else (y : Int) - (2 ^ n : Nat)

/-- The `n`-bit pattern congruent to `v` (R41). -/
def wrapN (v : Int) (n : Nat) : Nat := (v % ((2 ^ n : Nat) : Int)).toNat

/-- `lo` below, `hi` above, else `v` (R41). -/
def satI (v lo hi : Int) : Int := if v < lo then lo else if hi < v then hi else v

/-- Number of one bits among the low `n` (R41). -/
def popcN (x : Nat) : Nat → Nat
  | 0 => 0
  | n + 1 => x % 2 + popcN (x / 2) n

/-- Leading zeros of the `n`-bit `x` (R41). -/
def clzN (x n : Nat) : Nat := if x % 2 ^ n = 0 then n else n - 1 - Nat.log2 (x % 2 ^ n)

/-- The `n` low bits in reverse order. -/
def brevN (x : Nat) : Nat → Nat
  | 0 => 0
  | n + 1 => (x % 2) * 2 ^ n + brevN (x / 2) n

/-- `n` by `d` rounded up. -/
def cdiv (n d : Nat) : Nat := (n + d - 1) / d

/-- Bits `h` down to `l` of a number. -/
def bitsN (x h l : Nat) : Nat := x >>> l % 2 ^ (h + 1 - l)

/-- Merge of two rows by a lane mask: 16-bit positions of `m` come from `new` (R178). -/
def expandMask (m : LaneMask) : Row :=
  BitVec.ofNat 2048 ((List.range 128).foldl (fun acc j => if m.getLsbD j then acc + 0xFFFF <<< (16 * j) else acc) 0)

def mergeRow (m : LaneMask) (new old : Row) : Row :=
  if m = BitVec.allOnes 128 then new else
    let e := expandMask m
    (new &&& e) ||| (old &&& ~~~ e)

/-! ## The units of the state -/

def State.core (s : State) (c : Nat) : Core := tget s.cores c .reset
def State.setCore (s : State) (c : Nat) (x : Core) : State := { s with cores := tput s.cores c x }
def State.modCore (s : State) (c : Nat) (f : Core → Core) : State := s.setCore c (f (s.core c))
def State.die (s : State) (d : Nat) : Die := tget s.dies d .reset
def State.setDie (s : State) (d : Nat) (x : Die) : State := { s with dies := tput s.dies d x }
def State.modDie (s : State) (d : Nat) (f : Die → Die) : State := s.setDie d (f (s.die d))
def State.cluster (s : State) (c : Nat) : Cluster := tget s.clusters c .reset
def State.setCluster (s : State) (c : Nat) (x : Cluster) : State := { s with clusters := tput s.clusters c x }
def State.modCluster (s : State) (c : Nat) (f : Cluster → Cluster) : State := s.setCluster c (f (s.cluster c))

/-- Changes of every listed core, die or cluster. -/
def State.mapCores (s : State) (f : Nat → Core → Core) : State := { s with cores := tmap s.cores f }
def State.mapDies (s : State) (f : Nat → Die → Die) : State := { s with dies := tmap s.dies f }
def State.mapClusters (s : State) (f : Nat → Cluster → Cluster) : State := { s with clusters := tmap s.clusters f }

/-- The core that executes. -/
def State.me (s : State) : Core := s.core s.cur
def State.setMe (s : State) (x : Core) : State := s.setCore s.cur x
def State.modMe (s : State) (f : Core → Core) : State := s.setMe (f s.me)

/-- The running context slot of a core (R68). -/
def Core.slot (c : Core) : Slot := if c.ctx then c.slot1 else c.slot0
def Core.slotOf (c : Core) (b : Bool) : Slot := if b then c.slot1 else c.slot0
def Core.setSlotOf (c : Core) (b : Bool) (x : Slot) : Core := if b then { c with slot1 := x } else { c with slot0 := x }
def Core.setSlot (c : Core) (x : Slot) : Core := c.setSlotOf c.ctx x
def State.sl (s : State) : Slot := s.me.slot
def State.setSl (s : State) (x : Slot) : State := s.modMe fun c => c.setSlot x
def State.modSl (s : State) (f : Slot → Slot) : State := s.setSl (f s.sl)

/-! ## What comes before an operation on its way (R112, R118, R302, R304) -/

/-- The results on their way in a slot: in the pipes where it runs, else parked (R68). -/
def flightOf (k : Core) (b : Bool) : List InFl := if b = k.ctx then k.inflight else (k.slotOf b).parked

/-- Whether a slot's accesses and publications before number `q` have all performed. -/
def settledBefore (k : Core) (b : Bool) (q : Nat) : Bool :=
  !((flightOf k b).any fun e => e.acc.any fun a => a.st == .pending && decide (a.seq < q)) &&
  !(k.withheld.any fun h => h.slot == b && h.closed && decide (h.seq < q)) &&
  !(k.pubs.any fun p => p.slot == b && decide (p.seq < q))

/-- Whether what an operation comes after has performed. -/
def State.passes (s : State) (g : Gate) : Bool := settledBefore (s.core g.core) g.slot g.seq

/-- What an operation of the executing slot comes after: all its accesses so far. -/
def State.gate (s : State) : Gate := ⟨s.cur, s.me.ctx, s.me.useq⟩

/-- Die and cluster of a core (R9). -/
def dieOf (c : Nat) : Nat := c / 128
def clusterOf (c : Nat) : Nat := c / 8

/-- A fresh argument for the free values of Config (logs 1, 7). -/
def State.nextFresh (s : State) : State := { s with fresh := s.fresh + 1 }

end Sys2Proof.Machine
end

