-- ==== Sys2Proof/Machine/Num.lean ====
section
/-!
DEFINITION. Num.lean: the number formats of R42 to R57: decoding to exact values, and encoding rounded once. An exact
value is a signed integer times a power of two. A quotient, root or exponential enters as its leading digits with a
sticky digit below them, which rounds as the exact value does.
-/
namespace Sys2Proof.Machine

/-- A value: NaN, an infinity, or ± mant·2^exp (a zero keeps its sign) (R44). -/
inductive FV where
  | nan
  | inf (neg : Bool)
  | fin (neg : Bool) (mant : Nat) (exp : Int)
deriving DecidableEq, Repr

/-- What a floating format does with infinities and NaNs (R45, R47, R56). -/
inductive FSpec where | ieee | e4m3 | none
deriving DecidableEq, Repr

/-- A floating format: width, m, exponent of the smallest normal, exponent of the largest finite value. -/
structure FF where
  w : Nat
  m : Nat
  emin : Int
  emax : Int
  spec : FSpec
deriving DecidableEq, Repr

def FF.f64 : FF := ⟨64, 53, -1022, 1023, .ieee⟩
def FF.f32 : FF := ⟨32, 24, -126, 127, .ieee⟩
def FF.f16 : FF := ⟨16, 11, -14, 15, .ieee⟩
def FF.bf16 : FF := ⟨16, 8, -126, 127, .ieee⟩
def FF.e4m3 : FF := ⟨8, 4, -6, 8, .e4m3⟩
def FF.e5m2 : FF := ⟨8, 3, -14, 15, .ieee⟩
def FF.e2m3 : FF := ⟨6, 4, 0, 2, .none⟩
def FF.e3m2 : FF := ⟨6, 3, -2, 4, .none⟩
def FF.e2m1 : FF := ⟨4, 2, 0, 2, .none⟩

/-- The largest significand, as an integer of m bits. -/
def FF.maxMant (f : FF) : Nat := if f.spec = .e4m3 then 14 else 2 ^ f.m - 1
/-- The exponent of one unit of the smallest significand step. -/
def FF.qmin (f : FF) : Int := f.emin - (f.m - 1 : Nat)
/-- The code of the largest finite magnitude. -/
def FF.maxCode (f : FF) : Nat := f.maxMant + (f.emax - f.emin).toNat * 2 ^ (f.m - 1)
/-- The code of +infinity (formats that have it). -/
def FF.infCode (f : FF) : Nat := 2 ^ (f.w - 1) - 2 ^ (f.m - 1)
/-- The canonical NaN (R43, R46). -/
def FF.nanCode (f : FF) : Nat :=
  match f.spec with
  | .ieee => f.infCode + 2 ^ (f.m - 2)
  | .e4m3 => 0x7F
  | .none => 0
def FF.signBit (f : FF) : Nat := 2 ^ (f.w - 1)

/-- decode (R41, R44, R45, R47). -/
def decodeF (f : FF) (code : Nat) : FV :=
  let c := code % 2 ^ f.w
  let neg := decide (f.signBit ≤ c)
  let g := c % f.signBit
  let p := 2 ^ (f.m - 1)
  let ef := g / p
  let fr := g % p
  if f.spec = .ieee ∧ f.infCode ≤ g then (if g = f.infCode then .inf neg else .nan)
  else if f.spec = .e4m3 ∧ g = 0x7F then .nan
  else if ef = 0 then .fin neg fr f.qmin
  else .fin neg (p + fr) (f.qmin + (ef - 1 : Nat))

/-- The significand of `mant·2^exp` in units of `2^q`: the integer part and twice the fraction compared with one
(0 exact, 1 below half, 2 half, 3 above half). -/
def scaleTo (mant : Nat) (exp q : Int) : Nat × Nat :=
  if q ≤ exp then (mant <<< (exp - q).toNat, 0)
  else
    let sh := (q - exp).toNat
    let r := mant >>> sh
    let rem := mant - (r <<< sh)
    let half := 1 <<< (sh - 1)
    (r, if rem = 0 then 0 else if rem < half then 1 else if rem = half then 2 else 3)

/-- Whether the rounding mode goes up in magnitude (R53). -/
def roundUp (mode : Rnd) (neg : Bool) (r g : Nat) : Bool :=
  match mode with
  | .rne | .satrne => g == 3 || (g == 2 && r % 2 == 1)
  | .rna => g == 3 || g == 2
  | .rtz => false
  | .rup => g != 0 && !neg
  | .rdn => g != 0 && neg

/-- A rounded significand in units of `2^q`, and the class of the discarded part. -/
def roundAt (mode : Rnd) (neg : Bool) (mant : Nat) (exp q : Int) : Nat × Nat :=
  let (r, g) := scaleTo mant exp q
  ((if roundUp mode neg r g then r + 1 else r), g)

/-- Causes of R55 by their codes. -/
abbrev Cause := Nat
def cNV : Cause := 1
def cDZ : Cause := 2
def cOF : Cause := 3
def cUF : Cause := 4
def cFMT : Cause := 5
def cFO : Cause := 6

/-- The overflow result of a finite value (R54, R56), as a magnitude code, or the NaN code. -/
def overflowCode (f : FF) (mode : Rnd) (neg : Bool) : Nat :=
  let toMax := mode == .rtz || mode == .satrne || (mode == .rup && neg) || (mode == .rdn && !neg)
  let s := if neg then f.signBit else 0
  if toMax then s + f.maxCode
  else match f.spec with
    | .ieee => s + f.infCode
    | .e4m3 => 0x7F
    | .none => s + f.maxCode

/-- encode (R41, R54, R56): the code and the cause raised, 0 for none. -/
def encodeF (f : FF) (mode : Rnd) (v : FV) : Nat × Cause :=
  match v with
  | .nan => (f.nanCode, if f.spec = .none then cNV else 0)
  | .inf neg =>
    let s := if neg then f.signBit else 0
    if mode = .satrne then (s + f.maxCode, cOF)
    else match f.spec with
      | .ieee => (s + f.infCode, 0)
      | .e4m3 => (0x7F, cOF)
      | .none => (s + f.maxCode, cOF)
  | .fin neg mant exp =>
    let s := if neg then f.signBit else 0
    if mant = 0 then (s, 0)
    else
      let n : Int := (Nat.log2 mant : Int) + exp
      let q := max n f.emin - (f.m - 1 : Nat)
      let (r, g) := roundAt mode neg mant exp q
      let qmax := f.emax - (f.m - 1 : Nat)
      let ovf := if qmax ≤ q then decide (f.maxMant < r <<< (q - qmax).toNat)
                  else decide (f.maxMant <<< (qmax - q).toNat < r)
      if ovf then (overflowCode f mode neg, cOF)
      else
        let (ru, _) := roundAt mode neg mant exp (n - (f.m - 1 : Nat))
        let tiny := decide (n < f.emin) && !(decide (n + 1 = f.emin) && ru == 2 ^ f.m)
        (s + r + (q - f.qmin).toNat * 2 ^ (f.m - 1), if tiny && g != 0 then cUF else 0)

/-! ## Exact arithmetic -/

def FV.neg : FV → FV
  | .nan => .nan
  | .inf n => .inf !n
  | .fin n m e => .fin (!n) m e

def FV.abs : FV → FV
  | .nan => .nan
  | .inf _ => .inf false
  | .fin _ m e => .fin false m e

def FV.isNaN : FV → Bool
  | .nan => true
  | _ => false

def FV.isInf : FV → Bool
  | .inf _ => true
  | _ => false

def FV.isZero : FV → Bool
  | .fin _ 0 _ => true
  | _ => false

def FV.isNeg : FV → Bool
  | .nan => false
  | .inf n => n
  | .fin n _ _ => n

def FV.zero : FV := .fin false 0 0
def FV.one : FV := .fin false 1 0

/-- The signed significand. -/
def sm (neg : Bool) (m : Nat) : Int := if neg then -(m : Int) else m

/-- A finite value from a signed significand; a zero takes the given sign. -/
def ofSigned (z : Bool) (x : Int) (e : Int) : FV :=
  if x = 0 then .fin z 0 e else .fin (decide (x < 0)) x.natAbs e

/-- Exact sum with the zero rule of R54 for `mode`; the second part is NV for ∞ − ∞. -/
def addFV (mode : Rnd) (a b : FV) : FV × Cause :=
  match a, b with
  | .nan, _ | _, .nan => (.nan, 0)
  | .inf x, .inf y => if x = y then (.inf x, 0) else (.nan, cNV)
  | .inf x, _ => (.inf x, 0)
  | _, .inf y => (.inf y, 0)
  | .fin nx mx ex, .fin ny my ey =>
    let e := min ex ey
    let x := sm nx mx * ((2 ^ (ex - e).toNat : Nat) : Int)
    let y := sm ny my * ((2 ^ (ey - e).toNat : Nat) : Int)
    let z := if mx = 0 ∧ my = 0 ∧ nx = ny then nx else decide (mode = .rdn)
    (ofSigned z (x + y) e, 0)

/-- Exact product; NV for 0·∞. -/
def mulFV (a b : FV) : FV × Cause :=
  match a, b with
  | .nan, _ | _, .nan => (.nan, 0)
  | .inf x, .inf y => (.inf (x != y), 0)
  | .inf x, .fin n m _ => if m = 0 then (.nan, cNV) else (.inf (x != n), 0)
  | .fin n m _, .inf x => if m = 0 then (.nan, cNV) else (.inf (x != n), 0)
  | .fin nx mx ex, .fin ny my ey => (.fin (nx != ny) (mx * my) (ex + ey), 0)

/-- a·b + c exactly: a NaN made of 0·∞ raises NV even when c is NaN (R191). -/
def fmaFV (mode : Rnd) (a b c : FV) : FV × Cause :=
  let (p, k) := mulFV a b
  if k ≠ 0 then (.nan, k) else addFV mode p c

/-- Order of two numbers, −0 equal to +0; none when either is NaN. -/
def cmpFV (a b : FV) : Option Ordering :=
  match a, b with
  | .nan, _ | _, .nan => none
  | .inf x, .inf y => some (if x = y then .eq else if x then .lt else .gt)
  | .inf x, _ => some (if x then .lt else .gt)
  | _, .inf y => some (if y then .gt else .lt)
  | .fin nx mx ex, .fin ny my ey =>
    let e := min ex ey
    let x := sm nx mx * ((2 ^ (ex - e).toNat : Nat) : Int)
    let y := sm ny my * ((2 ^ (ey - e).toNat : Nat) : Int)
    some (if x < y then .lt else if x = y then .eq else .gt)

/-- a < b with −0 below +0 (R54). -/
def ltZ (a b : FV) : Bool :=
  match cmpFV a b with
  | some .lt => true
  | some .eq => a.isNeg && !b.isNeg
  | _ => false

/-- minimum and maximum of R54: a NaN against a number gives the number. -/
def minFV (a b : FV) : FV := if a.isNaN then b else if b.isNaN then a else if ltZ b a then b else a
def maxFV (a b : FV) : FV := if a.isNaN then b else if b.isNaN then a else if ltZ a b then b else a

/-- An integer as a value. -/
def ofInt (x : Int) : FV := .fin (decide (x < 0)) x.natAbs 0

/-- Integer square root of a number below 4^k. -/
def isqrt (n : Nat) : Nat → Nat → Nat
  | 0, acc => acc
  | k + 1, acc => let t := acc + 2 ^ k; if t * t ≤ n then isqrt n k t else isqrt n k acc

/-- The leading digits of a quotient of finite magnitudes with a sticky digit: a/b for b ≠ 0. -/
def quotient (neg : Bool) (ma : Nat) (ea : Int) (mb : Nat) (eb : Int) : FV :=
  if ma = 0 then .fin neg 0 0
  else
    let k := 160 + Nat.log2 mb
    let n := ma <<< k
    let r := n / mb
    .fin neg (2 * r + (if n % mb = 0 then 0 else 1)) (ea - eb - k - 1)

/-- The leading digits of a square root with a sticky digit. -/
def sqrtFin (m : Nat) (e : Int) : FV :=
  if m = 0 then .fin false 0 0
  else
    let e' := if e % 2 = 0 then e else e - 1
    let m' := (if e % 2 = 0 then m else 2 * m) <<< 320
    let r := isqrt m' (Nat.log2 m' / 2 + 1) 0
    .fin false (2 * r + (if r * r = m' then 0 else 1)) (e' / 2 - 160 - 1)

/-- floor(x·2^p) for a finite value. -/
def floorFix (neg : Bool) (m : Nat) (e : Int) (p : Nat) : Int :=
  let sh := e + p
  if 0 ≤ sh then sm neg m * ((2 ^ sh.toNat : Nat) : Int) else sm neg m / ((2 ^ (-sh).toNat : Nat) : Int)

/-- ln 2 to 256 fraction bits. -/
def ln2Fix : Nat := 0xb17217f7d1cf79abc9e3b39803f2f6af40f343267298b62d8a0d175b8baafa2b

/-- Taylor sum of e^x for 0 ≤ x < 1 in fixed point with `p` fraction bits. -/
def expTaylor (p : Nat) (x : Nat) : Nat → Nat → Nat → Nat
  | 0, _, _ => 0
  | n + 1, k, t => t + expTaylor p x n (k + 1) (((t * x) >>> p) / k)

/-- e^x as its leading digits with a sticky digit: exact only at x = 0. -/
def expFV (v : FV) : FV :=
  match v with
  | .nan => .nan
  | .inf true => .fin false 0 0
  | .inf false => .inf false
  | .fin neg m e =>
    if m = 0 then .one
    else if 12 < (Nat.log2 m : Int) + e then (if neg then .fin false 1 (-100000) else .fin false 1 100000)
    else if (Nat.log2 m : Int) + e < -200 then (if neg then .fin false (2 ^ 300 - 1) (-300) else .fin false (2 ^ 300 + 1) (-300))
    else
      let x := floorFix neg m e 256
      let k := x / (ln2Fix : Int)
      let r := (x - k * (ln2Fix : Int)).toNat
      .fin false (2 * expTaylor 256 r 70 1 (2 ^ 256) + 1) (k - 257)

/-- Rounds once into a format and back. -/
def roundFV (f : FF) (mode : Rnd) (v : FV) : FV × Cause :=
  let (c, k) := encodeF f mode v
  (decodeF f c, k)

/-! ## Conversions to and from integers (R57) -/

/-- Rounds to an integer, then saturates. -/
def toIntF (mode : Rnd) (lo hi : Int) (v : FV) : Int × Cause :=
  match v with
  | .nan => (0, cNV)
  | .inf n => ((if n then lo else hi), cNV)
  | .fin n m e =>
    let (r, _) := roundAt mode n m e 0
    let x := sm n r
    let y := satI x lo hi
    (y, if y = x then 0 else cOF)

/-! ## Formats by code (R142) -/

/-- Width of an element in bits (R42). -/
def fmtWidth : Nat → Nat
  | 0 => 64 | 1 => 32 | 2 => 16 | 3 => 16 | 4 => 8 | 5 => 8 | 6 => 8 | 7 => 8 | 8 => 4 | 9 => 4
  | 10 => 8 | 11 => 8 | 12 => 4 | 13 => 4 | 14 => 16 | 15 => 32 | 16 => 64 | 17 => 16 | 18 => 32 | _ => 64

/-- Bits of a code of a format: 6 in the six-bit formats, which are stored in eight (R42, R53). -/
def fmtBits (f : Nat) : Nat := if f = 6 ∨ f = 7 then 6 else fmtWidth f

/-- The floating format behind a code, EN4 and integers excepted. -/
def fmtFF : Nat → FF
  | 0 => .f64 | 1 => .f32 | 2 => .f16 | 3 => .bf16 | 4 => .e4m3 | 5 => .e5m2 | 6 => .e2m3 | 7 => .e3m2 | _ => .e2m1

/-- The value of the E2M1X code 0b1000 (R49), with its cause. -/
def e2m1xExtra (x : Nat) : FV × Cause :=
  match decodeF .bf16 x with
  | .fin n m e => if m < 128 then (.zero, 0) else (.fin n (m / 64) (e + 6), 0)
  | _ => (.zero, cFMT)

/-- Decodes one element of a floating format that stands alone (R43 to R49). -/
def decodeElt (fmt : Nat) (xval : Nat) (code : Nat) : FV × Cause :=
  if fmt = 9 ∧ code % 16 = 8 then e2m1xExtra xval else (decodeF (fmtFF fmt) code, 0)

/-- Encodes into a floating format that stands alone; E2M1X never produces 0b1000 (R49). -/
def encodeElt (fmt : Nat) (mode : Rnd) (v : FV) : Nat × Cause :=
  let (c, k) := encodeF (fmtFF fmt) mode v
  (if fmt = 9 ∧ c = 8 then 0 else c, k)

/-- Decodes a quad of EN4 (R50): four values, each with FMT where it raises it. -/
def decodeQuad (c0 c1 c2 c3 : Nat) : List (FV × Cause) :=
  let i4 (c : Nat) : FV × Cause := (ofInt (sextN c 4), 0)
  let z : FV × Cause := (.zero, 0)
  let bad : FV × Cause := (.zero, cFMT)
  if c0 = 8 ∧ c1 = 8 then [bad, bad, bad, bad]
  else if c0 = 8 ∨ c1 = 8 then
    let o := decodeF .e4m3 (c2 * 16 + c3)
    let o : FV × Cause := if o.isNaN then bad else (o, 0)
    if c0 = 8 then [o, i4 c1, z, z] else [i4 c0, o, z, z]
  else [i4 c0, i4 c1, if c2 = 8 then bad else i4 c2, if c3 = 8 then bad else i4 c3]

end Sys2Proof.Machine
end

