-- ==== Sys2Proof/Machine/Pack.lean ====
section
/-!
DEFINITION. Pack.lean: conversions among the formats of R142 (R48 to R51, R56, R57, R219, R220), and the bit planes of the
matrix array (R58 to R60).
-/
namespace Sys2Proof.Machine

/-- Bounds of an integer format, if the code names one. -/
def fmtInt : Nat → Option (Int × Int)
  | 10 => some (-128, 127) | 11 => some (0, 255) | 12 => some (-8, 7) | 14 => some (-32768, 32767)
  | 15 => some (-2 ^ 31, 2 ^ 31 - 1) | 16 => some (-2 ^ 63, 2 ^ 63 - 1) | 17 => some (0, 65535) | 18 => some (0, 2 ^ 32 - 1)
  | 19 => some (0, 2 ^ 64 - 1) | _ => none

/-- The value of an element that stands alone (every format but EN4). -/
def eltFV (fmt xval code : Nat) : FV × Cause :=
  match fmtInt fmt with
  | some (lo, _) =>
    let w := fmtWidth fmt
    (ofInt (if lo < 0 then sextN code w else ((code % 2 ^ w : Nat) : Int)), 0)
  | none => decodeElt fmt xval code

/-- The code of a value in a format that stands alone. -/
def eltCode (fmt : Nat) (rm : Rnd) (v : FV) : Nat × Cause :=
  match fmtInt fmt with
  | some (lo, hi) => let (x, k) := toIntF rm lo hi v; (wrapN x (fmtWidth fmt), k)
  | none => encodeElt fmt rm v

/-- The order of magnitudes in a quad: an infinity above every number. -/
def magLt (a b : FV) : Bool :=
  match cmpFV a.abs b.abs with
  | some .lt => true
  | _ => false

/-- r(s) of R219; none stands for an infinity. -/
def quadInt (rm : Rnd) : FV → Option Int
  | .nan => some 0
  | .inf _ => none
  | .fin n m e => some (sm n (roundAt rm n m e 0).1)

def inSeven : Option Int → Bool
  | some r => decide (-7 ≤ r) && decide (r ≤ 7)
  | none => false

/-- Packs a quad into EN4 (R219): four codes, each with the causes of its lane. -/
def packQuad (rm : Rnd) (xs : List FV) : List (Nat × List Cause) :=
  let x (s : Nat) : FV := let v := xs.getD s .zero; if v.isNaN then .zero else v
  let nv (s : Nat) : List Cause := if (xs.getD s .zero).isNaN then [cNV] else []
  let r (s : Nat) : Option Int := quadInt rm (x s)
  let w4 (s : Nat) : Nat := wrapN ((r s).getD 0) 4
  if [0, 1, 2, 3].all fun s => inSeven (r s) then [0, 1, 2, 3].map fun s => (w4 s, nv s)
  else
    let o := [1, 2, 3].foldl (fun b s => if magLt (x b) (x s) then s else b) 0
    if o ≤ 1 ∧ inSeven (r (1 - o)) then
      let (e, k) := encodeF .e4m3 .satrne (x o)
      [0, 1, 2, 3].map fun s =>
        (if s = o then 8 else if s = 1 - o then w4 s else if s = 2 then e / 16 % 16 else e % 16,
         nv s ++ (if s = o then [k] else []))
    else
      [0, 1, 2, 3].map fun s => match r s with
        | some v => if v < -7 then (wrapN (-7) 4, nv s ++ [cOF]) else if 7 < v then (7, nv s ++ [cOF]) else (wrapN v 4, nv s)
        | none => (if (x s).isNeg then wrapN (-7) 4 else 7, [cOF])

/-- Groups of four. -/
def quads {α : Type} : List α → List (List α)
  | a :: b :: c :: d :: r => [a, b, c, d] :: quads r
  | [] => []
  | l => [l]

/-- A run of values into the codes of a format, EN4 quad by quad, each with its causes. -/
def packLanes (fmt : Nat) (rm : Rnd) (xs : List FV) : List (Nat × List Cause) :=
  if fmt = 13 then (quads xs).foldl (fun acc q => acc ++ packQuad rm q) []
  else xs.map fun x => let (c, k) := eltCode fmt rm x; (c, [k])

/-- A run of codes into values, each with its cause. -/
def unpackLanes (fmt xval : Nat) (cs : List Nat) : List (FV × Cause) :=
  if fmt = 13 then
    (quads cs).foldl (fun acc q => acc ++ decodeQuad (q.getD 0 0) (q.getD 1 0) (q.getD 2 0) (q.getD 3 0)) []
  else cs.map (eltFV fmt xval)

def packRun (fmt : Nat) (rm : Rnd) (xs : List FV) : List Nat × List Cause :=
  let l := packLanes fmt rm xs
  (l.map Prod.fst, l.foldl (fun acc c => acc ++ c.2) [])

def unpackRun (fmt xval : Nat) (cs : List Nat) : List FV × List Cause :=
  let l := unpackLanes fmt xval cs
  (l.map Prod.fst, l.map Prod.snd)

/-! ## Planes (R58, R59) -/

/-- The floating format whose fields the planes of a code hold. -/
def planeFF : Nat → FF
  | 9 => ⟨10, 2, -126, 127, .none⟩
  | 13 => .e4m3
  | f => fmtFF f

/-- Number of planes P. -/
def planeP (fmt : Nat) : Nat :=
  match fmtInt fmt with
  | some _ => fmtWidth fmt
  | none => (planeFF fmt).w + 1

/-- The significand width m: of an integer, its width. -/
def fmtM (fmt : Nat) : Nat :=
  match fmtInt fmt with
  | some _ => fmtWidth fmt
  | none => (planeFF fmt).m

/-- The plane bits of an element of value `v` and code `c`, the sign plane or the top integer plane first. R59 alters the
hidden-bit plane of a NaN only: its other planes hold the element's own bits (R58). DESIGN CHOICE (log 108): a NaN of an EN4
quad, which has no E4M3 code of its own, packs as the positive canonical NaN. -/
def toPlanes (fmt : Nat) (v : FV) (c : Nat) : List Bool :=
  match fmtInt fmt with
  | some _ =>
    let w := fmtWidth fmt
    let c := (eltCode fmt .rne v).1
    (List.range w).map fun i => c.testBit (w - 1 - i)
  | none =>
    let f := planeFF fmt
    let c := if v.isNaN && fmt != 13 then c else (encodeF f .rne v).1
    let fw := f.m - 1
    let ew := f.w - 1 - fw
    let ef := c >>> fw % 2 ^ ew
    let hid := if v.isNaN then false else decide (ef ≠ 0)
    c.testBit (f.w - 1) :: (((List.range ew).map fun i => ef.testBit (ew - 1 - i)) ++
      hid :: ((List.range fw).map fun i => c.testBit (fw - 1 - i)))

def bitsToNat (l : List Bool) : Nat := l.foldl (fun acc b => 2 * acc + (if b then 1 else 0)) 0

/-- The value of an element from its plane bits, with the first `mp` significand planes read (R58 to R60). -/
def fromPlanes (fmt mp : Nat) (l : List Bool) : FV :=
  match fmtInt fmt with
  | some (lo, _) =>
    let w := fmtWidth fmt
    let c := bitsToNat l
    ofInt (if lo < 0 then sextN c w else ((c : Nat) : Int))
  | none =>
    let f := planeFF fmt
    let ew := f.w - f.m
    let neg := l.headD false
    let ef := bitsToNat ((l.drop 1).take ew)
    let sig := (l.drop (1 + ew)).take f.m
    let hid := sig.headD false
    let s := bitsToNat (sig.take mp) <<< (f.m - mp)
    if ef = 2 ^ ew - 1 ∧ f.spec = .ieee then (if hid then .inf neg else .nan)
    else if ef = 2 ^ ew - 1 ∧ f.spec = .e4m3 ∧ !hid then .nan
    else .fin neg s (f.qmin + (max ef 1 - 1 : Nat))

/-- A value in the plane format, with its significand cut to `mp` bits (R60, R262). -/
def cutFV (fmt mp : Nat) (v : FV) : FV :=
  match fmtInt fmt with
  | some _ => v
  | none =>
    let f := planeFF fmt
    match v with
    | .fin _ _ _ =>
      let c := (encodeF f .rne v).1
      decodeF f (c - c % 2 ^ (f.m - mp))
    | v => v

/-- The bits of plane rows at one position. -/
def planeBits (rows : List Row) (b : Nat) : List Bool := rows.map fun r => r.getLsbD b

end Sys2Proof.Machine
end

