-- ==== Sys2Proof/Config.lean ====
section
/-!
DEFINITION. Config.lean: what the specification leaves free. Nothing here has a body, so nothing can be proved of a
value (logs 1, 7, 12 and 33).
-/
namespace Sys2Proof

/-- Which agent moves next when the agenda is empty (log 1). The argument is the count of moves made. -/
opaque Config.schedule : Nat → Machine.Move

/-- The time base of an error record that no core writes (R158, log 7). -/
opaque Config.freeTime : Nat → Word

/-- The cycles between the publication of a store and the request for its line (R207, R388, R391, log 28). -/
opaque Config.claimLag : Nat → Nat

/-- The syndrome of a memory error (R158, log 7). -/
opaque Config.freeSynd : Nat → Word

/-- The master code of an error record that no master's access caused (R158, log 7). -/
opaque Config.freeMaster : Nat → BitVec 16

/-- Which GiB of device memory firmware reserves for the dump (R360, log 12). -/
opaque Config.dumpGiB : Nat

/-- What the mailbox answers to a request whose reply the specification does not encode (R361, R368, log 33). -/
opaque Config.doeReply : DoeReq → Nat

/-- SHA-256 of 512 bits, by which a measurement slot is extended: the specification names the function only (R367, log 33). -/
opaque Config.sha256 : BitVec 512 → BitVec 256

end Sys2Proof
end

