-- ==== Sys2Proof/Machine/Operands.lean ====
section
/-!
DEFINITION. Operands.lean: the value that every source form names, in the type of the operation that reads it
(R72, R83, R173 to R178), and the results' destinations (R34, R70, R175).
-/
namespace Sys2Proof.Machine

/-! ## Registers of the running slot -/

/-- Scalar register; s0 reads 0 (R69). -/
def sReg (sl : Slot) (r : BitVec 5) : Word := if r = 0 then 0 else vget sl.s r.toNat 0
def vReg (sl : Slot) (r : BitVec 5) : Row := vget sl.v r.toNat 0
/-- Predicate; p0 reads true (R69). -/
def pReg (sl : Slot) (r : BitVec 3) : Bool := if r = 0 then true else vget sl.p r.toNat false
def mReg (sl : Slot) (r : BitVec 3) : LaneMask := vget sl.m r.toNat 0

/-- Writes of registers; s0 and p0 discard (R70). -/
def setS (sl : Slot) (r : BitVec 5) (x : Word) : Slot := if r = 0 then sl else { sl with s := vset sl.s r.toNat x }
def setV (sl : Slot) (r : BitVec 5) (x : Row) : Slot := { sl with v := vset sl.v r.toNat x }
def setP (sl : Slot) (r : BitVec 3) (x : Bool) : Slot := if r = 0 then sl else { sl with p := vset sl.p r.toNat x }
def setM (sl : Slot) (r : BitVec 3) (x : LaneMask) : Slot := { sl with m := vset sl.m r.toNat x }

/-- Row `i` of accumulator `n` (R75). -/
def accRow (sl : Slot) (n i : Nat) : Row := tget sl.a (64 * n + i) 0
def setAccRow (sl : Slot) (n i : Nat) (x : Row) : Slot := { sl with a := tput sl.a (64 * n + i) x }

/-- A bypass latch; an empty one holds zero (R72). -/
def latch (c : Core) (g : Lat) (age : BitVec 2) : Row :=
  match g with
  | .bs => vget c.bs age.toNat 0
  | .bv => vget c.bv age.toNat 0
  | .bl => vget c.bl age.toNat 0
  | .bx => vget c.bx age.toNat 0

/-- A guard holds (R179). -/
def guardOn (s : State) (g : Guard) : Bool := pReg s.sl g.p != g.neg

/-! ## Special sources as integers (R83, R174) -/

def widField (s : State) (k : Fin 6) : Word := vget s.sl.widf k.val 0

/-- A scalar source of an integer operation, 64 bits. -/
def srcS (s : State) : Src → Word
  | .reg r => sReg s.sl r
  | .zero => 0
  | .one => 1
  | .negOne => BitVec.allOnes 64
  | .half => 0
  | .two => 2
  | .lane => 0
  | .wid k => widField s k
  | .core => BitVec.ofNat 64 s.cur
  | .die => BitVec.ofNat 64 (dieOf s.cur)
  | .latch g age => (latch s.me g age).setWidth 64

/-- A long immediate of an integer operation: the 31·n-bit number, sign-extended and wrapped (R177). -/
def immS (ws : List Imm31) : Word := BitVec.ofInt 64 (sextN (immNat ws) (31 * ws.length))

def opndS (s : State) : Opnd → Word
  | .src x => srcS s x
  | .imm ws => immS ws

/-- The exact value of a special source of a floating operation, none for a register or latch (R174). -/
def specialFV (s : State) : Src → Option FV
  | .zero => some .zero
  | .one => some .one
  | .negOne => some (.fin true 1 0)
  | .half => some (.fin false 1 (-1))
  | .two => some (.fin false 1 1)
  | .lane => some .zero
  | .wid k => some (ofInt (widField s k).toNat)
  | .core => some (ofInt s.cur)
  | .die => some (ofInt (dieOf s.cur))
  | .reg _ | .latch _ _ => none

/-- A scalar source of a floating operation, as its encoding in the format (R174); the conversion of a special source
records no cause (log 96). -/
def srcSF (s : State) (f : FF) (rm : Rnd) (x : Src) : Nat :=
  match specialFV s x with
  | some v => (encodeF f rm v).1
  | none => (srcS s x).toNat % 2 ^ f.w

def opndSF (s : State) (f : FF) (rm : Rnd) : Opnd → Nat
  | .src x => srcSF s f rm x
  | .imm ws => immNat ws % 2 ^ f.w

/-! ## Vector sources -/

/-- The same `w`-bit value in every lane (R72, R177). -/
def repRow (w x : Nat) : Row := rowOf w (List.replicate (2048 / w) x)

/-- The lane indices (R83). -/
def laneRow (w : Nat) (enc : Nat → Nat) : Row := rowOf w ((List.range (2048 / w)).map enc)

/-- A vector source of an integer operation of lane width `w` (R72, R174). -/
def srcV (s : State) (w : Nat) : Src → Row
  | .reg r => vReg s.sl r
  | .latch .bs age => repRow w ((latch s.me .bs age).toNat % 2 ^ w)
  | .latch g age => latch s.me g age
  | .lane => laneRow w id
  | x => repRow w ((srcS s x).toNat % 2 ^ w)

/-- A vector source of a floating operation of format `f`; as for a scalar one, the conversion records no cause (log 96). -/
def srcVF (s : State) (f : FF) (rm : Rnd) : Src → Row
  | .lane => laneRow f.w fun i => (encodeF f rm (ofInt i)).1
  | x =>
    match specialFV s x with
    | some v => repRow f.w (encodeF f rm v).1
    | none => srcV s f.w x

def laneFF : LaneT → FF
  | .f64 => .f64
  | .f32 => .f32
  | .f16 => .f16
  | _ => .bf16

/-- A vector source in the type of its lanes. -/
def srcVT (s : State) (t : LaneT) (rm : Rnd) (x : Src) : Row :=
  if t.isFloat then srcVF s (laneFF t) rm x else srcV s t.width x

def opndVT (s : State) (t : LaneT) (rm : Rnd) : Opnd → Row
  | .src x => srcVT s t rm x
  | .imm ws => repRow t.width ((if t.isFloat then immNat ws else (immS ws).toNat) % 2 ^ t.width)

/-- Operand B as integer lanes of width `w`. -/
def opndV (s : State) (w : Nat) : Opnd → Row
  | .src x => srcV s w x
  | .imm ws => repRow w ((immS ws).toNat % 2 ^ w)

/-- A scalar source in a lane type: the low bits, or a special source in the type (R221). -/
def srcLane (s : State) (t : LaneT) (x : Src) : Nat :=
  if t.isFloat then srcSF s (laneFF t) .rne x else (srcS s x).toNat % 2 ^ t.width

/-- The rounding code of layout V on floating lanes (R179). -/
def vRnd (m : BitVec 3) : Rnd :=
  match m.toNat with
  | 0 => .rne | 1 => .rtz | 2 => .rup | 3 => .rdn | 4 => .rna | _ => .satrne

/-! ## Lane masks (R178) -/

/-- Whether lane `i` of width `w` is active: every bit of the mask that covers it is 1. -/
def active (m : LaneMask) (w i : Nat) : Bool :=
  if w ≤ 16 then m.getLsbD (w * i / 16)
  else ((List.range (w / 16)).all fun k => m.getLsbD (w / 16 * i + k))

/-- The 16-bit positions that the active lanes of width `w` cover (R346). Lanes narrower than 16 bits share a bit. -/
def laneMaskOf (m : LaneMask) (w : Nat) : LaneMask :=
  if w ≤ 16 then m
  else BitVec.ofNat 128 ((List.range (2048 / w)).foldl
    (fun acc i => if active m w i then acc + (2 ^ (w / 16) - 1) <<< (w / 16 * i) else acc) 0)

/-! ## Memory operands (R177, R282) -/

/-- Row index of a scratchpad operand: opnd(A) + off, in 64 bits. -/
def rowIx (s : State) (a : Src) : Off → Int
  | .off o => (((srcS s a) + o.setWidth 64).toNat : Int)
  | .imm ws => (((srcS s a) + BitVec.ofInt 64 (sextN (immNat ws) (31 * ws.length) / 256)).toNat : Int)

/-- Byte address of a global operand: opnd(A) + off·u, or plus the long immediate. -/
def byteAddr (s : State) (a : Src) (u : Nat) : Off → Addr
  | .off o => ((srcS s a) + BitVec.ofNat 64 (o.toNat * u)).setWidth 52
  | .imm ws => ((srcS s a) + immS ws).setWidth 52

end Sys2Proof.Machine
end

