-- ==== Sys2Proof/Machine/Flags.lean ====
section
/-!
DEFINITION. Flags.lean: what an instruction computes beside its result: the STATUS word (R76), the sticky exception
records (R77, R210), the exposed latency of its results (R34) and the latches they enter (R72).
-/
namespace Sys2Proof.Machine

def b1 (b : Bool) (k : Nat) : Nat := if b then 2 ^ k else 0

/-- STATUS as MFC reads it (R76). -/
def statusWord (c : Core) (sl : Slot) : Word :=
  BitVec.ofNat 64 (b1 c.ctx 0 + b1 sl.sup 1 + b1 sl.depcx 2 + b1 sl.resumed 3 + b1 sl.replay 4 + b1 sl.migr 5 +
    sl.eprio.toNat * 64 + sl.loops.length * 256)

/-- Records a list of (cause, lane order) in a sticky record: the first fills BADDR and CAUSE of an empty record, every
one sets its SEEN bit (R77, R210). -/
def stickyWord (rec : Word) (baddr : Addr) (causes : List Cause) : Word :=
  let cs := causes.filter (· ≠ 0)
  match cs with
  | [] => rec
  | k :: _ =>
    let seen := cs.foldl (fun acc c => acc ||| (1#64 <<< (55 + c))) (0 : Word)
    if rec.getLsbD 63 then rec ||| seen
    else (baddr.setWidth 64) ||| ((BitVec.ofNat 64 k) <<< 52) ||| seen ||| (1#64 <<< 63)

/-- sticky(cause) for the record of slot position `pos` (R41, R55). -/
def stickyAt (sl : Slot) (pos : BitVec 3) (baddr : Addr) (causes : List Cause) : Slot :=
  { sl with sticky := vset sl.sticky pos.toNat (stickyWord (vget sl.sticky pos.toNat 0) baddr causes) }

def State.sticky (s : State) (causes : List Cause) : State :=
  s.modSl fun sl => stickyAt sl s.ctx.pos s.ctx.baddr causes

/-- Puts a result of exposed latency on its way (R34, R122). -/
def State.push (s : State) (e : InFl) : State :=
  s.modMe fun c => { c with inflight := c.inflight ++ [e] }

def mkIn (s : State) (delay : Nat) (file : RFile) (reg : BitVec 5) (g : Lat) (nl : Bool) (v : Row) (m : LaneMask) : InFl :=
  ⟨delay, file, reg, g, nl, s.ctx.pos, s.ctx.baddr, v, m, 0, none, false, s.ctx.place⟩

/-- deliver for a scalar destination of latch group `g` (R34, R41, R70, R175). -/
def State.deliverS (s : State) (d : Dst) (x : Word) (lat : Nat) (g : Lat) : State :=
  s.push (mkIn s lat (if d.n then .none else .scalar) d.r g false (x.setWidth 2048) (BitVec.allOnes 128))

/-- deliver for a scalar destination that feeds no latch (CALL, ACQ, R308). -/
def State.deliverSN (s : State) (d : BitVec 5) (n : Bool) (x : Word) (lat : Nat) : State :=
  s.push (mkIn s lat (if n then .none else .scalar) d .bs true (x.setWidth 2048) (BitVec.allOnes 128))

/-- deliver for a vector destination, writing the 16-bit positions of `m`. -/
def State.deliverV (s : State) (d : Dst) (x : Row) (m : LaneMask) (lat : Nat) (g : Lat) : State :=
  s.push (mkIn s lat (if d.n then .none else .vector) d.r g false x m)

/-- A further register of a run: it enters no latch (R175, R211). -/
def State.deliverVN (s : State) (n : Bool) (r : BitVec 5) (x : Row) (m : LaneMask) (lat : Nat) : State :=
  s.push (mkIn s lat (if n then .none else .vector) r .bv true x m)

def State.deliverP (s : State) (d : BitVec 3) (x : Bool) (lat : Nat) : State :=
  s.push (mkIn s lat .pred (d.setWidth 5) .bs true (if x then 1 else 0) (BitVec.allOnes 128))

def State.deliverM (s : State) (d : BitVec 3) (x : LaneMask) (lat : Nat) : State :=
  s.push (mkIn s lat .mask (d.setWidth 5) .bs true (x.setWidth 2048) (BitVec.allOnes 128))

end Sys2Proof.Machine
end

