-- ==== Sys2Proof/Machine/Phys.lean ====
section
/-!
DEFINITION. Phys.lean: the physical map and who may reach it (R87, R88, R156, R157, R369), poison marks (R94), error
records (R158, R159, R169, R357), and translation (R96 to R100, R364).
-/
namespace Sys2Proof.Machine

/-! ## The physical map (R87) -/

inductive Target where
  | dev
  | staging (d sl off : Nat)
  | csram (d off : Nat)
  | ctl (off : Nat)
  | spad (c off : Nat)
  | host
  | peer (p : Nat)
  | hole
deriving DecidableEq, Repr

def devTop : Nat := 768000000000

/-- What a physical address reaches; staging beyond its share is unpopulated (R87, R91). -/
def targetOf (s : State) (pa : Nat) : Target :=
  if pa < devTop then .dev
  else
    let o := pa % 2 ^ 48
    match pa / 2 ^ 48 with
    | 1 =>
      let d := o / 2 ^ 27
      let off := o % 2 ^ 23
      if d < 8 ∧ off < (s.die d).staging * 2 ^ 20 then .staging d (o / 2 ^ 23 % 16) off else .hole
    | 2 => if o < 8 * 2 ^ 21 then .csram (o / 2 ^ 21) (o % 2 ^ 21) else .hole
    | 3 => if o < 2 ^ 26 then .ctl o else .hole
    | 4 => if o < 1024 * 2 ^ 21 then .spad (o / 2 ^ 21) (o % 2 ^ 21) else .hole
    | 8 | 9 | 10 | 11 => .host
    | 12 | 13 | 14 | 15 => .peer ((pa - 12 * 2 ^ 48) / 2 ^ 44)
    | _ => .hole

/-- First byte of scratchpad row `r` of core `c` (R87). -/
def spadRow (c r : Nat) : Nat := 4 * 2 ^ 48 + c * 2 ^ 21 + 256 * r
def csramBase (d : Nat) : Nat := 2 * 2 ^ 48 + d * 2 ^ 21

/-- Home die of a device-memory address: the exclusive-or of its 3-bit groups (R88). -/
def xorGroups : Nat → Nat → Nat
  | 0, _ => 0
  | k + 1, x => (x % 8) ^^^ xorGroups k (x / 8)
def homeDie (pa : Nat) : Nat := xorGroups 10 (bitsN pa 37 8) ^^^ bitsN pa 39 38
def lineNo (pa : Nat) : Nat := pa / 2048
def homeSlice (pa : Nat) : Nat := bitsN (lineNo pa) 3 0 ^^^ bitsN (lineNo pa) 7 4
def homeSet (pa : Nat) : Nat := bitsN (lineNo pa) 14 4
def stackOffset (pa : Nat) : Nat := 256 * lineNo pa + pa % 256
def lineOf (a : Nat) : Nat := a / 256 * 256

/-! ## Rows and lines -/

def State.rdLine (s : State) (pa : Nat) : Row := BitVec.ofNat 2048 (rdN s.mem (lineOf pa) 256)
/-- Bytes written through to the home stack, where a line of it is behind. -/
def patchStack (t : Tab Row) (pa n v : Nat) : Tab Row :=
  tmap t fun k r =>
    if k = pa / 256 ∧ pa % 256 + n ≤ 256 then
      let m : Row := BitVec.ofNat 2048 ((2 ^ (8 * n) - 1) <<< (8 * (pa % 256)))
      (r &&& ~~~m) ||| (BitVec.ofNat 2048 (v % 2 ^ (8 * n) <<< (8 * (pa % 256))))
    else r
def State.wrBytes (s : State) (pa n v : Nat) : State := { s with
  mem := wrN s.mem pa n v
  stack := patchStack s.stack pa n v }
def State.clean (s : State) (pa : Nat) : State := { s with poison := sdel s.poison (lineOf pa) }
def State.taint (s : State) (pa : Nat) : State := { s with poison := sput s.poison (lineOf pa) }
def State.poisoned (s : State) (pa : Nat) : Bool := s.poison.contains (lineOf pa)

/-- A whole line of clean data clears the poison (R94). -/
def State.wrLine (s : State) (pa : Nat) (v : Row) : State := (s.wrBytes (lineOf pa) 256 v.toNat).clean pa

/-- Any write of a line wakes the monitors armed on it (R305). -/
def wakeMonitors (s : State) (pa : Nat) : State :=
  if s.cores.any fun c => c.2.monitor == some (BitVec.ofNat 52 (lineOf pa)) then
    s.mapCores fun _ c => if c.monitor = some (BitVec.ofNat 52 (lineOf pa)) then { c with monitorHit := true } else c
  else s

/-- Scratchpad row of a core. -/
def State.rdRow (s : State) (c r : Nat) : Row := BitVec.ofNat 2048 (rdN s.mem (spadRow c r) 256)

/-- Whether a residency entry of a core's table covers row `r` (R147). -/
def covers (e : Resid) (r : Nat) : Bool :=
  let loc := e.loc.toNat % 8192
  e.v && decide (loc ≤ r) && decide (r < loc + cdiv e.bytes.toNat 256)

/-- Clears V in every entry of the core that covers the row (R147). -/
def dropResid (c : Core) (r : Nat) : Core :=
  { c with resid := c.resid.map fun e => if covers e.2 r then (e.1, { e.2 with v := false }) else e }

/-- Clears V in every entry of a die's staging table that covers row `r` of slice `sl` (R147). -/
def dropStaged (x : Die) (sl r : Nat) : Die :=
  let hit (e : Resid) : Bool :=
    let lo := e.loc.toNat / 16 % 2 ^ 15
    e.v && e.loc.toNat % 16 == sl && decide (lo ≤ r) && decide (r < lo + cdiv e.bytes.toNat 256)
  { x with resid := x.resid.map fun e => if hit e.2 then (e.1, { e.2 with v := false }) else e }

/-- A write of a scratchpad row, by anyone: the row is replaced and covering residency entries drop (R86, R94, R147). -/
def State.wrRow (s : State) (c r : Nat) (v : Row) : State :=
  (s.wrLine (spadRow c r) v).modCore c fun k => dropResid k r

/-! ## Masters and access tables (R156, R157) -/

def Master.code : Master → Nat
  | .core c => c.val
  | .chan c n => 0x2000 + 4 * c.val + n.val
  | .coll d => 0x4000 + d.val
  | .sched d => 0x6000 + d.val
  | .host l => 0x8000 + l.val
  | .peer p => 0xA000 + p.val
  | .mgmt => 0xC000

def coreMaster (c : Nat) : Nat := c
def chanMaster (c n : Nat) : Nat := 0x2000 + 4 * c + n
def collMaster (d : Nat) : Nat := 0x4000 + d
def schedMaster (d : Nat) : Nat := 0x6000 + d

/-- The number of the target that decides an access, among the 64 tables of R156 (log 10). -/
def targetNo (s : State) (pa : Nat) : Nat :=
  match targetOf s pa with
  | .dev => homeDie pa
  | .staging d _ _ => 8 + d
  | .csram d _ => 16 + d
  | .spad c _ => 24 + dieOf c
  | .ctl _ => 32
  | .host => 33
  | .peer _ => 34
  | .hole => 63

/-- Entry 0 at reset permits every master over the whole range (R156). -/
def accReset (i : Nat) : AccEnt := if i = 0 then (0xFFFFFFFFF : AccEnt) <<< 128 ||| 0xF else 0

def accMatch (e : AccEnt) (m pa : Nat) : Bool :=
  e.getLsbD 0 &&
  (let mm := (e.extractLsb' 32 16).toNat
   (e.extractLsb' 16 16).toNat &&& mm == m &&& mm) &&
  decide ((e.extractLsb' 64 36).toNat ≤ bitsN pa 51 16) && decide (bitsN pa 51 16 ≤ (e.extractLsb' 128 36).toNat)

/-- The access tables' decision. -/
def accOk (s : State) (m : Nat) (k : Kind) (pa : Nat) : Bool :=
  let t := tget s.access (targetNo s pa) []
  match ((List.range 64).map fun i => tget t i (accReset i)).find? fun e => accMatch e m pa with
  | none => false
  | some e => e.getLsbD (match k with | .rd => 1 | .wr => 2 | .ex => 3)

/-- The ports of a route (R369). -/
def peerPorts (s : State) (p : Nat) : List Nat :=
  (List.range 18).filter fun i => (tget s.peermap p 0).getLsbD i
/-- The port on which a line of a peer's window travels (R369). -/
def peerPort (s : State) (p pa : Nat) : Option Nat := (peerPorts s p)[bitsN pa 51 8 % (peerPorts s p).length]?
def peerOk (s : State) (p : Nat) : Bool :=
  (tget s.peermap p 0).getLsbD 18 && p != (s.devid.toNat % 64) &&
  (peerPorts s p).any fun i => vget s.ports i 0 != 0

/-- Whether traffic of `n` bytes from an offset lies in the range of a stream that is not secure, and is refused (R366); a
link's own streams decide what comes over it, the streams of both what leaves for the host window. -/
def ideRefuses (s : State) (link : Option Nat) (sp : IdeSpace) (off n : Nat) : Bool :=
  s.ide.any fun e => !e.secure && e.space == sp && link.all (· == e.link) && decide (off ≤ e.hi) && decide (e.lo < off + n)

/-- Whether a line of the host window may be reached. -/
def hostReach (s : State) (pa : Nat) : Bool := !ideRefuses s none .host (lineOf pa - 8 * 2 ^ 48) 256

/-- Whether a core may reach a physical address at all (R87, R366, R369). -/
def coreReach (s : State) (pa : Nat) : Bool :=
  match targetOf s pa with
  | .dev | .ctl _ => true
  | .host => hostReach s pa
  | .peer p => peerOk s p
  | _ => false

/-- Whether an engine or the outside may reach it. -/
def engineReach (s : State) (pa : Nat) : Bool :=
  match targetOf s pa with
  | .hole => false
  | .host => hostReach s pa
  | .peer p => peerOk s p
  | _ => true

/-! ## Error records (R158, R159, R169) -/

/-- The oldest record of the lowest rank present. -/
def victimRec (l : List (ErrRec × Nat)) : Option (ErrRec × Nat) :=
  l.foldl (fun acc e => match acc with
    | none => some e
    | some a => if e.1.rank.toNat < a.1.rank.toNat ∨ (e.1.rank = a.1.rank ∧ e.1.stamp < a.1.stamp) then some e else some a)
    none

def incSat (x : BitVec 16) : BitVec 16 := if x = 0xFFFF then x else x + 1

def Bank.place (b : Bank) (e : ErrRec) : Bank :=
  let b := if e.rank = 1 then { b with ccnt := incSat b.ccnt }
           else if e.rank = 2 then { b with dcnt := incSat b.dcnt } else { b with ucnt := incSat b.ucnt }
  let l := b.recs.toList.zipIdx
  -- OVF stays until it is cleared
  let keep (old : ErrRec) : ErrRec := { e with ovf := e.ovf || old.ovf }
  match l.find? fun x => !x.1.v with
  | some x => { b with recs := vset b.recs x.2 (keep x.1) }
  | none =>
    match victimRec l with
    | some x => if x.1.rank.toNat ≤ e.rank.toNat then { b with recs := vset b.recs x.2 (keep x.1) }
                else { b with recs := b.recs.map fun r => { r with ovf := true } }
    | none => b

/-- Whether a function sends a vector's message (R365). -/
def MsixFn.sends (f : MsixFn) (v : Nat) : Bool := f.on && !f.masked && f.opened.contains v

def modMsix (s : State) (l : Nat) (f : MsixFn → MsixFn) : State :=
  { s with msixFns := vset s.msixFns l (f (vget s.msixFns l ⟨false, false, [], []⟩)) }

/-- A function signals a vector: a masked one becomes pending. -/
def msixOne (s : State) (l v : Nat) : State :=
  if (vget s.msixFns l ⟨false, false, [], []⟩).sends v then { s with msixSent := s.msixSent ++ [(l, v)] }
  else modMsix s l fun f => { f with pending := sput f.pending v }

/-- MSI-X signalling (R365), by both functions (log 33). -/
def State.msix (s : State) (v : Nat) : State := msixOne (msixOne s 0 v) 1 v

/-- Writes an error record; a rank-3 record signals vector 1 (R159, R365). -/
def State.record (s : State) (d bank : Nat) (rank : BitVec 2) (unit : BitVec 4) (master : Nat) (ecode : BitVec 8)
    (addr : Addr) (synd time : Word) : State :=
  let e : ErrRec := ⟨true, rank, false, unit, BitVec.ofNat 16 master, ecode, addr, synd, time, s.fresh⟩
  let s := (s.modDie d fun x => { x with banks := vset x.banks bank ((vget x.banks bank .reset).place e) }).nextFresh
  if rank = 3 then s.msix 1 else s

/-- A record whose time base is a core's CYCLE. -/
def State.recordC (s : State) (c bank : Nat) (rank : BitVec 2) (unit : BitVec 4) (master : Nat) (ecode : BitVec 8)
    (addr : Addr) (synd : Word) : State :=
  s.record (dieOf c) bank rank unit master ecode addr synd (s.core c).cycle

/-- A record whose time base the specification does not name (log 7). -/
def State.recordD (s : State) (d bank : Nat) (rank : BitVec 2) (unit : BitVec 4) (master : Nat) (ecode : BitVec 8)
    (addr : Addr) (synd : Word) : State :=
  s.record d bank rank unit master ecode addr synd (Config.freeTime s.fresh)

/-! ## Translation (R96 to R100) -/

def Tlb.matches (e : Tlb) (asn : BitVec 4) (va : Addr) : Bool :=
  e.asn == asn && e.va.toNat / 2 ^ e.size == va.toNat / 2 ^ e.size

/-- The causes of R98 for data accesses; a fetch adds 0x10 (R340). -/
abbrev XFault := BitVec 16
def xNotPresent : XFault := 0x0201
def xMalformed : XFault := 0x0202
def xPermission : XFault := 0x0203
def xAccess : XFault := 0x0204

/-- A walk's outcome: a leaf, a fault, or a page that only the host can grant (R364). -/
inductive WalkRes where
  | leaf (e : Tlb)
  | fault (c : XFault)
  | ask
deriving DecidableEq, Repr

/-- A leaf entry of level `lv` (R97, R98). -/
def leafOf (asn : BitVec 4) (va : Addr) (lv : Nat) (e : BitVec 64) : WalkRes :=
  let size := 16 + 9 * lv
  let base := (e.extractLsb' 12 40).toNat * 4096
  if e.extractLsb' 8 4 ≠ 0 ∨ e.extractLsb' 52 12 ≠ 0 ∨ e.extractLsb' 6 2 = 3 ∨ base % 2 ^ size ≠ 0 then .fault xMalformed
  else .leaf ⟨asn, va, size, BitVec.ofNat 52 base, e.getLsbD 2, e.getLsbD 3, e.getLsbD 4, e.getLsbD 5, e.extractLsb' 6 2⟩

/-- The levels T3 to T0 from the table at `tab`; `die` names the walker. -/
def walkFrom (s : State) (die : Nat) (asn : BitVec 4) (va : Addr) : Nat → Nat → WalkRes
  | lv, tab =>
    if devTop ≤ tab then .fault xMalformed
    else
      let ea := tab + 8 * bitsN va.toNat (24 + 9 * lv) (16 + 9 * lv)
      if !accOk s (schedMaster die) .rd ea then .fault xAccess
      else
        let e : BitVec 64 := BitVec.ofNat 64 (rdN s.mem ea 8)
        if !e.getLsbD 0 then .fault xNotPresent
        else
          match lv with
          | 0 => leafOf asn va 0 e
          | k + 1 =>
            if e.getLsbD 1 then (if k = 2 then .fault xMalformed else leafOf asn va (k + 1) e)
            else if e.extractLsb' 8 4 ≠ 0 ∨ e.extractLsb' 52 12 ≠ 0 then .fault xMalformed
            else walkFrom s die asn va k ((e.extractLsb' 12 40).toNat * 4096)

/-- The whole walk (R96, R98); with shared virtual addressing an absent page is asked of the host (R364). -/
def walk (s : State) (die : Nat) (asn : BitVec 4) (va : Addr) : WalkRes :=
  let root := bitsN (vget s.asroot asn.toNat 0).toNat 51 12 * 4096
  match walkFrom s die asn va 3 root with
  | .fault c =>
    if c = xNotPresent ∧ (vget s.aspasid asn.toNat 0).getLsbD 20 then
      match s.hostPages.find? fun p => p.1 == asn && p.2.1 == va.extractLsb' 16 36 with
      | some (_, _, hpa, r, w, x) =>
        .leaf ⟨asn, va, 16, BitVec.ofNat 52 (8 * 2 ^ 48 + hpa.toNat / 65536 * 65536), r, w, x, true, 2⟩
      | none => .ask
    else .fault c
  | r => r

/-- The permissions of R97 at a level. -/
def permOk (e : Tlb) (sup : Bool) (k : Kind) : Bool :=
  (match k with | .rd => e.rd | .wr => e.wr | .ex => e.ex) && (sup || e.task)

def Tlb.pas (e : Tlb) (va : Addr) : Addr :=
  BitVec.ofNat 52 (e.pa.toNat / 2 ^ e.size * 2 ^ e.size + va.toNat % 2 ^ e.size)

/-- A cached translation: cluster buffer, then die buffer (R99). -/
def tlbFind (s : State) (cl die : Nat) (asn : BitVec 4) (va : Addr) : Option Tlb :=
  match (s.cluster cl).tlb.find? fun e => e.matches asn va with
  | some e => some e
  | none => (s.die die).tlb.find? fun e => e.matches asn va

/-- Fills both buffers (R84, R99). DESIGN CHOICE (log 89): the manual names no replacement; the entry filled first leaves a full
buffer. -/
def fillTlb (s : State) (cl die : Nat) (e : Tlb) : State :=
  let ins (cap : Nat) (l : List Tlb) : List Tlb := if l.any (fun x => x.matches e.asn e.va) then l else (e :: l).take cap
  (s.modCluster cl fun c => { c with tlb := ins 128 c.tlb }).modDie die fun d => { d with tlb := ins 16384 d.tlb }

/-- xlate of R41: translation, permission, and reach with the access table of the target, for a core master. -/
inductive XRes where
  | ok (pa : Addr) (attr : BitVec 2) (e : Tlb)
  | fault (c : XFault)
  | ask
deriving DecidableEq, Repr

def xcheck (s : State) (c : Nat) (sup : Bool) (k : Kind) (va : Addr) (e : Tlb) : XRes :=
  if !permOk e sup k then .fault xPermission
  else
    let pa := e.pas va
    if coreReach s pa.toNat && accOk s (coreMaster c) k pa.toNat then .ok pa e.attr e else .fault xAccess

/-- A page that the host has granted without the right that an access needs is asked for again (R364). -/
def lacksRight (s : State) (k : Kind) (e : Tlb) : Bool :=
  (match k with | .rd => !e.rd | .wr => !e.wr | .ex => !e.ex) &&
  s.hostPages.any fun p => p.1 == e.asn && p.2.1 == e.va.extractLsb' 16 36 && e.pa.toNat / 2 ^ 48 == 8

/-- A translation found in the buffers or, where none holds it, by a walk, put to a check. -/
def xlateBy (s : State) (c : Nat) (asn : BitVec 4) (k : Kind) (va : Addr) (check : Tlb → XRes) : XRes :=
  let use (e : Tlb) : XRes := if lacksRight s k e then .ask else check e
  match tlbFind s (clusterOf c) (dieOf c) asn va with
  | some e => use e
  | none =>
    match walk s (dieOf c) asn va with
    | .leaf e => use e
    | .fault f => .fault f
    | .ask => .ask

/-- The translation of a core's access. -/
def xlate (s : State) (c : Nat) (asn : BitVec 4) (sup : Bool) (k : Kind) (va : Addr) : XRes :=
  xlateBy s c asn k va (xcheck s c sup k va)

/-- The same for an engine with master code `m`. -/
def xlateM (s : State) (c : Nat) (m : Nat) (asn : BitVec 4) (sup : Bool) (k : Kind) (va : Addr) : XRes :=
  xlateBy s c asn k va fun e =>
    if !permOk e sup k then .fault xPermission
    else
      let pa := e.pas va
      if engineReach s pa.toNat && accOk s m k pa.toNat then .ok pa e.attr e else .fault xAccess

/-! ## Pages asked of the host (R361, R364) -/

def samePage (asn : BitVec 4) (va : Addr) (r : PageReq) : Bool := r.asn == asn && r.vpn == va.extractLsb' 16 36

def asking (s : State) (asn : BitVec 4) (va : Addr) : Bool := s.ats.any (samePage asn va) || s.pri.any (samePage asn va)

/-- Whether the host has refused a page that a party without an access of its own in flight waits for. -/
def refused (s : State) (asn : BitVec 4) (va : Addr) : Bool := s.denied.contains (asn, va.extractLsb' 16 36)

/-- A refusal has been seen by the party that waited. -/
def seeRefusal (s : State) (asn : BitVec 4) (va : Addr) : State :=
  { s with denied := s.denied.filter (· != (asn, va.extractLsb' 16 36)) }

/-- The PASID under which an address space asks the host. -/
def pasidOf (s : State) (asn : BitVec 4) : Option (BitVec 20) :=
  let w := vget s.aspasid asn.toNat 0
  if w.getLsbD 20 then some (w.setWidth 20) else none

/-- The ATS request for a page, unless one is under way. -/
def askPage (s : State) (asn : BitVec 4) (va : Addr) (k : Kind) : State :=
  if asking s asn va then s
  else { seeRefusal s asn va with ats := s.ats ++ [⟨pasidOf s asn, asn, va.extractLsb' 16 36, k, false, 0⟩] }

/-- The page request for a page that the host does not translate, on the link with fewer of them (R361, R364, log 33). -/
def requestPage (s : State) (r : PageReq) : State :=
  let n (l : Nat) : Nat := (s.pri.filter fun x => x.link == l).length
  { s with pri := s.pri ++ [{ r with link := if n 1 < n 0 then 1 else 0 }] }

/-- The translation of a unit that waits for the host: a page refused counts as not present (R98). -/
def xlateU (s : State) (c : Nat) (m : Nat) (asn : BitVec 4) (sup : Bool) (k : Kind) (va : Addr) : XRes :=
  match xlateM s c m asn sup k va with
  | .ask => if refused s asn va then .fault xNotPresent else .ask
  | r => r

/-! ## Walks under way (R99) -/

/-- Whether a walk for the page of an address is under way. -/
def walking (s : State) (c : Nat) (asn : BitVec 4) (va : Addr) : Bool :=
  ((s.die (dieOf c)).missq ++ (s.die (dieOf c)).walks).any fun w => w.asn == asn && w.vpn == va.extractLsb' 16 36

/-- A miss joins the walk of its page, or waits for a walker (R99): for core `c`, or for a channel of it. -/
def queueWalkFor (s : State) (c : Nat) (ch : Option Nat) (asn : BitVec 4) (va : Addr) : State :=
  let vpn := va.extractLsb' 16 36
  let cores := if ch.isNone then [c] else []
  let chans := (ch.map fun n => (c, n)).toList
  s.modDie (dieOf c) fun d =>
    let join (w : Walk) : Walk := if w.asn = asn ∧ w.vpn = vpn then
        { w with
          cores := w.cores ++ cores.filter fun x => !w.cores.contains x
          chans := w.chans ++ chans.filter fun x => !w.chans.contains x } else w
    if (d.missq ++ d.walks).any fun w => w.asn == asn && w.vpn == vpn then
      { d with missq := d.missq.map join, walks := d.walks.map join }
    else { d with missq := d.missq ++ [⟨asn, vpn, cores, chans, true⟩] }

def queueWalk (s : State) (c : Nat) (asn : BitVec 4) (va : Addr) : State := queueWalkFor s c none asn va

/-- Whether no buffer holds the translation and its walk is under way. -/
def missing (s : State) (c : Nat) (asn : BitVec 4) (va : Addr) : Bool :=
  (tlbFind s (clusterOf c) (dieOf c) asn va).isNone && walking s c asn va

/-! ## Translations that a bundle needs before it issues (R98, R99, R239, R308, R364) -/

/-- What such a look-up comes to: a page, a fault, or a wait for a walk or for the host. -/
inductive Look where
  | ok (pa : Addr) (attr : BitVec 2) (e : Tlb)
  | fault (f : XFault)
  | walk
  | ask
deriving DecidableEq, Repr

/-- A look-up in core `c`'s buffers: a miss takes a walker, whose outcome stands where it has been `asked` and the buffers
hold no page afterwards; a page that the host has refused is not present. -/
def lookIf (asked : Bool) (s : State) (c : Nat) (asn : BitVec 4) (sup : Bool) (k : Kind) (va : Addr) : Look :=
  if (tlbFind s (clusterOf c) (dieOf c) asn va).isNone && (!asked || walking s c asn va) then .walk
  else
    match xlate s c asn sup k va with
    | .ok pa attr e => .ok pa attr e
    | .fault f => .fault f
    | .ask => if refused s asn va then .fault xNotPresent else .ask

/-- The look-up of a core's bundle: it has been asked where the core is frozen for it, and the fault in which its walk has
ended is its own (R99). -/
def look (s : State) (c : Nat) (asn : BitVec 4) (sup : Bool) (k : Kind) (va : Addr) : Look :=
  match (s.core c).slot.wfault with
  | some (vpn, f) =>
    if vpn = va.extractLsb' 16 36 then .fault f
    else lookIf ((s.core c).freeze.any fun f => f.wake == .page va) s c asn sup k va
  | none => lookIf ((s.core c).freeze.any fun f => f.wake == .page va) s c asn sup k va

/-- Sets going what a look-up of a core, or of a channel of it, waits for. -/
def lookFor (s : State) (c : Nat) (ch : Option Nat) (asn : BitVec 4) (va : Addr) (k : Kind) (l : Look) : State :=
  match l with
  | .walk => queueWalkFor s c ch asn va
  | .ask => askPage s asn va k
  | _ => s

/-- Invalidation of R100: which entries a TBIVC write drops. -/
def tbivcHits (vpn : BitVec 36) (asn : BitVec 4) (size : BitVec 2) (e : Tlb) : Bool :=
  e.asn == asn &&
  match size.toNat with
  | 3 => true
  | k =>
    let sz := max (16 + 9 * k) e.size
    e.va.toNat / 2 ^ sz == (vpn.toNat * 65536) / 2 ^ sz

def dropTlb (s : State) (p : Tlb → Bool) : State :=
  (s.mapClusters fun _ c => { c with tlb := c.tlb.filter fun e => !p e }).mapDies
    fun _ d => { d with tlb := d.tlb.filter fun e => !p e }

end Sys2Proof.Machine
end

