-- ==== Sys2Proof/Machine/Sched.lean ====
section
/-!
DEFINITION. Sched.lean: launches, operator parameter blocks, task records and their states, the queues of the scheduling
path, and step start (R11 to R19, R122 to R143, R310 to R313, R325, R352).
-/
namespace Sys2Proof.Machine

/-! ## Operator parameter blocks (R140) -/

def opbN (l : Launch) (hi lo : Nat) : Nat := bitsN l.opb.toNat hi lo
def opbEntry (l : Launch) : Addr := BitVec.ofNat 52 (opbN l 51 0)
def opbPrio (l : Launch) : BitVec 2 := BitVec.ofNat 2 (opbN l 53 52)
def opbLong (l : Launch) : Bool := opbN l 54 54 == 1
def opbPin (l : Launch) : Bool := opbN l 55 55 == 1
def opbNlev (l : Launch) : Nat := opbN l 58 56
/-- The bound of level k; levels at or above NLEV read as 1. -/
def opbBound (l : Launch) (k : Nat) : Nat := if k < opbNlev l then opbN l (64 + 32 * k + 31) (64 + 32 * k) else 1

def clog2 (n : Nat) : Nat := if n ≤ 1 then 0 else Nat.log2 (n - 1) + 1
def fieldW (l : Launch) (k : Nat) : Nat := max 1 (clog2 (opbBound l k))

/-- The lowest bit of field k: the widths of the levels inside it (R140). -/
def fieldLo (l : Launch) (k : Nat) : Nat :=
  (List.range (opbNlev l)).foldl (fun acc j => if k < j then acc + fieldW l j else acc) 0

/-- Field k of a work identifier: field 0 takes every bit above (R140). -/
def widFieldOf (l : Launch) (wid : Word) (k : Nat) : Word :=
  if opbNlev l ≤ k then 0
  else if k = 0 then wid >>> fieldLo l 0
  else BitVec.ofNat 64 (wid.toNat >>> fieldLo l k % 2 ^ fieldW l k)

def widFields (l : Launch) (wid : Word) : Vector Word 6 :=
  #v[widFieldOf l wid 0, widFieldOf l wid 1, widFieldOf l wid 2, widFieldOf l wid 3, widFieldOf l wid 4, widFieldOf l wid 5]

/-- Packs field values, outermost first. -/
def packWid (l : Launch) (fs : List Nat) : Word :=
  BitVec.ofNat 64 (fs.zipIdx.foldl (fun acc e => acc + e.1 <<< fieldLo l e.2) 0)

/-- Number of work identifiers (R125). -/
def opbTotal (l : Launch) : Nat := (List.range (opbNlev l)).foldl (fun acc k => acc * opbBound l k) 1

/-- The fields of lexicographic index x, outermost first (R125). -/
def indexFields (l : Launch) (x : Nat) : List Nat :=
  ((List.range (opbNlev l)).foldr (fun k acc => (acc.1 / opbBound l k, acc.1 % opbBound l k :: acc.2)) (x, [])).2

def mapN (l : Launch) (i hi lo : Nat) : Nat := opbN l (4096 + 1024 * i + hi) (4096 + 1024 * i + lo)
def mapV (l : Launch) (i : Nat) : Bool := mapN l i 0 0 == 1
def mapWr (l : Launch) (i : Nat) : Bool := mapN l i 1 1 == 1
def mapTid (l : Launch) (i : Nat) : Nat := mapN l i 7 2
def mapGti (l : Launch) (i : Nat) : Nat := mapN l i 31 8
def mapShape (l : Launch) (i d : Nat) : Nat := mapN l i (64 + 96 * d + 95) (64 + 96 * d + 80)
/-- The origin C0 + Σ c_k·wid_k of dimension d. -/
def mapOrg (l : Launch) (wid : Word) (i d : Nat) : Int :=
  (List.range 6).foldl
    (fun acc k => acc + sextN (mapN l i (64 + 96 * d + 32 + 8 * k + 7) (64 + 96 * d + 32 + 8 * k)) 8 *
      ((widFieldOf l wid k).toNat : Int))
    (sextN (mapN l i (64 + 96 * d + 31) (64 + 96 * d)) 32)

def validMaps (l : Launch) : List Nat := (List.range 12).filter (mapV l)

/-- A global tensor table entry (R143). -/
def gttAddr (s : State) (g : Nat) : Nat := (s.gttbase.toNat + 128 * g) % 2 ^ 52
def gttN (e : BitVec 1024) (hi lo : Nat) : Nat := bitsN e.toNat hi lo
def gttNdim (e : BitVec 1024) : Nat := gttN e 9 6
def gttExt (e : BitVec 1024) (d : Nat) : Nat := gttN e (192 + 32 * d + 31) (192 + 32 * d)
def gttStr (e : BitVec 1024) (d : Nat) : Int := sextN (gttN e (512 + 40 * d + 39) (512 + 40 * d)) 40
def gttBad (e : BitVec 1024) : Bool :=
  gttN e 0 0 == 0 || gttNdim e == 0 || decide (10 < gttNdim e) || decide (19 < gttN e 5 1) ||
  (decide (gttNdim e ≤ gttN e 13 10) && gttN e 179 128 != 0) ||
  gttN e 63 30 != 0 || gttN e 127 116 != 0 || gttN e 191 180 != 0 || gttN e 1023 912 != 0

def rdGtt (s : State) (g : Nat) : BitVec 1024 := BitVec.ofNat 1024 (rdN s.mem (gttAddr s g) 128)

/-- Rule r of the OPB. -/
def ruleN (l : Launch) (r hi lo : Nat) : Nat := opbN l (256 + 128 * r + hi) (256 + 128 * r + lo)
def ruleOff (l : Launch) (r k : Nat) : Int := sextN (ruleN l r (64 + 8 * k + 7) (64 + 8 * k)) 8

/-- The malformed OPBs of R140, tensor entries apart. DESIGN CHOICE (log 94): a rule with V = 0 makes none malformed. -/
def opbBad (l : Launch) : Bool :=
  let n := opbNlev l
  n == 0 || n == 7 ||
  ((List.range n).any fun k => opbBound l k == 0) ||
  decide (64 < (List.range n).foldl (fun acc k => acc + fieldW l k) 0) ||
  ((validMaps l).any fun i => (validMaps l).any fun j => i != j && mapTid l i == mapTid l j) ||
  decide (8 < ((validMaps l).filter fun i => !mapWr l i).length) ||
  decide (4 < ((validMaps l).filter (mapWr l)).length) ||
  ((List.range 8).any fun r =>
    ruleN l r 0 0 == 1 && ruleN l r 1 1 == 0 && (List.range 6).all fun k => ruleOff l r k == 0)

/-- A map of a launch against its tensor entry: malformed entry, or a SHAPE of 0 within NDIM (R140, R143). -/
def mapBad (l : Launch) (e : BitVec 1024) (i : Nat) : Bool :=
  gttBad e || (List.range (gttNdim e)).any fun d => mapShape l i d == 0

/-! ## Tiles and residency (R13, R121, R147) -/

/-- Element count of a tile, and its bytes. -/
def tileElems (l : Launch) (e : BitVec 1024) (i : Nat) : Nat :=
  (List.range (gttNdim e)).foldl (fun acc d => acc * mapShape l i d) 1
def tileBytes (l : Launch) (e : BitVec 1024) (i : Nat) : Nat := cdiv (tileElems l e i * fmtWidth (gttN e 5 1)) 8

/-- TILE: the row-major index of origin / SHAPE over ceil(EXT / SHAPE). -/
def tileIndex (n : Nat) (org : Nat → Int) (shp ext : Nat → Nat) : Nat :=
  ((List.range n).foldl (fun (acc : Int) d => acc * (cdiv (ext d) (shp d) : Int) + org d / (shp d : Int)) 0 %
    (2 ^ 40 : Int)).toNat

/-- DESIGN CHOICE (log 105): BYTES holds 24 bits and TILE 40; the entry of a larger tile holds its size cut off, and matches
none. -/
def residMatch (x : Resid) (gti tile bytes : Nat) : Bool :=
  x.v && x.gti.toNat == gti && x.tile.toNat == tile && x.bytes.toNat == bytes

def objVer (s : State) (d i : Nat) : BitVec 32 := (tget (s.die d).sync i ⟨0, 0, false⟩).ver
def residCurrent (s : State) (x : Resid) : Bool := x.ver == objVer s x.odie.toNat x.oidx.toNat

/-- The share of a core for a task (R13). -/
def shareOf (s : State) (l : Launch) (wid : Word) (c : Nat) : Nat :=
  (validMaps l).foldl (fun acc i =>
    if mapWr l i then acc
    else
      let e := rdGtt s (mapGti l i)
      let b := tileBytes l e i
      let t := tileIndex (gttNdim e) (mapOrg l wid i) (mapShape l i) (gttExt e)
      let hit (x : Nat × Resid) : Bool := residMatch x.2 (mapGti l i) t b && residCurrent s x.2
      if (s.core c).resid.any hit || (s.die (dieOf c)).resid.any hit then acc + b else acc) 0

/-! ## Task records -/

/-- The completion word of R135. -/
def cwordOf (st : Nat) (depcx migr : Bool) (core cause : Nat) : Word :=
  BitVec.ofNat 64 (st + b1 depcx 4 + b1 migr 5 + core * 2 ^ 16 + cause * 2 ^ 32)

def Task.none : Task :=
  ⟨0, .walked, 0, 0, 0, 0, false, 0, [], [], .waiting, false, false, 0, 0, false, .open, Option.none, false, Option.none,
   cwordOf 0 false false 0x7FF 0, 0x7FF⟩
def Launch.none : Launch :=
  ⟨0, 0, 0, 15, false, false, false, 0, 0, 0, Option.none, 0, [], .done, false, false, Option.none, Option.none⟩
def State.task (s : State) (t : Nat) : Task := tget s.tasks t .none
def State.modTask (s : State) (t : Nat) (f : Task → Task) : State := { s with tasks := tput s.tasks t (f (s.task t)) }
def State.launch (s : State) (l : Nat) : Launch := tget s.launches l .none
def State.modLaunch (s : State) (l : Nat) (f : Launch → Launch) : State :=
  { s with launches := tput s.launches l (f (s.launch l)) }
/-- The next free number of a table. -/
def newKey {α : Type} (t : Tab α) : Nat := t.foldl (fun acc e => max acc (e.1 + 1)) 0

def TaskSt.final : TaskSt → Bool
  | .done | .cancelled | .poisoned | .faulted => true
  | _ => false
def TaskSt.code : TaskSt → Nat
  | .done => 1 | .cancelled => 2 | .poisoned => 3 | .faulted => 4 | _ => 0

/-- A task enters the ready queue of its die, or the overflow list (R127). -/
def readyTask (s : State) (t : Nat) : State :=
  let d := (s.task t).die
  let s := s.modTask t fun x => { x with st := .ready }
  s.modDie d fun x => if x.ready.length < 8192 then { x with ready := x.ready ++ [t] } else { x with overflow := x.overflow ++ [t] }

/-- Takes `n` off a WAITING record's counter; at zero it becomes ready (R161). -/
def decTask (s : State) (t n : Nat) : State :=
  let x := s.task t
  if x.st ≠ .waiting then s
  else
    let s := s.modTask t fun x => { x with ctr := x.ctr - BitVec.ofNat 16 n }
    if (s.task t).ctr = 0 then readyTask s t else s

/-- The tasks that a rule made successors of a work identifier of a launch, which has become final; `can` when it became
CANCELLED (R18, R126). -/
def releaseRule (s : State) (l : Nat) (wid : Word) (can : Bool) : State :=
  s.tasks.foldl (fun s e =>
    let x := s.task e.1
    if x.st = .waiting ∧ x.preds.contains (l, wid) then
      let s := s.modTask e.1 fun x =>
        { x with preds := x.preds.filter (· != (l, wid)), depcx := x.depcx || (can && x.launch != l) }
      decTask s e.1 1
    else s) s

/-- The successors of a record that has become final: a rule names walked tasks only (R311), and TDEP adds its own (R312). -/
def releaseSuccs (s : State) (x : Task) (can : Bool) : State :=
  x.added.foldl (fun s t => decTask s t 1) (if x.kind = .walked then releaseRule s x.launch x.wid can else s)

/-- Whether a launch has tasks still to come or not yet final. -/
def launchOpen (s : State) (l : Nat) : Bool :=
  let x := s.launch l
  (x.st != .expanded && !x.torn) ||
  s.tasks.any fun e => e.2.launch == l && e.2.kind != .comp && !e.2.st.final

/-- A completion word in memory: written where the target admits the walker of die 0 (R156), and not after the fatal path
(R359). -/
def writeCword (s : State) (pa : Nat) (w : Word) : State :=
  if s.fatal.isNone && engineReach s pa && accOk s (schedMaster 0) .wr pa then wakeMonitors (s.wrBytes pa 8 w.toNat) pa else s

def writeLaunchWord (s : State) (l : Nat) (st cause : Nat) : State :=
  let x := s.launch l
  let s := writeCword s x.cw.toNat (cwordOf st false false 0x7FF cause)
  let s := s.modLaunch l fun x => { x with st := .done }
  match x.ring with
  | some q => s.msix (16 + q)
  | none => s

/-- A launch whose last task is final: its word takes the highest rank among its tasks (R135). -/
def closeLaunch (s : State) (l : Nat) : State :=
  let x := s.launch l
  if x.st = .done ∨ launchOpen s l then s
  else
    let ts := (s.tasks.filter fun e => e.2.launch == l && e.2.kind != .comp).map Prod.snd
    let rank := ts.foldl (fun acc t => max acc t.st.code) (if x.never then 2 else 1)
    let cause := match ts.find? fun t => t.st == .faulted with
      | some t => (t.cword.toNat >>> 32) % 65536
      | none => 0
    writeLaunchWord s l rank cause

/-- The index range of die d (R125). -/
def dieList (l : Launch) : List Nat := (List.range 8).filter fun d => l.dies.getLsbD d
def dieRange (l : Launch) (d : Nat) : Nat × Nat :=
  let ds := dieList l
  let j := (ds.filter (· < d)).length
  (cdiv (j * opbTotal l) ds.length, cdiv ((j + 1) * opbTotal l) ds.length)

/-- Whether the walker of a die has expanded its share of a launch. -/
def shareDone (l : Launch) (d : Nat) : Bool := decide ((dieRange l d).2 ≤ tget l.nextIx d (dieRange l d).1)

/-- The core whose queue or slot holds a task. -/
def coreOfTask (s : State) (t : Nat) : Option Nat :=
  (s.cores.find? fun k => k.2.local_.contains t || k.2.slot0.task == some t || k.2.slot1.task == some t).map Prod.fst

/-- Whether a launch still has tasks that run, or may come to run, on a cluster: those that stand at its cores, whatever die
expanded them, and all of the die that stand at no core yet (R131, R132). -/
def roleBusy (s : State) (l cl : Nat) : Bool :=
  let d := cl / 16
  let x := s.launch l
  let here (t : Nat) (home : Nat) : Bool := match coreOfTask s t with
    | some c => clusterOf c == cl
    | none => home == d
  (x.st != .done && !x.torn && x.dies.getLsbD d && !shareDone x d) ||
  s.tasks.any fun e => e.2.launch == l && e.2.kind != .comp && !e.2.st.final && here e.1 e.2.die

/-- Role mode ends for a cluster when the launch's last compute task there is final and its role tasks have ended (R132). -/
def roleEnd (s : State) (l : Nat) : State :=
  if s.clusters.any fun e => e.2.role == some l then
    s.mapClusters fun i e => if e.role == some l && !roleBusy s l i then { e with role := none } else e
  else s

/-- A record becomes final: completion word, successors, launch (R17, R18, R135). After the fatal path the word stays
unwritten (R359). -/
def finalTask (s : State) (t : Nat) (st : TaskSt) (core cause : Nat) : State :=
  let x := s.task t
  let st := if x.torn ∧ st = .done then .cancelled else st
  let s := s.modTask t fun x =>
    { x with
      st := st
      cword := if s.fatal.isSome then x.cword else cwordOf st.code x.depcx x.migr core (if st = .faulted then cause else 0) }
  let s := releaseSuccs s x (st == .cancelled)
  if x.kind = .comp then s else roleEnd (closeLaunch s x.launch) x.launch

/-! ## Teardown (R136, R137) -/

/-- Opens an abandonment (R323): the set is every OPEN activity tied, directly or not, to `a`. -/
def actGet (s : State) (a : BitVec 12) : Act := tget s.acts a.toNat .free
def modAct (s : State) (a : BitVec 12) (f : Act → Act) : State := { s with acts := tput s.acts a.toNat (f (actGet s a)) }

def tieClosure (s : State) : Nat → List (BitVec 12) → List (BitVec 12)
  | 0, set => set
  | n + 1, set =>
    let more := s.acts.filter fun e =>
      e.2.st == .opened && !set.contains (BitVec.ofNat 12 e.1) && e.2.ties.any fun t => set.contains t
    tieClosure s n (set ++ more.map fun e => BitVec.ofNat 12 e.1)

def startAbandon (s : State) (a : BitVec 12) (save : BitVec 16) (status : Option Addr) (asn : BitVec 4) (die : Nat) (g : Gate) :
    State :=
  let set := tieClosure s (s.acts.length + 1) [a]
  let s := set.foldl (fun s x => modAct s x fun y => { y with st := .abandoning }) s
  { s with abandons := s.abandons ++ [⟨a, save, status, asn, die, set, none, false, none, false, none, g⟩] }

/-- Removes a task from every queue. -/
def unqueue (s : State) (t : Nat) : State :=
  (s.mapDies fun _ d => { d with ready := sdel d.ready t, overflow := sdel d.overflow t }).mapCores
    fun _ c => { c with local_ := sdel c.local_ t }

/-- The teardown of one launch. -/
def teardown (s : State) (l : Nat) : State :=
  let x := s.launch l
  if x.st = .done then s
  else
    let s := s.modLaunch l fun y => { y with torn := true, never := y.never || y.st != .expanded }
    let s := s.mapDies fun _ d => { d with
      tops := d.tops.filter fun o => o.launch != some l
      tdue := d.tdue.filter fun o => o.launch != some l }
    let open_ := s.acts.filter fun e => e.2.st == .opened && e.2.launch == l
    let s := open_.foldl (fun s e =>
      if (actGet s (BitVec.ofNat 12 e.1)).st = .opened then startAbandon s (BitVec.ofNat 12 e.1) 0 none x.asn 0 .open else s) s
    let s := s.tasks.foldl (fun s e =>
      let t := s.task e.1
      if t.launch ≠ l ∨ t.kind = .comp ∨ t.st.final then s
      else if t.st = .running then s.modTask e.1 fun y => { y with torn := true }
      else
        let s := unqueue s e.1
        let s := s.modTask e.1 fun y => { y with
          st := .cancelled
          cword := if s.fatal.isSome then y.cword else cwordOf 2 y.depcx y.migr y.core 0 }
        releaseSuccs s t true) s
    -- a work identifier that is never created releases its successors in other launches (R135, R137)
    let s := s.tasks.foldl (fun s e =>
      (s.task e.1).preds.foldl (fun s p =>
        if p.1 = l ∧ !(s.tasks.any fun k => k.2.launch == l && k.2.wid == p.2 && k.2.kind == .walked) then
          releaseRule s l p.2 true else s) s) s
    roleEnd (closeLaunch s l) l

/-- LQKILL: every unfinished launch that bears the identifier (R136, R373). -/
def killLid (s : State) (lid : BitVec 16) : State :=
  s.launches.foldl (fun s e => if e.2.lid = lid ∧ e.2.st ≠ .done then teardown s e.1 else s) s

/-! ## Fetch (R123, R124, R139, R310) -/

def Ring.count (r : Ring) : Nat := 2 ^ r.size.toNat
def Ring.okSize (r : Ring) : Bool := decide (1 ≤ r.size.toNat) && decide (r.size.toNat ≤ 16)
def Ring.ready (r : Ring) : Bool := r.en && r.okSize && r.head.toNat != r.tail.toNat % r.count
def State.ring (s : State) (q : Nat) : Ring := tget s.rings q .reset
def State.modRing (s : State) (q : Nat) (f : Ring → Ring) : State := { s with rings := tput s.rings q (f (s.ring q)) }

/-- What a walker's read of an address space comes to: the bytes, the cause of R139 and its address, or a page that the host
has still to grant (R364). -/
inductive WRead where
  | ok (n : Nat)
  | fault (f : XFault) (va : Addr)
  | ask (va : Addr)
deriving DecidableEq, Repr

/-- Reads lines of an address space as the walker of die 0. -/
def walkerRead (s : State) (asn : BitVec 4) (va : Nat) : Nat → WRead
  | 0 => .ok 0
  | n + 1 =>
    let a : Addr := BitVec.ofNat 52 va
    match xlateU s 0 (schedMaster 0) asn false .rd a with
    | .fault f => .fault f a
    | .ask => .ask a
    | .ok pa _ _ =>
      if s.poisoned pa.toNat then .fault 0x0030 a
      else match walkerRead s asn (va + 256) n with
        | .ok r => .ok (rdN s.mem (lineOf pa.toNat) 256 + r <<< 2048)
        | r => r

/-- Checks of R139 on tensor entries: malformed, denied, or poisoned. DESIGN CHOICE (log 102): an entry whose address lies
outside device memory reads as zero, and is malformed. -/
def gttCheck (s : State) (l : Launch) : List Nat → Option (BitVec 16)
  | [] => none
  | i :: r =>
    let pa := gttAddr s (mapGti l i)
    if !accOk s (schedMaster 0) .rd pa then some xAccess
    else if s.poisoned pa then some 0x0030
    else if mapBad l (rdGtt s (mapGti l i)) i then some 0x0101
    else gttCheck s l r

def recN (r : BitVec 1024) (hi lo : Nat) : Nat := bitsN r.toNat hi lo

/-- The launch that a record describes, before its checks. -/
def launchOf (r : BitVec 1024) (cw : Addr) (ring : Option Nat) (opb : BitVec 16384) : Launch where
  lid := BitVec.ofNat 16 (recN r 143 128)
  asn := BitVec.ofNat 4 (recN r 119 116)
  dies := BitVec.ofNat 8 (recN r 127 120)
  stage := BitVec.ofNat 4 (recN r 147 144)
  fuse := recN r 148 148 == 1
  role := recN r 149 149 == 1
  fsw := recN r 150 150 == 1
  loader := BitVec.ofNat 52 (recN r 243 192)
  storer := BitVec.ofNat 52 (recN r 307 256)
  cw := cw
  ring := ring
  opb := opb
  nextIx := []
  st := .waiting
  torn := false
  never := false
  act := none
  cause := none

def recordBad (r : BitVec 1024) : Bool :=
  recN r 191 151 != 0 || recN r 255 244 != 0 || recN r 1023 308 != 0 ||
  (decide (7 ≤ recN r 147 144) && decide (recN r 147 144 ≤ 14)) ||
  (recN r 149 149 == 1 && (recN r 243 192 == 0 || recN r 307 256 == 0))

def failLaunch (s : State) (l : Launch) (cause : BitVec 16) : State :=
  let k := newKey s.launches
  writeLaunchWord { s with launches := tput s.launches k l } k 4 cause.toNat

/-- Takes a launch: its checks, then its place among the launches (R124, R139). A page of the OPB that the host has still to
grant is asked for, and the record is fetched again: the second part. -/
def takeLaunch (s : State) (r : BitVec 1024) (cw : Addr) (ring : Option Nat) : State × Option State :=
  let l0 := launchOf r cw ring 0
  if recordBad r then (failLaunch s l0 0x0101, none)
  else
    match walkerRead s l0.asn (recN r 115 64 / 256 * 256) 8 with
    | .ask va => (s, some (askPage s l0.asn va .rd))
    | .fault f va => (failLaunch (seeRefusal s l0.asn va) l0 f, none)
    | .ok n =>
      let l := { l0 with opb := BitVec.ofNat 16384 n }
      if opbBad l then (failLaunch s l 0x0101, none)
      else
        match gttCheck s l (validMaps l) with
        | some f => (failLaunch s l f, none)
        | none =>
          let k := newKey s.launches
          let s := { s with launches := tput s.launches k l }
          (if l.dies = 0 then writeLaunchWord s k 1 0 else s, none)

/-- Whether the walker of die 0 may read a record where it lies (R156). DESIGN CHOICE (log 86): R139 gives no completion to
a record that cannot be read, and it stays where it is. -/
def recordOk (s : State) (pa : Nat) : Bool := engineReach s pa && accOk s (schedMaster 0) .rd pa

/-- Die 0 fetches one record, round-robin, TLAUNCH after ring 255 (R124); a record of TLAUNCH once what its step stored before
has performed (R310). DESIGN CHOICE (logs 100, 102): a ring made smaller while EN is 0 keeps its LQHEAD, at which the next
record is read; a record that is poisoned is taken as it reads. -/
def fetchFrom (s : State) : Nat → Nat → State
  | 0, _ => s
  | n + 1, q =>
    if q = 256 then
      match s.tlaunch with
      | [] => fetchFrom s n 0
      | (pa, asn, g) :: rest =>
        if !recordOk s pa.toNat || !s.passes g then fetchFrom s n 0
        else
          let r : BitVec 1024 := BitVec.ofNat 1024 (rdN s.mem pa.toNat 128)
          let t := { s with tlaunch := rest, nextRing := 0 }
          if asn.any (· != BitVec.ofNat 4 (recN r 119 116)) then failLaunch t (launchOf r pa none 0) 0x0102
          else match takeLaunch t r pa none with
            | (_, some u) => { s with ats := u.ats, denied := u.denied }
            | (u, none) => u
    else
      let g := s.ring q
      let pa := (g.base.toNat / 128 * 128 + 128 * g.head.toNat) % 2 ^ 52
      if g.ready && recordOk s pa then
        let r : BitVec 1024 := BitVec.ofNat 1024 (rdN s.mem pa 128)
        let t := s.modRing q fun x => { x with head := BitVec.ofNat 16 ((x.head.toNat + 1) % x.count) }
        match takeLaunch { t with nextRing := q + 1 } r (BitVec.ofNat 52 pa) (some q) with
        | (_, some u) => { s with ats := u.ats, denied := u.denied }
        | (u, none) => u
      else fetchFrom s n (q + 1)

def fetchLaunch (s : State) : State :=
  if s.fatal.isSome || s.boot ≠ .ready then s else fetchFrom s 258 s.nextRing

/-! ## Expansion (R125, R126) -/

def dieBusy (s : State) (d : Nat) : Bool :=
  s.tasks.any fun e => e.2.st == .running &&
    s.cores.any fun c => dieOf c.1 == d && (c.2.slot0.task == some e.1 || c.2.slot1.task == some e.1)
def clusterBusy (s : State) (cl : Nat) : Bool :=
  s.cores.any fun c => clusterOf c.1 == cl && (c.2.slot0.task.isSome || c.2.slot1.task.isSome)

/-- Whether a launch may start on a die: staging share and role mode are in place (R91, R132). -/
def launchReady (s : State) (k d : Nat) : Bool :=
  let l := s.launch k
  (l.stage == 15 || (s.die d).staging == l.stage.toNat) &&
  (!l.role || (List.range 16).all fun i => (s.cluster (16 * d + i)).role == some k)

/-- Whether both role tasks of every cluster of a die have been placed (R132). -/
def rolesPlaced (s : State) (k d : Nat) : Bool :=
  (s.tasks.filter fun e => e.2.launch == k && e.2.kind == .role && e.2.die == d).length == 32

/-- Whether a die that is to expand nothing has still to take the share that a launch names (R91). -/
def shareOwed (s : State) (k d : Nat) : Bool :=
  let l := s.launch k
  l.stage != 15 && (dieRange l d).1 == (dieRange l d).2 && (s.die d).staging != l.stage.toNat && !(l.nextIx.any fun e => e.1 == d)

/-- Whether a launch has something left to expand or to place on a die, or a share for it to take. -/
def pendingAt (s : State) (k d : Nat) : Bool :=
  !shareDone (s.launch k) d || ((s.launch k).role && !rolesPlaced s k d) || shareOwed s k d

/-- The unfinished launches in fetch order of which die d has something left to expand or to place. -/
def pendingOn (s : State) (d : Nat) : List Nat :=
  (s.launches.filter fun e =>
    e.2.st != .done && e.2.st != .expanded && !e.2.torn && e.2.dies.getLsbD d && pendingAt s e.1 d).map Prod.fst

/-- A launch of which no die has anything left is expanded. -/
def noteExpanded (s : State) (k : Nat) : State :=
  if (dieList (s.launch k)).any fun j => pendingAt s k j then s
  else closeLaunch (s.modLaunch k fun y => { y with st := .expanded }) k

def waitingOf (s : State) (l d : Nat) : Nat :=
  (s.tasks.filter fun e => e.2.launch == l && e.2.die == d && e.2.st == .waiting).length
def poolSize (s : State) (d : Nat) : Nat := ((s.die d).trpool.toNat % 4096) * 8192
def poolUsed (s : State) (d : Nat) : Nat := (s.tasks.filter fun e => e.2.die == d && !e.2.st.final).length

/-- The predecessor that rule r names for a work identifier (R140): a level that the target does not have reads as bound 1. -/
def rulePred (s : State) (k : Nat) (fs : List Nat) (r : Nat) : Option (Nat × Word) :=
  let l := s.launch k
  if ruleN l r 0 0 = 0 then none
  else
    let tgt : Option Nat :=
      if ruleN l r 1 1 = 0 then some k
      else ((s.launches.filter fun e => e.2.st != .done && e.2.lid.toNat == ruleN l r 17 2).getLast?).map Prod.fst
    match tgt with
    | none => none
    | some t =>
      let tl := s.launch t
      let ps := (List.range 6).map fun j => (fs.getD j 0 : Int) + ruleOff l r j
      if (ps.zipIdx).all fun e => decide (0 ≤ e.1) && decide (e.1 < (opbBound tl e.2 : Int)) then
        some (t, packWid tl ((ps.take (opbNlev tl)).map Int.toNat)) else none

/-- Creates one task record (R126). -/
def createTask (s : State) (k d : Nat) (fs : List Nat) : State :=
  let l := s.launch k
  let wid := packWid l fs
  let named := ((List.range 8).filterMap (rulePred s k fs)).eraseDups
  let stOf (p : Nat × Word) : Option TaskSt :=
    ((s.tasks.find? fun e => e.2.launch == p.1 && e.2.wid == p.2 && e.2.kind == .walked).map fun e => e.2.st)
  let gone (p : Nat × Word) : Bool := (stOf p).isNone && (s.launch p.1).torn
  let cancelled := named.filter fun p => stOf p == some .cancelled || gone p
  let live := named.filter fun p => !(gone p) && !((stOf p).any TaskSt.final)
  let t := newKey s.tasks
  let base : Task := { Task.none with
    launch := k
    die := d
    wid := wid
    entry := opbEntry l
    prio := opbPrio l
    pinned := opbPin l
    ctr := BitVec.ofNat 16 live.length
    preds := live
    depcx := cancelled.any fun p => p.1 != k }
  if cancelled.any fun p => p.1 == k then
    let s := { s with tasks := tput s.tasks t { base with st := .cancelled, cword := cwordOf 2 base.depcx false 0x7FF 0 } }
    releaseRule s k wid true
  else
    let s := { s with tasks := tput s.tasks t base }
    if live.isEmpty then readyTask s t else s

/-- A launch starts: on all dies of its mask the caches of instructions are invalidated whole (R84). -/
def beginLaunch (s : State) (k : Nat) : State :=
  let l := s.launch k
  if l.st = .waiting then
    (s.mapCores fun i c => if l.dies.getLsbD (dieOf i) then { c with icache := [], mcache := [] } else c).modLaunch k fun y =>
      { y with st := .expanding }
  else s

/-- One record by the walker of die d (R125). -/
def expandOne (s : State) (d : Nat) : State :=
  match (pendingOn s d).head? with
  | none => s
  | some k =>
    let l := s.launch k
    if !launchReady s k d || shareDone l d || decide (4096 ≤ waitingOf s k d) || decide (poolSize s d ≤ poolUsed s d) then s
    else
      let x := tget l.nextIx d (dieRange l d).1
      let s := createTask (beginLaunch s k) k d (indexFields l x)
      roleEnd (noteExpanded (s.modLaunch k fun y => { y with nextIx := tput y.nextIx d (x + 1) }) k) k

/-! ## Dispatch, migration, start (R12 to R14, R128 to R132, R141) -/

def effPrio (t : Task) : Nat := min 3 (t.prio.toNat + t.waited / 1024)

/-- The ready task of highest effective priority, the earliest among equals (R12); a spawned one once what its spawner stored
before the TSPAWN has performed (R308). -/
def pickReady (s : State) (d : Nat) : Option Nat :=
  ((s.die d).ready.filter fun t => s.passes (s.task t).gate).foldl (fun acc t => match acc with
    | none => some t
    | some b => if effPrio (s.task b) < effPrio (s.task t) then some t else some b) none

def dieCores (d : Nat) : List Nat := (List.range 128).map (128 * d + ·)

/-- The candidate with the largest share, then the shorter queue, then the lower index (R13, R128). -/
def pickCore (s : State) (d t : Nat) : Option (Nat × Nat) :=
  let x := s.task t
  let l := s.launch x.launch
  (dieCores d).foldl (fun acc c =>
    let q := (s.core c).local_.length
    let roleBad := (s.cluster (clusterOf c)).role == some x.launch && (c % 8 == 0 || c % 8 == 7)
    if 16 ≤ q ∨ roleBad then acc
    else
      let sh := shareOf s l x.wid c
      match acc with
      | none => some (c, sh)
      | some (b, bs) => if bs < sh ∨ (bs = sh ∧ q < (s.core b).local_.length) then some (c, sh) else acc) none

/-- Whether a core of a die has a free slot and a queue whose head starts there in the next cycle (R128). -/
def startDue (s : State) (d : Nat) : Bool :=
  s.cores.any fun k => dieOf k.1 == d && !k.2.local_.isEmpty && (k.2.slot0.task.isNone || k.2.slot1.task.isNone)

/-- One placement. DESIGN CHOICE (log 107): the starts of one cycle come before its placement (R128). -/
def dispatchOne (s : State) (d : Nat) : State :=
  if startDue s d then s
  else
  match pickReady s d with
  | none => s
  | some t =>
    match pickCore s d t with
    | none => s
    | some (c, sh) =>
      let s := s.modDie d fun x => { x with ready := x.ready.erase t }
      let s := s.modTask t fun x => { x with st := .queued, eprio := BitVec.ofNat 2 (effPrio x), zero := sh == 0 }
      let l := (s.task t).launch
      roleEnd (s.modCore c fun x => { x with local_ := x.local_ ++ [t] }) l

/-- The evaluated tensor identifier entry of a map (R141). DESIGN CHOICE (log 104): an origin beyond 32 bits is cut off, and the
origin and shape of a dimension that the tensor does not have are 0. -/
def tidOf (l : Launch) (wid : Word) (rank : Nat) (e : BitVec 1024) (i : Nat) : TidEnt where
  v := true
  wr := mapWr l i
  fmt := BitVec.ofNat 5 (gttN e 5 1)
  ndim := BitVec.ofNat 4 (gttNdim e)
  gti := BitVec.ofNat 24 (mapGti l i)
  frec := BitVec.ofNat 5 rank
  fv := true
  xval := BitVec.ofNat 16 (gttN e 29 14)
  scbase := BitVec.ofNat 52 (gttN e 179 128)
  org := .ofFn fun d => if d.val < gttNdim e then BitVec.ofInt 32 (mapOrg l wid i d.val) else 0
  shp := .ofFn fun d => if d.val < gttNdim e then BitVec.ofNat 16 (mapShape l i d.val) else 0
  gtt := e

/-- The tensor identifier table of a step; the i-th valid entry in TID order takes factor record i (R141). -/
def tidTable (s : State) (l : Launch) (wid : Word) : Tab TidEnt :=
  (List.range 64).foldl (fun acc tid =>
    match (validMaps l).find? fun i => mapTid l i == tid with
    | some i => tput acc tid (tidOf l wid acc.length (rdGtt s (mapGti l i)) i)
    | none => acc) []

/-- A tensor entry that a step cannot use: its address (R141). -/
def tidFail (s : State) (c : Nat) (l : Launch) : Option Nat :=
  ((validMaps l).find? fun i =>
    let pa := gttAddr s (mapGti l i)
    !accOk s (coreMaster c) .rd pa || s.poisoned pa || gttBad (rdGtt s (mapGti l i))).map
      fun i => gttAddr s (mapGti l i)

/-- The slot of a new or resumed step (R69, R138, R141, R352). What MPC, the write pointers, the sticky records and the
segment's number hold stays: R77 to R79 do not name a step start among what changes them (log 87). -/
def stepSlot (s : State) (old : Slot) (t : Nat) : Slot :=
  let x := s.task t
  let l := s.launch x.launch
  let base : Slot := { Slot.reset with
    task := some t
    asn := l.asn
    fsw := l.fsw && x.kind != .comp
    pc := x.entry
    wid := x.wid
    widf := widFields l x.wid
    mpc := old.mpc
    wp := old.wp
    wpo := old.wpo
    sticky := old.sticky
    seg := old.seg
    depcx := x.depcx
    migr := x.migr
    eprio := x.eprio
    tids := tidTable s l x.wid }
  match x.saved with
  | none => base
  | some v => { base with pc := v.pc, s := (v.s.zipIdx.foldl (fun acc e => vset acc (e.2 + 1) e.1) base.s), resumed := true }

/-- The shadow set of a slot as it stands, with the deferral queue, the queue's operations and the in-flight results given. -/
def Core.shadowNow (sl : Slot) (defd : List Defd) (mq : List MOp) (mdue : List (Nat × MOp)) (fl : List InFl) (pc : Addr) : Shadow :=
  ⟨pc, sl.prol, sl.s, sl.v, sl.p, sl.m, sl.loops, sl.mpc, defd, sl.dq, sl.sticky, fl, mq, mdue, false, sl.a, sl.adopt,
   sl.factors, sl.reds, sl.ending⟩

/-- The free slot of a core, the running one first. -/
def freeSlot (c : Core) : Option Bool :=
  if c.slot.task.isNone then some c.ctx else if (c.slotOf !c.ctx).task.isNone then some !c.ctx else none

def clearLatches (c : Core) : Core := { c with bs := .replicate 4 0, bv := .replicate 4 0, bl := .replicate 4 0, bx := .replicate 4 0 }

/-- What a step switch empties: latches, transposer block, monitor (R68, R231, R305). -/
def switchClean (c : Core) : Core :=
  { clearLatches c with xpose := ⟨0, 0, [], 0⟩, monitor := none, monitorHit := false }

/-- Counters that select an event count it, but for those written in this cycle (R167). -/
def countEvt (c : Core) (code n : Nat) : Core :=
  { c with evc := .ofFn fun i =>
      if (vget c.sel i.val 0).toNat = code && !c.evset.getLsbD i.val then c.evc[i] + BitVec.ofNat 64 n else c.evc[i] }

/-- The head of the local queue starts in a free slot; an entry that cannot be read ends the step FAULTED (R128, R141). Row 0 of
a compensation task takes the ARG that the long-activity unit reads (R156, R325, log 18). DESIGN CHOICE (log 101): CORE of a
step that ends so names the core that has started it (R135). -/
def startTask (s : State) (c : Nat) : State :=
  let k := s.core c
  match k.local_, freeSlot k with
  | t :: rest, some b =>
    let x := s.task t
    let l := s.launch x.launch
    let s := s.modCore c fun y => countEvt (countEvt { y with local_ := rest } 8 1) 9 (if x.zero then 1 else 0)
    match tidFail s c l with
    | some pa =>
      let s := s.recordC c 1 1 1 (coreMaster c) 0x12 (BitVec.ofNat 52 pa) 0
      finalTask s t .faulted c 0x0302
    | none =>
      let sl := stepSlot s (k.slotOf b) t
      let sl := { sl with shadow := some (Core.shadowNow sl [] [] [] [] sl.pc) }
      let s := s.modTask t fun y => { y with st := .running, saved := none, core := c }
      let idle := k.slot.task.isNone
      let s := s.modCore c fun y =>
        let y := { (y.setSlotOf b sl) with deferred := [] }
        if idle then { (switchClean y) with ctx := b, inflight := [], freeze := none, hold := none } else y
      match x.comp with
      | some (act, d, ix) =>
        let pa := ((s.die d).csseg.toNat / 2 ^ 20 * 2 ^ 20 + 64 * ix) % 2 ^ 52
        let arg := if accOk s (schedMaster 0) .rd pa then rdN s.mem pa 48 else 0
        s.wrRow c 0 (BitVec.ofNat 2048 (arg + act.toNat <<< 384))
      | none => s
  | _, _ => s

/-- A pre-empted step returns to the head of its core's queue; a full queue loses its tail (R130). -/
def requeue (s : State) (c t : Nat) : State :=
  let q := (s.core c).local_
  if q.length < 16 then s.modCore c fun x => { x with local_ := t :: q }
  else
    match q.getLast? with
    | some e =>
      let s := s.modCore c fun x => { x with local_ := t :: q.dropLast }
      readyTask s e
    | none => s.modCore c fun x => { x with local_ := [t] }

/-- Pairs of the balancer: the deepest unpaired queue with the shallowest (R131). -/
def pairs (s : State) : Nat → List Nat → List (Nat × Nat × Nat)
  | 0, _ => []
  | n + 1, cs =>
    let depth (c : Nat) : Nat := (s.core c).local_.length
    let deep := cs.foldl (fun acc c => match acc with
      | none => some c
      | some b => if depth b < depth c then some c else some b) none
    let shal := cs.foldl (fun acc c => match acc with
      | none => some c
      | some b => if depth c < depth b then some c else some b) none
    match deep, shal with
    | some a, some b =>
      if depth a < depth b + 3 then []
      else (a, b, min 4 ((depth a - depth b) / 2)) :: pairs s n (cs.filter fun c => c != a && c != b)
    | _, _ => []

def balancerPairs (s : State) : List (Nat × Nat × Nat) :=
  pairs s 8 ((List.range 1024).filter fun c =>
    !((s.cluster (clusterOf c)).role.isSome && (c % 8 == 0 || c % 8 == 7)))

/-- A migration command arrives (R14, R129, R131). -/
def migrate (s : State) (a b n : Nat) : State :=
  let q := (s.core a).local_
  let can (t : Nat) : Bool := !(s.task t).pinned && (s.task t).saved.isNone
  let room := 16 - (s.core b).local_.length
  let take := min n (min room (q.filter can).length)
  let moved := ((q.filter can).drop ((q.filter can).length - take))
  let s := s.modCore a fun x => { x with local_ := q.filter fun t => !moved.contains t }
  let s := s.modCore b fun x => { x with local_ := x.local_ ++ moved }
  moved.foldl (fun s t => roleEnd (s.modTask t fun x => { x with migr := true }) (s.task t).launch) s

/-- The role tasks of the die's next launch on a cluster: placed once its staging share is in place, the cluster is in no role
mode, the two queues have room and the pool has two records (R122, R124, R132, R375). -/
def roleStart (s : State) (cl : Nat) : State :=
  let d := cl / 16
  match (pendingOn s d).head? with
  | none => s
  | some k =>
    let l := s.launch k
    let room (c : Nat) : Bool := decide ((s.core c).local_.length < 16)
    if !l.role || (s.cluster cl).role.isSome || (s.tasks.any fun e => e.2.launch == k && e.2.kind == .role && e.2.die == d &&
          e.2.wid == packWid l [cl % 16]) ||
        !(l.stage == 15 || (s.die d).staging == l.stage.toNat) || !room (8 * cl) || !room (8 * cl + 7) ||
        decide (poolSize s d < poolUsed s d + 2) then s
    else
      let mk (s : State) (c : Nat) (entry : Addr) : State :=
        let t := newKey s.tasks
        let x : Task := { Task.none with
          launch := k
          kind := .role
          die := d
          wid := packWid l [cl % 16]
          entry := entry
          prio := opbPrio l
          pinned := true
          st := .queued }
        let s := { s with tasks := tput s.tasks t x }
        s.modCore c fun y => { y with local_ := y.local_ ++ [t] }
      let s := (beginLaunch s k).modCluster cl fun y => { y with role := some k }
      noteExpanded (mk (mk s (8 * cl) l.loader) (8 * cl + 7) l.storer) k

end Sys2Proof.Machine
end

