-- ==== Sys2Proof/Machine/Control.lean ====
section
/-!
DEFINITION. Control.lean: control space (R372) and every access that reaches a physical address: device memory, staging,
scratchpads, control registers, host and peer windows (R87, R100, R123, R136, R143, R158, R167, R169, R351, R359, R362
to R364, R367, R369, R371, R373 to R375).
-/
namespace Sys2Proof.Machine

/-- Kinds of masters that write control space (R157). -/
def mKind (m : Nat) : Nat := m / 0x2000
def isMgmt (m : Nat) : Bool := mKind m == 6

/-! ## Launch rings (R123, R136) -/

def lqCtl (r : Ring) : Word := BitVec.ofNat 64 (b1 r.en 0 + b1 r.err 2 + r.head.toNat * 256)

/-- The doorbell (R123). -/
def ringTail (r : Ring) (v : Word) : Ring :=
  if !r.okSize then { r with err := true }
  else
    let n := r.count
    let occ := (r.tail.toNat + n - r.head.toNat % n) % n
    if n ≤ v.toNat ∨ (v.toNat + n - r.head.toNat % n) % n < occ then { r with err := true } else { r with tail := v }

/-- A write of LQCTL.EN; writes before READY are ignored (R367). -/
def ringEn (s : State) (q : Nat) (en : Bool) : State :=
  if s.boot ≠ .ready then s
  else s.modRing q fun r => if en && !r.okSize then { r with en := false, err := true } else { r with en := en }

/-- The records of a ring not yet fetched (R136). -/
def ringCancel (s : State) (r : Ring) : Nat → Nat → State
  | 0, _ => s
  | n + 1, h =>
    if h = r.tail.toNat % r.count then s
    else ringCancel (writeCword s ((r.base.toNat / 128 * 128 + 128 * h) % 2 ^ 52) (cwordOf 2 false false 0x7FF 0)) r n
      ((h + 1) % r.count)

def resetRing (s : State) (q : Nat) : State :=
  let r := s.ring q
  (ringCancel s r r.count (r.head.toNat % r.count)).modRing q fun x => { x with head := BitVec.ofNat 16 (x.tail.toNat % x.count) }

/-! ## Invalidation (R100) -/

def tbivcRead (s : State) : Word :=
  s.tbivcWord ||| (if s.tbivcOvr then (1 : Word) <<< 62 else 0) ||| (if s.tbivc.isSome then (1 : Word) <<< 63 else 0)

/-- A write of TBIVC: ignored with OVR while busy; a walk begun before it will be done again. -/
def tbivcWrite (s : State) (v : Word) : State :=
  let s := if v.getLsbD 62 then { s with tbivcOvr := false } else s
  if s.tbivc.isSome then { s with tbivcOvr := true }
  else
    let s := { s with
      tbivc := some (v.extractLsb' 16 36, v.extractLsb' 52 4, v.extractLsb' 56 2)
      tbivcWord := v &&& 0x03FFFFFFFFFF0000 }
    s.mapDies fun _ d => { d with walks := d.walks.map fun w => { w with fresh := false } }

/-! ## Objects (R148, R363) -/

/-- A release reaches the object: its version steps, LACT and LAV are recorded. -/
def release (s : State) (d i : Nat) (lact : BitVec 12) (lav : Bool) : State :=
  s.modDie d fun x => { x with sync := tput x.sync i ⟨(tget x.sync i ⟨0, 0, false⟩).ver + 1, lact, lav⟩ }

/-! ## Error records and counts (R158, R169, R374) -/

def errRecWord (e : ErrRec) (k : Nat) : Word :=
  match k with
  | 0 => BitVec.ofNat 64 (b1 e.v 0 + e.rank.toNat * 2 + b1 e.ovf 3 + e.unit.toNat * 16 + e.master.toNat * 256 +
      e.ecode.toNat * 2 ^ 24)
  | 1 => e.addr.setWidth 64
  | 2 => e.synd
  | _ => e.time

def bankOf (s : State) (d k : Nat) : Bank := vget (s.die d).banks k .reset
def modBank (s : State) (d k : Nat) (f : Bank → Bank) : State :=
  s.modDie d fun x => { x with banks := vset x.banks k (f (vget x.banks k .reset)) }
/-- Writing 1 to V frees the record; its other fields read as they did (R7, R158). -/
def errFree (s : State) (d k r : Nat) : State :=
  modBank s d k fun b => { b with recs := vset b.recs r { vget b.recs r .empty with v := false } }
def errOvfClear (s : State) (d k r : Nat) : State :=
  modBank s d k fun b => { b with recs := vset b.recs r { vget b.recs r .empty with ovf := false } }

/-! ## Registers with conditions of their own (R373, R375) -/

/-- An area register: SIZE in [11:0], BASE in PA[51:20] (R375). -/
def areaWord (size : Nat) (base : Nat) : Word := BitVec.ofNat 64 (size + base * 2 ^ 20)

def actLive (s : State) : Bool := s.acts.any fun a => a.2.st != .free

/-- CSSEG: ignored while any activity is live. -/
def cssegWriteR (s : State) (d : Nat) (v : Word) : State :=
  if actLive s then s else s.modDie d fun x => { x with csseg := v &&& 0x000FFFFFFFF00FFF }

/-- TRPOOL: ignored while any record of the die is allocated. -/
def trpoolWriteR (s : State) (d : Nat) (v : Word) : State :=
  if poolUsed s d ≠ 0 then s else s.modDie d fun x => { x with trpool := v &&& 0x000FFFFFFFF00FFF }

def devidWriteR (s : State) (m : Nat) (v : Word) : State := if isMgmt m then { s with devid := v &&& 0x3F } else s

/-- PREEMPT.REQ is set by writing 1 (R351). -/
def preemptSet (s : State) (c : Nat) : State := s.modCore c fun x => { x with preempt := true }

/-! ## The map of R372 -/

/-- A register or window of control space, with its index. -/
inductive CtlReg where
  | fatal (k : Nat) | gttbase | asroot (n : Nat) | tbivc | lqkill | csseg (d : Nat) | trpool (d : Nat) | bootstat
  | aspasid (n : Nat) | peermap (p : Nat) | devid | powerctl | apbase | ring (q k : Nat) | sync (d i : Nat)
  | event (c k : Nat) | preempt (c : Nat) | errcnt (d k : Nat) | errrec (d k r w : Nat) | nothing
deriving DecidableEq, Repr

/-- What the 64-bit lane at an offset is. -/
def ctlReg (off : Nat) : CtlReg :=
  let o := off / 8
  let within (base n : Nat) : Bool := decide (base / 8 ≤ o) && decide (o < base / 8 + n)
  if within 0x1000 2 then .fatal (o - 0x1000 / 8)
  else if within 0x2000 1 then .gttbase
  else if within 0x3000 16 then .asroot (o - 0x3000 / 8)
  else if within 0x3100 1 then .tbivc
  else if within 0x3108 1 then .lqkill
  else if within 0x3200 8 then .csseg (o - 0x3200 / 8)
  else if within 0x3300 8 then .trpool (o - 0x3300 / 8)
  else if within 0x4000 1 then .bootstat
  else if within 0x5000 16 then .aspasid (o - 0x5000 / 8)
  else if within 0x6000 64 then .peermap (o - 0x6000 / 8)
  else if within 0x6200 1 then .devid
  else if within 0x7000 1 then .powerctl
  else if within 0x7008 1 then .apbase
  else if within 0x100000 1024 then .ring ((o - 0x100000 / 8) / 4) ((o - 0x100000 / 8) % 4)
  else if within 0x200000 131072 then .sync ((o - 0x200000 / 8) / 16384) ((o - 0x200000 / 8) % 16384)
  else if within 0x1000000 8192 then .event ((o - 0x1000000 / 8) / 8) ((o - 0x1000000 / 8) % 8)
  else if within 0x1400000 1024 then .preempt (o - 0x1400000 / 8)
  else if within 0x1800000 32 then .errcnt ((o - 0x1800000 / 8) / 4) ((o - 0x1800000 / 8) % 4)
  else if within 0x1C00000 1024 then
    let w := o - 0x1C00000 / 8
    .errrec (w / 128) (w / 32 % 4) (w / 4 % 8) (w % 4)
  else .nothing

/-- A read of a 64-bit lane. A read of the sync window returns VER (R363). -/
def ctlRead (s : State) (off : Nat) : Word :=
  match ctlReg off with
  | .fatal k =>
    match s.fatal with
    | none => 0
    | some f =>
      if k = 0 then BitVec.ofNat 64 (1 + f.die.toNat * 2 + f.core.toNat * 16 + f.cause.toNat * 2 ^ 14)
      else f.dump.setWidth 64
  | .gttbase => s.gttbase
  | .asroot n => vget s.asroot n 0
  | .tbivc => tbivcRead s
  | .lqkill => 0
  | .csseg d => (s.die d).csseg
  | .trpool d => (s.die d).trpool
  | .bootstat =>
    match s.boot with
    | .off => 0
    | .running st _ => BitVec.ofNat 64 (st % 16 * 4)
    | .ready => BitVec.ofNat 64 (1 + 5 * 4)
    | .failed st code => BitVec.ofNat 64 (2 + st % 16 * 4 + code % 256 * 2 ^ 16)
  | .aspasid n => vget s.aspasid n 0
  | .peermap p => tget s.peermap p 0
  | .devid => s.devid
  | .powerctl => (s.powercap &&& 0xFFF) ||| (BitVec.ofNat 64 s.pstate <<< 12)
  | .apbase => s.apbase
  | .ring q k =>
    let r := s.ring q
    match k with
    | 0 => r.base.setWidth 64
    | 1 => r.size
    | 2 => r.tail
    | _ => lqCtl r
  | .sync d i => (objVer s d i).setWidth 64
  | .event c k =>
    let x := s.core c
    if k = 0 then BitVec.ofNat 64 ((vget x.sel 0 0).toNat + (vget x.sel 1 0).toNat * 256 + (vget x.sel 2 0).toNat * 65536 +
      (vget x.sel 3 0).toNat * 2 ^ 24)
    else if k ≤ 4 then vget x.evc (k - 1) 0 else 0
  | .preempt c => if (s.core c).preempt then 1 else 0
  | .errcnt d k =>
    let b := bankOf s d k
    BitVec.ofNat 64 (b.ccnt.toNat + b.dcnt.toNat * 65536 + b.ucnt.toNat * 2 ^ 32)
  | .errrec d k r w => errRecWord (vget (bankOf s d k).recs r .empty) w
  | .nothing => 0

/-- Whether a master may change a register that only the supervisor and the outside write: a core or an engine, whose level is
tested before (R7, R340, log 47), the host, the management controller; of ASROOT and LQKILL all but the last (R96, R136, R351,
R373). -/
def supWriter (m : Nat) (r : CtlReg) : Bool :=
  match r with
  | .asroot _ | .lqkill => decide (mKind m ≤ 2) || mKind m == 4
  | .csseg _ | .trpool _ | .aspasid _ | .peermap _ | .powerctl | .apbase | .preempt _ =>
    decide (mKind m ≤ 2) || mKind m == 4 || isMgmt m
  | _ => true

/-- A write of bytes of a 64-bit lane by master `m`: `mask` holds the bits of the bytes written, the others keep what they
hold; a 1 acts on a bit that is W1C, W1S or WO only where it is written (R7). A write of LQCTL clears ERR first, then resets
the ring, then sets EN: DESIGN CHOICE (log 88). -/
def ctlWriteMask (s : State) (m off : Nat) (v mask : Word) : State :=
  let x := v &&& mask
  let w := (ctlRead s off &&& ~~~mask) ||| x
  let reg := ctlReg off
  if !supWriter m reg || mask == 0 then s
  else
  match reg with
  | .fatal _ | .bootstat | .nothing => s
  | .gttbase => { s with gttbase := w }
  | .asroot n => { s with asroot := vset s.asroot n (w &&& 0x000FFFFFFFFFF000) }
  | .tbivc => tbivcWrite s ((s.tbivcWord &&& ~~~mask) ||| x)
  | .lqkill => if mask &&& 0xFFFF = 0 then s else killLid s (x.extractLsb' 0 16)
  | .csseg d => cssegWriteR s d w
  | .trpool d => trpoolWriteR s d w
  | .aspasid n => { s with aspasid := vset s.aspasid n (w &&& 0x1FFFFF) }
  | .peermap p => { s with peermap := tput s.peermap p (w &&& 0x7FFFF) }
  | .devid => devidWriteR s m w
  | .powerctl => { s with powercap := w &&& 0xFFF }
  | .apbase => { s with apbase := w &&& 0xFFC0000000 }
  | .ring q k =>
    match k with
    | 0 => s.modRing q fun r => if r.en then r else { r with base := w.setWidth 52 }
    | 1 => s.modRing q fun r => if r.en then r else { r with size := w }
    | 2 => s.modRing q fun r => ringTail r w
    | _ =>
      let s := if x.getLsbD 2 then s.modRing q fun r => { r with err := false } else s
      let s := if x.getLsbD 1 then resetRing s q else s
      if mask.getLsbD 0 then ringEn s q (x.getLsbD 0) else s
  | .sync d i => release s d i 0 false
  | .event c k =>
    s.modCore c fun x =>
      if k = 0 then
        { x with sel := #v[w.extractLsb' 0 8, w.extractLsb' 8 8, w.extractLsb' 16 8, w.extractLsb' 24 8] }
      else if k ≤ 4 then { x with evc := vset x.evc (k - 1) w, evset := x.evset ||| (1 <<< (k - 1)) } else x
  | .preempt c => if x.getLsbD 0 then preemptSet s c else s
  | .errcnt d k =>
    modBank s d k fun b => { b with ccnt := w.extractLsb' 0 16, dcnt := w.extractLsb' 16 16, ucnt := w.extractLsb' 32 16 }
  | .errrec d k r w =>
    if w ≠ 0 then s
    else
      let s := if x.getLsbD 3 then errOvfClear s d k r else s
      if x.getLsbD 0 then errFree s d k r else s

/-- A write of a whole 64-bit lane. -/
def ctlWrite (s : State) (m off : Nat) (v : Word) : State := ctlWriteMask s m off v (BitVec.allOnes 64)

/-- Whether an access of a kind at task level to the lane at an offset takes the privilege trap: a register marked SUP (R7), and
a write of LQKILL or PREEMPT, which only the supervisor and the outside may write (R136, R351; log 47). -/
def ctlSup (k : Kind) (off : Nat) : Bool :=
  match ctlReg off with
  | .asroot _ | .csseg _ | .trpool _ | .aspasid _ | .peermap _ | .powerctl | .apbase => true
  | .lqkill | .preempt _ => k == .wr
  | _ => false

/-- The same for `n` bytes at an address. -/
def ctlBytes (s : State) (sup : Bool) (k : Kind) (pa n : Nat) : Bool :=
  !sup && (match targetOf s pa with
    | .ctl off => (List.range (cdiv (off % 8 + n) 8)).any fun j => ctlSup k (off / 8 * 8 + 8 * j)
    | _ => false)

/-! ## Accesses by physical address -/

/-- `n` bytes at a physical address. -/
def State.rdPA (s : State) (pa n : Nat) : Nat :=
  match targetOf s pa with
  | .ctl off =>
    let k := cdiv (off % 8 + n) 8
    let v := (List.range k).foldr (fun j acc => (acc <<< 64) + (ctlRead s (off / 8 * 8 + 8 * j)).toNat) 0
    v >>> (8 * (off % 8)) % 2 ^ (8 * n)
  | .hole => 0
  | _ => rdN s.mem pa n

/-- The line at a physical address. -/
def State.rdPALine (s : State) (pa : Nat) : Row := BitVec.ofNat 2048 (s.rdPA (lineOf pa) 256)

/-- Lanes of control space in ascending order, of each the bytes that the write covers. -/
def ctlWriteN (s : State) (m off n v : Nat) : Nat → State
  | 0 => s
  | j + 1 =>
    let s := ctlWriteN s m off n v j
    let base := off / 8 * 8 + 8 * j
    let covered (b : Nat) : Bool := decide (off ≤ base + b) && decide (base + b < off + n)
    let bytes (f : Nat → Nat) : Word := BitVec.ofNat 64 ((List.range 8).foldl (fun acc b =>
      acc + (if covered b then f b else 0) <<< (8 * b)) 0)
    ctlWriteMask s m base (bytes fun b => v >>> (8 * (base + b - off)) % 256) (bytes fun _ => 255)

/-- `n` bytes written at a physical address, within one line, by master `m`. -/
def State.wrPA (s : State) (m pa n v : Nat) : State :=
  match targetOf s pa with
  | .ctl off => ctlWriteN (wakeMonitors s pa) m off n v (cdiv (off % 8 + n) 8)
  | .hole => s
  | .spad c off =>
    let s := (wakeMonitors (s.wrBytes pa n v) pa).modCore c fun k => dropResid k (off / 256)
    if n = 256 then s.clean pa else s
  | .staging d sl off =>
    let s := (wakeMonitors (s.wrBytes pa n v) pa).modDie d fun x => dropStaged x sl (off / 256)
    if n = 256 then s.clean pa else s
  | _ =>
    let s := wakeMonitors (s.wrBytes pa n v) pa
    if n = 256 then s.clean pa else s

/-- A whole line written, with or without poison (R94). -/
def State.putLine (s : State) (m pa : Nat) (v : Row) (bad : Bool) : State :=
  let s := s.wrPA m (lineOf pa) 256 v.toNat
  if bad then s.taint pa else s

end Sys2Proof.Machine
end

