-- ==== Sys2Proof/Machine/Cache.lean ====
section
/-!
DEFINITION. Cache.lean: the L1 data caches, the L2 slices, what the home stacks hold behind them, and the requests that a
cluster sends to a home (R20, R84, R89 to R93, R107, R298, R386 to R389). The caches change no value that a load returns:
`State.mem` holds the coherent value of every line, and `State.stack` what the stack of a line's home holds where that is
behind.
-/
namespace Sys2Proof.Machine

def isDev (s : State) (pa : Nat) : Bool :=
  match targetOf s pa with
  | .dev => true
  | _ => false

/-! ## The home stack (R84, R387, R389) -/

/-- The 16-bit positions of the sectors of a mask (R89). -/
def secLanes (d : BitVec 4) : LaneMask :=
  (List.range 4).foldl (fun acc i => if d.getLsbD i then acc ||| (0xFFFFFFFF : LaneMask) <<< (32 * i) else acc) 0

def stackRow (s : State) (pa : Nat) : Row := tget s.stack (pa / 256) (s.rdLine pa)
def setStack (s : State) (pa : Nat) (r : Row) : State :=
  { s with stack := if r = s.rdLine pa then tdel s.stack (pa / 256) else tput s.stack (pa / 256) r }

/-- A write that a cache keeps: the stack holds what it held. -/
def keepStack (s : State) (pa : Nat) (f : State → State) : State := setStack (f s) pa (stackRow s pa)

def l2Key (pa : Nat) : Nat := homeSlice pa * 2048 + homeSet pa
def l2Set (s : State) (pa : Nat) : List L2Line := tget (s.die (homeDie pa)).l2 (l2Key pa) []
def setL2 (s : State) (pa : Nat) (l : List L2Line) : State :=
  s.modDie (homeDie pa) fun d => { d with l2 := if l.isEmpty then tdel d.l2 (l2Key pa) else tput d.l2 (l2Key pa) l }

/-- The L2 copy of a line. -/
def l2Find (s : State) (pa : Nat) : Option L2Line := (l2Set s pa).find? fun l => lineOf l.pa.toNat == lineOf pa
def l2Has (s : State) (pa : Nat) : Bool := (l2Find s pa).isSome

/-- Changes the L2 copy of a line, if there is one. -/
def modL2 (s : State) (pa : Nat) (f : L2Line → L2Line) : State :=
  if l2Has s pa then setL2 s pa ((l2Set s pa).map fun x => if lineOf x.pa.toNat = lineOf pa then f x else x) else s

/-- Sectors written back: they reach the stack and any L2 copy, which is left clean; what of that copy was ahead of the stack
reaches the stack with them. The line of `State.mem` is what they carry: their holder owns the line (log 30). -/
def writeBack (s : State) (pa : Nat) (d : BitVec 4) : State :=
  let old := match l2Find s pa with
    | some l => if l.dirty then l.data else stackRow s pa
    | none => stackRow s pa
  let lay (r : Row) : Row := mergeRow (secLanes d) (s.rdLine pa) r
  modL2 (setStack s pa (lay old)) pa fun l => { l with
    data := lay l.data
    dirty := false }

/-- A line enters its home slice with the given content, the least recently used way leaving a full set: a dirty one is
written to the stack (R389). -/
def l2Fill (s : State) (pa : Nat) (dirty : Bool) (data : Row) : State :=
  let l := l2Set s pa
  let s := s.nextFresh
  let ways := 16 - 2 * (s.die (homeDie pa)).staging
  let new : L2Line := ⟨BitVec.ofNat 52 (lineOf pa), dirty, s.fresh, data⟩
  if l.length < ways then setL2 s pa (l ++ [new])
  else
    match l.foldl (fun (acc : Option L2Line) x => match acc with
      | none => some x
      | some y => if x.used < y.used then some x else some y) none with
    | none => setL2 s pa [new]
    | some v =>
      let s := setL2 s pa (l.filter (· != v) ++ [new])
      if v.dirty then setStack s v.pa.toNat v.data else s

/-- A read that a line's home slice serves: a use of its copy, or a fill from the stack (R389). -/
def l2Use (s : State) (pa : Nat) : State :=
  if l2Has s pa then
    let s := s.nextFresh
    modL2 s pa fun x => { x with used := s.fresh }
  else l2Fill s pa false (stackRow s pa)

/-- A write of sectors that L2 keeps: no use of a copy that is there, a fill where there is none (R389). -/
def l2Write (s : State) (pa : Nat) (secs : BitVec 4) : State :=
  let lay (r : Row) : Row := mergeRow (secLanes secs) (s.rdLine pa) r
  if l2Has s pa then modL2 s pa fun x => { x with
    dirty := true
    data := lay x.data }
  else l2Fill s pa true (lay (stackRow s pa))

/-- A write of sectors of device memory by attribute: kept by an L1, kept by L2, or through to the stack. -/
def cachedWrite (s : State) (pa : Nat) (attr : BitVec 2) (secs : BitVec 4) (f : State → State) : State :=
  if !isDev s pa || attr == 2 then f s
  else
    let s := keepStack s pa f
    if attr == 0 then s else l2Write s pa secs

/-! ## L1 (R89, R90) -/

def L1Line.none : L1Line := ⟨0, .i, 0, 0, 0, 0⟩

def l1Home (s : State) (c : Nat) (pa : Nat) : Nat :=
  if (s.cluster (clusterOf c)).fused then 8 * clusterOf c + bitsN pa 10 8 else c

def l1At (s : State) (c pa : Nat) : L1Line := tget (s.core c).l1 (pa / 256) .none
def l1Line (s : State) (c pa : Nat) : L1Line := l1At s (l1Home s c pa) pa
def l1Hit (s : State) (c pa : Nat) : Bool :=
  let l := l1Line s c pa
  l.st != .i && l.valid == 15

def putL1 (s : State) (c pa : Nat) (l : L1Line) : State :=
  s.modCore c fun k => { k with l1 := if l.st = .i then tdel k.l1 (pa / 256) else tput k.l1 (pa / 256) l }

/-- A use of a line: its place in the replacement order. -/
def l1Touch (s : State) (c pa : Nat) : State :=
  let h := l1Home s c pa
  s.modCore h fun k => { k with
    l1 := tput k.l1 (pa / 256) { tget k.l1 (pa / 256) .none with used := k.useq }
    useq := k.useq + 1 }

/-- The set of a line. -/
def l1Set (fused : Bool) (pa : Nat) : Nat := if fused then pa / 2048 % 128 else pa / 256 % 128

def clCores (cl : Nat) : List Nat := (List.range 8).map (8 * cl + ·)
/-- The copies that a cluster holds. -/
def copies (s : State) (cl pa : Nat) : List (Nat × L1Line) :=
  ((clCores cl).map fun c => (c, l1At s c pa)).filter fun e => e.2.st != .i

/-- A cluster's state of a line: that of its strongest copy. -/
def clState (s : State) (cl pa : Nat) : Moesi :=
  let l := copies s cl pa
  let has (x : Moesi) : Bool := l.any fun e => e.2.st == x
  if has .m then .m else if has .o then .o else if has .e then .e else if has .s then .s else .i

def wake (s : State) (c pa : Nat) : State :=
  if (s.core c).monitor = some (BitVec.ofNat 52 (lineOf pa)) then s.modCore c fun k => { k with monitorHit := true } else s

def sendMsg (s : State) (m : Msg) : State := { s with msgs := s.msgs ++ [m] }

/-- A copy goes, and the monitors of the cores whose line it was are woken (R305). -/
def dropCopy (s : State) (c pa : Nat) : State :=
  (clCores (clusterOf c)).foldl (fun s k => if l1Home s k pa = c then wake s k pa else s)
    (putL1 s c pa { l1At s c pa with st := .i })

/-- A line leaves an L1: E and S silently, M and O through PutM (R388). As the home then counts the cluster out, its other
copies of the line go with it (log 30). -/
def l1Evict (s : State) (c pa : Nat) : State :=
  let l := l1At s c pa
  let cl := clusterOf c
  let s := dropCopy s c pa
  if l.st = .m ∨ l.st = .o then
    let others := copies s cl pa
    let d := others.foldl (fun acc e => acc ||| e.2.dirty) l.dirty
    let s := others.foldl (fun s e => dropCopy s e.1 pa) s
    let a := BitVec.ofNat 52 (lineOf pa)
    sendMsg (s.modCluster cl fun x => { x with wbuf := x.wbuf ++ [⟨a, l.st, d⟩] }) ⟨.putm, a, cl, cl, c, l.st, d, false⟩
  else s

/-- The line that a fill replaces: the least recently used way, one under the hold of R20 passed over unless all eight are. -/
def l1Victim (s : State) (c pa : Nat) : Option Nat :=
  let fused := (s.cluster (clusterOf c)).fused
  let set := (s.core c).l1.filter fun e => l1Set fused (256 * e.1) == l1Set fused pa
  if set.length < 8 then none
  else
    let free := set.filter fun e => e.2.hold == 0
    ((if free.isEmpty then set else free).foldl (fun (acc : Option (Nat × L1Line)) e => match acc with
      | none => some e
      | some b => if e.2.used < b.2.used then some e else some b) none).map fun e => 256 * e.1

/-- A line enters an L1 whole. -/
def l1Fill (s : State) (c pa : Nat) (st : Moesi) (dirty : BitVec 4) (atomic : Bool) : State :=
  let s := if (l1At s c pa).st != .i then s
    else match l1Victim s c pa with
      | some v => l1Evict s c v
      | none => s
  let n := (s.core c).useq
  (putL1 s c pa ⟨BitVec.ofNat 52 (lineOf pa), st, 15, dirty, n, if atomic then 65 else 0⟩).modCore c fun k => { k with useq := n + 1 }

/-- Removes every copy of a cluster. -/
def dropCopies (s : State) (cl pa : Nat) : State := (copies s cl pa).foldl (fun s e => putL1 s e.1 pa { e.2 with st := .i }) s
def copiesDirty (s : State) (cl pa : Nat) : BitVec 4 := (copies s cl pa).foldl (fun acc e => acc ||| e.2.dirty) 0

/-! ## Requests (R387, R388) -/

/-- Attribute of an access to a line that L1 may hold: device memory mapped coherent (R89, R97). -/
def l1Kind (s : State) (pa : Nat) (attr : BitVec 2) : Bool := attr == 0 && isDev s pa

def reqFor (s : State) (cl pa : Nat) : Option Req := (s.cluster cl).reqs.find? fun r => lineOf r.pa.toNat == lineOf pa
/-- Whether the cluster of a core waits for a line. -/
def awaited (s : State) (c pa : Nat) : Bool := isDev s pa && (reqFor s (clusterOf c) pa).isSome

/-- Whether the waiting loads of a cluster can take a line's data now, though an Inv keeps the line invalid (R388). -/
def reqArrived (s : State) (cl pa : Nat) : Bool := (reqFor s cl pa).any fun r => !r.excl && r.data != .no && r.grant.isSome

/-- A request, or its wish joined to the one outstanding for the line; only an atomic of the core whose L1 gets the line makes
its ownership one with a hold (R20). -/
def sendReq (s : State) (cl pa : Nat) (excl : Bool) (core : Nat) (atomic : Bool) (dirty : BitVec 4) : State :=
  let a := BitVec.ofNat 52 (lineOf pa)
  let st := clState s cl pa
  match reqFor s cl pa with
  | some r =>
    let r' : Req := { r with
      more := r.more || (excl && !r.excl)
      atomic := r.atomic || (atomic && core == r.core)
      dirty := r.dirty ||| dirty }
    s.modCluster cl fun x => { x with reqs := x.reqs.map fun y => if y = r then r' else y }
  | none =>
    sendMsg (s.modCluster cl fun x => { x with
        reqs := x.reqs ++ [⟨a, excl, core, atomic, dirty, if st = .i then .no else .own, none, false, false⟩] })
      ⟨if excl then .getm else .gets, a, cl, cl, core, st, 0, atomic⟩

/-- The latency of R93 on a hit in the home slice. -/
def l2Latency (c pa : Nat) : Nat :=
  let cl := clusterOf c % 16
  let sl := homeSlice pa
  let dist (a b : Nat) : Nat := if a < b then b - a else a - b
  let hops (a b : Nat) : Nat := dist (a % 4) (b % 4) + dist (a / 4) (b / 4)
  24 + 2 * (dist (cl % 4) (sl % 4) + dist (cl / 4) (sl / 4)) + 40 * hops (dieOf c) (homeDie pa)

/-- A read by a core whose line is there: whether its data come late. A copy with invalid sectors fetches them; another copy in
the cluster serves it without a request (R89). -/
def readLine (s : State) (c pa : Nat) (attr : BitVec 2) : State × Bool :=
  if l1Kind s pa attr then
    let h := l1Home s c pa
    let cl := clusterOf c
    if l1Hit s c pa then (l1Touch s c pa, h != c)
    else
      let own := l1At s h pa
      if own.st != .i then
        let t := l1Touch s c pa
        (putL1 t h pa { l1At t h pa with valid := 15 }, true)
      else
        match (copies s cl pa).find? fun e => e.2.valid == 15 with
        | some (k, x) =>
          let st : Moesi := if x.st = .m then .o else if x.st = .e then .s else x.st
          (l1Fill (putL1 s k pa { x with st := st }) h pa .s 0 false, true)
        | none => (s, false)
  else if attr == 1 && isDev s pa then
    (l2Use s pa, !(l2Has s pa && decide (l2Latency c pa ≤ 40)))
  else (s, true)

/-- A miss in L1 (R168). -/
def l1Miss (s : State) (c pa : Nat) (attr : BitVec 2) : Bool := l1Kind s pa attr && !l1Hit s c pa

/-- A load whose line no copy of the cluster serves sends a GetS for it, unless a request is outstanding (R388). -/
def askLine (s : State) (c pa : Nat) (attr : BitVec 2) : State :=
  if l1Kind s pa attr && (copies s (clusterOf c) pa).all (fun e => e.2.valid != 15) && (l1At s (l1Home s c pa) pa).st == .i &&
      !awaited s c pa then
    sendReq s (clusterOf c) pa false (l1Home s c pa) false 0
  else s

/-- Ownership for a write: whether it comes late, and the request. An E copy asks too, so that its home knows (log 19). -/
def ownLine (s : State) (c pa : Nat) (attr : BitVec 2) (atomic : Bool) (dirty : BitVec 4) : State × Bool :=
  if l1Kind s pa attr then
    let h := l1Home s c pa
    let cl := clusterOf c
    let l := l1At s h pa
    if l.st = .m then
      (putL1 (l1Touch s c pa) h pa { l1At (l1Touch s c pa) h pa with
        dirty := l.dirty ||| dirty
        valid := 15 }, false)
    else if clState s cl pa = .m then
      let d := copiesDirty s cl pa
      (l1Fill (dropCopies s cl pa) h pa .m (d ||| dirty) atomic, true)
    else (sendReq s cl pa true h atomic dirty, true)
  else (s, true)

/-- Whether a core may write a line now: no L1 holds lines of its kind, or the cluster holds it exclusively and no hold of a
sibling keeps it (R20, R113, R388). -/
def canOwn (s : State) (c pa : Nat) (attr : BitVec 2) : Bool :=
  let h := l1Home s c pa
  !l1Kind s pa attr || (l1At s h pa).st == .m ||
  (clState s (clusterOf c) pa == .m && (copies s (clusterOf c) pa).all fun e => e.2.hold == 0)

/-- Whether a load may have a line now: its own copy serves it, or another of the cluster does which no hold keeps (R20), or
its data have just arrived (R388). -/
def canRead (s : State) (c pa : Nat) (attr : BitVec 2) : Bool :=
  let l := copies s (clusterOf c) pa
  let h := l1Home s c pa
  !l1Kind s pa attr || l1Hit s c pa || reqArrived s (clusterOf c) pa ||
  ((l.all fun e => e.1 == h || e.2.hold == 0) && ((l1At s h pa).st != .i || l.any fun e => e.2.valid == 15))

/-- A request that holds both data and grant is complete. -/
def Req.done (r : Req) : Bool := r.data != .no && r.grant.isSome

/-- A complete request ends: its line enters the L1, unless an Inv has come meanwhile. -/
def completeReq (s : State) (cl : Nat) (r : Req) : State :=
  let pa := r.pa.toNat
  let s := s.modCluster cl fun x => { x with reqs := x.reqs.filter (· != r) }
  let s := match r.gone, r.grant with
    | false, some st =>
      let d := if r.excl then copiesDirty s cl pa ||| r.dirty else 0
      l1Fill (if r.excl then dropCopies s cl pa else s) r.core pa st d (r.excl && r.atomic)
    | _, _ => s
  if r.more then sendReq s cl pa true r.core r.atomic r.dirty else s

def modReq (s : State) (cl : Nat) (r r' : Req) : State :=
  s.modCluster cl fun x => { x with reqs := x.reqs.map fun y => if y = r then r' else y }

/-- Sectors of lines that an engine has written are invalid in every L1 (R89), and no write-back buffer writes them; a line of
which none is left is invalid, unless an atomic's ownership of it is held (R20). -/
def dropSectors (s : State) (pa : Nat) (secs : BitVec 4) : State :=
  let it (w : WbLine) : Bool := lineOf w.pa.toNat == lineOf pa
  let s := if s.clusters.any fun k => k.2.wbuf.any it then s.mapClusters fun _ x => { x with
      wbuf := x.wbuf.map fun w => if it w then { w with dirty := w.dirty &&& ~~~secs } else w } else s
  if s.cores.any fun k => (tget k.2.l1 (pa / 256) .none).st != .i then
    s.cores.foldl (fun s k =>
      let l := l1At s k.1 pa
      if l.st = .i then s
      else
        let v := l.valid &&& ~~~secs
        putL1 s k.1 pa { l with
          valid := v
          dirty := l.dirty &&& ~~~secs
          st := if v = 0 ∧ l.hold = 0 then .i else l.st }) s
  else s

end Sys2Proof.Machine
end

