-- ==== Sys2Proof/Machine/Sfu.lean ====
section
/-!
DEFINITION. Sfu.lean: the special-function unit (R225 to R228): node tables, interpolation, and the cases that
interpolation does not cover. A node is the function at a seam, rounded to nearest, in units of 2^-32.
-/
namespace Sys2Proof.Machine

def exp2Nodes : List Int :=
  [4294967296, 4389014833, 4485121744, 4583333121, 4683695048, 4786254615, 4891059943, 4998160210, 5107605667, 5219447668, 5333738689, 5450532358, 5569883475, 5691848042, 5816483285, 5943847684] ++
  [6074001000, 6207004303, 6342919999, 6481811861, 6623745059, 6768786189, 6917003306, 7068465956, 7223245206, 7381413680, 7543045592, 7708216783, 7877004752, 8049488696, 8225749546, 8405870007] ++
  [8589934592]

def log2Nodes : List Int :=
  [0, 190671291, 375650043, 555266330, 729822324, 899595355, 1064840562, 1225793196, 1382670639, 1535674166, 1684990500, 1830793181, 1973243777, 2112492963, 2248681479, 2381940981] ++
  [2512394810, 2640158677, 2765341278, 2888044853, 3008365682, 3126394546, 3242217134, 3355914416, 3467562987, 3577235372, 3685000315, 3790923031, 3895065449, 3997486426, 4098241947, 4197385310] ++
  [4294967296]

def rcpNodes : List Int :=
  [4294967296, 4164816772, 4042322161, 3926827242, 3817748708, 3714566310, 3616814565, 3524075730, 3435973837, 3352169597, 3272356035, 3196254732, 3123612579, 3054198966, 2987803336, 2924233053] ++
  [2863311531, 2804876601, 2748779069, 2694881441, 2643056798, 2593187801, 2545165805, 2498890063, 2454267026, 2411209710, 2369637129, 2329473788, 2290649225, 2253097598, 2216757314, 2181570690] ++
  [2147483648]

def rsqNodes : List Int :=
  [4294967296, 4197710145, 4106774231, 4021503196, 3941332297, 3865772592, 3794398344, 3726836887, 3662760417, 3601879272, 3543936417, 3488702859, 3435973837, 3385565620, 3337312811, 3291066056] ++
  [3246690101, 3204062124, 3163070302, 3123612579, 3085595594, 3048933750, 3013548408, 2979367169, 2946323258, 2914354971, 2883405191, 2853420960, 2824353096, 2796155853, 2768786621, 2742205655] ++
  [2716375826, 2691262414, 2666832900, 2643056798, 2619905489, 2597352081, 2575371273, 2553939240, 2533033519, 2512632917, 2492717415, 2473268087, 2454267026, 2435697274, 2417542755, 2399788223] ++
  [2382419202, 2365421939, 2348783360, 2332491025, 2316533088, 2300898266, 2285575798, 2270555422, 2255827340, 2241382192, 2227211035, 2213305315, 2199656848, 2186257798, 2173100661, 2160178243] ++
  [2147483648]

def sigNodes : List Int :=
  [1440318, 1849229, 2374166, 3048011, 3912935, 5023008, 6447529, 8275262, 10619836, 13626569, 17481108, 22420269, 28745576, 36840019, 47188559, 60402818] ++
  [77250184, 98687052, 125895072, 160317760, 203692574, 258070197, 325808402, 409522833, 511972652, 635857874, 783511659, 956489813, 1155094609, 1377916995, 1621524825, 1880437610] ++
  [2147483648, 2414529686, 2673442471, 2917050301, 3139872687, 3338477483, 3511455637, 3659109422, 3782994644, 3885444463, 3969158894, 4036897099, 4091274722, 4134649536, 4169072224, 4196280244] ++
  [4217717112, 4234564478, 4247778737, 4258127277, 4266221720, 4272547027, 4277486188, 4281340727, 4284347460, 4286692034, 4288519767, 4289944288, 4291054361, 4291919285, 4292593130, 4293118067] ++
  [4293526978]

def tanhNodes : List Int :=
  [-4294966329, -4294965702, -4294964668, -4294962964, -4294960153, -4294955520, -4294947880, -4294935284, -4294914518, -4294880280, -4294823832, -4294730766, -4294577331, -4294324372, -4293907345, -4293219872] ++
  [-4292086660, -4290218964, -4287141426, -4282072239, -4273727625, -4260005079, -4237476144, -4200590177, -4140466929, -4043177151, -3887582147, -3643350491, -3271021993, -2727943979, -1984778077, -1051917645] ++
  [0, 1051917645, 1984778077, 2727943979, 3271021993, 3643350491, 3887582147, 4043177151, 4140466929, 4200590177, 4237476144, 4260005079, 4273727625, 4282072239, 4287141426, 4290218964] ++
  [4292086660, 4293219872, 4293907345, 4294324372, 4294577331, 4294730766, 4294823832, 4294880280, 4294914518, 4294935284, 4294947880, 4294955520, 4294960153, 4294962964, 4294964668, 4294965702] ++
  [4294966329]

def siluNodes : List Int :=
  [-11522543, -14331522, -17806246, -22098081, -27390546, -33905306, -41908937, -51720390, -63719014, -78352772, -96146096, -117706413, -143727879, -174990092, -212348517, -256711977] ++
  [-309000734, -370076446, -440632754, -521032721, -611077723, -709693043, -814521006, -921426375, -1023945303, -1112751279, -1175267488, -1195612266, -1155094609, -1033437746, -810762413, -470109403] ++
  [0, 603632421, 1336721235, 2187787726, 3139872687, 4173096854, 5267183456, 6403441489, 7565989289, 8742250041, 9922897234, 11101467021, 12273824165, 13437610991, 14591752782, 15736050914] ++
  [16870868450, 17996899031, 19115004315, 20226104564, 21331108601, 22430871891, 23526174032, 24617709180, 25706084762, 26791825210, 27875378487, 28957123942, 30037380526, 31116414815, 32194448474, 33271665022] ++
  [34348215825]

def geluNodes : List Int :=
  [0, 0, 0, 0, 0, 0, -1, -6, -25, -110, -449, -1715, -6156, -20750, -65668, -195104] ++
  [-544108, -1424060, -3496970, -8054487, -17393304, -35194461, -66675774, -118133348, -195422145, -301092345, -430402117, -567202903, -681419127, -730017800, -662579319, -430885802] ++
  [0, 642856022, 1484904329, 2491207672, 3613548169, 4801506217, 6012048827, 7215100423, 8394512447, 9545543068, 10670742466, 11775965603, 12867508584, 13950589225, 15028888566, 16104703300] ++
  [17179325076, 18253415904, 19327287164, 20401073906, 21474830324, 22548576589, 23622319679, 24696061842, 25769803751, 26843545594, 27917287423, 28991029248, 30064771072, 31138512896, 32212254720, 33285996544] ++
  [34359738368]

/-- y of R226 in units of 2^-32, from (z − z0)/h in units of 2^-24. -/
def interp (nodes : List Int) (pos : Nat) : Int :=
  let j := pos / 2 ^ 24
  let a := nodes.getD j 0
  a + (nodes.getD (j + 1) 0 - a) * ((pos % 2 ^ 24 : Nat) : Int) / (2 ^ 24 : Int)

/-- y·2^n. -/
def fixFV (y : Int) (n : Int) : FV := ofSigned false y (n - 32)

/-- The VEXP2 path for a finite argument. The scale is bounded far outside every format. -/
def exp2Path (neg : Bool) (m : Nat) (e : Int) : FV :=
  if 200 < (Nat.log2 m : Int) + e ∧ m ≠ 0 then .fin false 1 (if neg then -100000 else 100000)
  else
    let t := floorFix neg m e 29
    let n := satI (t / (2 ^ 29 : Int)) (-100000) 100000
    fixFV (interp exp2Nodes (t % (2 ^ 29 : Int)).toNat) n

inductive SfuOp where | exp2 | log2 | rcp | rsq | sig | tanh | silu | gelu
deriving DecidableEq, Repr

def sfuNodes : SfuOp → List Int
  | .exp2 => exp2Nodes | .log2 => log2Nodes | .rcp => rcpNodes | .rsq => rsqNodes
  | .sig => sigNodes | .tanh => tanhNodes | .silu => siluNodes | .gelu => geluNodes

/-- The four functions on [−8, 8), seams a quarter apart. -/
def sfuBand (op : SfuOp) (neg : Bool) (m : Nat) (e : Int) : FV :=
  fixFV (interp (sfuNodes op) (floorFix neg m e 26 + (2 ^ 29 : Int)).toNat) 0

/-- One evaluation, before the last rounding, with the cause of R227. -/
def sfuFV (op : SfuOp) (x : FV) : FV × Cause :=
  match x with
  | .nan => (.nan, 0)
  | .inf false =>
    (match op with
      | .exp2 | .log2 | .silu | .gelu => .inf false
      | .rcp | .rsq => .zero
      | .sig | .tanh => .one, 0)
  | .inf true =>
    match op with
    | .exp2 | .sig => (.zero, 0)
    | .log2 | .rsq => (.nan, cNV)
    | .rcp | .silu | .gelu => (.fin true 0 0, 0)
    | .tanh => (.fin true 1 0, 0)
  | .fin neg m e =>
    if m = 0 then
      match op with
      | .exp2 => (.one, 0)
      | .log2 => (.inf true, cDZ)
      | .rcp | .rsq => (.inf neg, cDZ)
      | .sig => (.fin false 1 (-1), 0)
      | .tanh | .silu | .gelu => (.fin neg 0 0, 0)
    else
      let ex : Int := (Nat.log2 m : Int) + e
      match op with
      | .exp2 => (exp2Path neg m e, 0)
      | .log2 =>
        if neg then (.nan, cNV)
        else
          let y := interp log2Nodes (floorFix false m (e - ex) 29 - (2 ^ 29 : Int)).toNat
          (ofSigned false (ex * (2 ^ 32 : Int) + y) (-32), 0)
      | .rcp =>
        let y := fixFV (interp rcpNodes (floorFix false m (e - ex) 29 - (2 ^ 29 : Int)).toNat) (-ex)
        (if neg then y.neg else y, 0)
      | .rsq =>
        if neg then (.nan, cNV)
        else
          let h := ex / 2
          let k := e - 2 * h
          let pos := if 0 ≤ k then (m * 2 ^ k.toNat - 1) * 2 ^ 30 / 3
                     else (m - 2 ^ (-k).toNat) * 2 ^ 30 / (3 * 2 ^ (-k).toNat)
          (fixFV (interp rsqNodes pos) (-h), 0)
      | .sig | .tanh | .silu | .gelu =>
        if !neg && decide (3 ≤ ex) then
          (match op with
            | .sig | .tanh => .one
            | _ => x, 0)
        else if neg && (decide (4 ≤ ex) || (decide (ex = 3) && decide (m ≠ 2 ^ Nat.log2 m))) then
          (match op with
            | .sig => .zero
            | .tanh => .fin true 1 0
            | _ => .fin true 0 0, 0)
        else (sfuBand op neg m e, 0)

/-- One lane of 0x38: the code and its causes. -/
def sfuLane (op : SfuOp) (f : FF) (code : Nat) : Nat × List Cause :=
  let (v, k) := sfuFV op (decodeF f code)
  let (c, k2) := encodeF f .rne v
  (c, [k, k2])

/-- log2(e) to 40 significant bits, in units of 2^-39 (R228). -/
def log2eFix : Nat := 0xb8aa3b295c

/-- e^(x − m) by the path of R228, before the last rounding. -/
def expdFV (x m : FV) : FV :=
  match x, m with
  | .nan, _ | _, .nan => .nan
  | .inf false, .inf false => .one
  | .inf true, _ => .zero
  | _, .inf false => .zero
  | .inf false, _ | _, .inf true => .inf false
  | _, _ =>
    match (addFV .rne x m.neg).1 with
    | .fin neg a e => exp2Path neg (a * log2eFix) (e - 39)
    | _ => .nan

def expdLane (f : FF) (x m : Nat) : Nat × List Cause :=
  let (c, k) := encodeF f .rne (expdFV (decodeF f x) (decodeF f m))
  (c, [k])

end Sys2Proof.Machine
end

