-- ==== Sys2Proof/Machine/Record.lean ====
section
/-!
DEFINITION. Record.lean: factor records, handle transforms, reduction entries and folding (R144 to R146, R255, R258, R259,
R264, R266, R271).
-/
namespace Sys2Proof.Machine

/-! ## Records of a slot -/

def Slot.frec (sl : Slot) (n : Nat) : FRec := tget sl.factors n .identity
def Slot.setFrec (sl : Slot) (n : Nat) (r : FRec) : Slot := { sl with factors := tput sl.factors n r }
def Slot.red (sl : Slot) (n : Nat) : Red := tget sl.reds n .free
def Slot.setRed (sl : Slot) (n : Nat) (r : Red) : Slot := { sl with reds := tput sl.reds n r }
def Slot.tid (sl : Slot) (n : Nat) : TidEnt := tget sl.tids n .invalid

/-- The record of a tile operand (R141, R255). -/
def tileRec (sl : Slot) (t : TidEnt) : FRec := if t.fv then sl.frec t.frec.toNat else .identity
def setTileRec (sl : Slot) (t : TidEnt) (r : FRec) : Slot := if t.fv then sl.setFrec t.frec.toNat r else sl

def fv64 (x : Word) : FV := decodeF .f64 x.toNat
/-- encode to FP64 under RNE (a plain result: overflow raises OF). -/
def enc64 (v : FV) : Word × Cause := let (c, k) := encodeF .f64 .rne v; (BitVec.ofNat 64 c, k)
/-- The same for a slot of a record: overflow raises FO (R271). -/
def encSlot (v : FV) : Word × Cause := let (c, k) := enc64 v; (c, if k = cOF then cFO else k)

def rsAt (r : FRec) (i : Nat) : ScaleSlot := vget r.rs i .one
def csAt (r : FRec) (i : Nat) : ScaleSlot := vget r.cs i .one
def rhAt (r : FRec) (i : Nat) : ShiftSlot := vget r.rh i .zero
def chAt (r : FRec) (i : Nat) : ShiftSlot := vget r.ch i .zero

def ScaleSlot.const (x : ScaleSlot) : Bool := !x.h0v && !x.h1v
def ShiftSlot.const (x : ShiftSlot) : Bool := !x.hv
def ShiftSlot.isId (x : ShiftSlot) : Bool := x.val == 0 && !x.hv
def ScaleSlot.isId (x : ScaleSlot) : Bool := x.coef == ScaleSlot.one.coef && x.const
/-- Whether every shift of a record is identity. -/
def FRec.noShift (r : FRec) : Bool := r.rh.toList.all ShiftSlot.isId && r.ch.toList.all ShiftSlot.isId
def FRec.isId (r : FRec) : Bool :=
  r.noShift && r.rs.toList.all ScaleSlot.isId && r.cs.toList.all ScaleSlot.isId
def FRec.const (r : FRec) : Bool :=
  r.rs.toList.all ScaleSlot.const && r.cs.toList.all ScaleSlot.const &&
  r.rh.toList.all ShiftSlot.const && r.ch.toList.all ShiftSlot.const

/-! ## Handles (R144, R145, R258) -/

def hEntry (h : Handle) : Nat := (h.extractLsb' 0 7).toNat
def hElem (h : Handle) : Nat := (h.extractLsb' 7 6).toNat
def hTr (h : Handle) : Nat := (h.extractLsb' 13 4).toNat
def mkHandle (e el tr : Nat) : Handle := BitVec.ofNat 17 (e + el * 128 + tr * 8192)

/-- 1/x, and +0 at zero. -/
def recipFV (v : FV) : FV :=
  match v with
  | .nan => .nan
  | .inf n => .fin n 0 0
  | .fin n m e => if m = 0 then .zero else quotient n 1 0 m e

/-- x/n. -/
def meanFV (v : FV) (n : Nat) : FV × Cause :=
  match v with
  | .nan => (.nan, 0)
  | v =>
    if n = 0 then (.nan, cNV)
    else match v with
      | .fin s m e => (quotient s m e n 0, 0)
      | v => (v, 0)

/-- √x. -/
def rootFV (v : FV) : FV × Cause :=
  match v with
  | .nan => (.nan, 0)
  | .inf false => (.inf false, 0)
  | .inf true => (.nan, cNV)
  | .fin n m e => if m = 0 then (v, 0) else if n then (.nan, cNV) else (sqrtFin m e, 0)

/-- (x/n + ε)^(−1/2), from the exact x + n·ε. -/
def rsqMean (v : FV) (n : Nat) (eps : FV) : FV × Cause :=
  match v, eps with
  | .nan, _ | _, .nan => (.nan, 0)
  | v, eps =>
    if n = 0 then (.nan, cNV)
    else
      match addFV .rne v (mulFV (ofInt n) eps).1 with
      | (.nan, k) => (.nan, k)
      | (.inf false, _) => (.zero, 0)
      | (.inf true, _) => (.nan, cNV)
      | (.fin s m e, _) =>
        if m = 0 then (.inf false, cDZ)
        else if s then (.nan, cNV)
        else
          -- n·2^-e / m, its leading digits, then its root; an even shift keeps the root's exponent whole
          let sh : Nat := 2 * (200 + Nat.log2 m)
          let odd := e % 2 ≠ 0
          let num := (if odd then 2 * n else n) <<< sh
          let e' := if odd then e + 1 else e
          let q := num / m
          let r := isqrt q (Nat.log2 q / 2 + 1) 0
          (.fin false (2 * r + (if r * r = q ∧ num % m = 0 then 0 else 1)) (-(e' / 2) - (sh / 2 : Nat) - 1), 0)

/-- tr(VAL) before its rounding. -/
def transform (x : Red) (tr : Nat) (v : FV) : FV × Cause :=
  match tr with
  | 0 => (v, 0)
  | 1 => (v.neg, 0)
  | 2 => (recipFV v, 0)
  | 3 => meanFV v x.n.toNat
  | 4 => rsqMean v x.n.toNat (fv64 x.eps)
  | 5 => (expFV v, 0)
  | 6 => (expFV v.neg, 0)
  | _ => rootFV v

/-- The value of a handle term: rounded once to FP64 under RNE. -/
def handleVal (x : Red) (h : Handle) : Word × List Cause :=
  let (v, k) := transform x (hTr h) (fv64 (vget x.val (hElem h) 0))
  let (c, k2) := enc64 v
  (c, [k, k2])

/-! ## Folding (R259) -/

def scaleFold1 (x : Red) (coef : Word) (h : Handle) : Word × List Cause :=
  let (t, ks) := handleVal x h
  let (p, k) := mulFV (fv64 coef) (fv64 t)
  let (c, k2) := encSlot p
  (c, ks ++ [k, k2])

/-- A scale slot with every handle on entry `n` folded. -/
def foldScale (n : Nat) (x : Red) (sc : ScaleSlot) : ScaleSlot × List Cause :=
  let a := if sc.h0v && hEntry sc.h0 == n then
      let (c, ks) := scaleFold1 x sc.coef sc.h0
      ({ sc with coef := c, h0v := false }, ks)
    else (sc, [])
  let b := if a.1.h1v && hEntry a.1.h1 == n then
      let (c, ks) := scaleFold1 x a.1.coef a.1.h1
      ({ a.1 with coef := c, h1v := false }, a.2 ++ ks)
    else a
  if !b.1.h0v && b.1.h1v then ({ b.1 with h0 := b.1.h1, h0v := true, h1v := false }, b.2) else b

def foldShift (n : Nat) (x : Red) (sc : ShiftSlot) : ShiftSlot × List Cause :=
  if sc.hv && hEntry sc.h == n then
    let (t, ks) := handleVal x sc.h
    let (p, k) := mulFV (fv64 sc.mul) (fv64 t)
    let (v, k1) := addFV .rne (fv64 sc.val) p
    let (c, k2) := encSlot v
    (⟨c, sc.h, false, 0⟩, ks ++ [k, k1, k2])
  else (sc, [])

def mapSlots {α β : Type} {n : Nat} (v : Vector α n) (f : α → α × List β) : Vector α n × List β :=
  (v.map fun x => (f x).1, v.toList.foldl (fun acc x => acc ++ (f x).2) [])

def foldRec (n : Nat) (x : Red) (r : FRec) : FRec × List Cause :=
  let a := mapSlots r.rs (foldScale n x)
  let b := mapSlots r.cs (foldScale n x)
  let c := mapSlots r.rh (foldShift n x)
  let d := mapSlots r.ch (foldShift n x)
  (⟨a.1, b.1, c.1, d.1⟩, a.2 ++ b.2 ++ c.2 ++ d.2)

/-- Folds every handle on entry `n` in every record of the slot. -/
def foldAll (sl : Slot) (n : Nat) : Slot × List Cause :=
  let x := sl.red n
  sl.factors.foldl (fun acc e =>
    let (r, ks) := foldRec n x e.2
    (acc.1.setFrec e.1 r, acc.2 ++ ks)) (sl, [])

/-- Whether a record names an entry. -/
def recNames (n : Nat) (r : FRec) : Bool :=
  (r.rs.toList ++ r.cs.toList).any (fun x => (x.h0v && hEntry x.h0 == n) || (x.h1v && hEntry x.h1 == n)) ||
  (r.rh.toList ++ r.ch.toList).any (fun x => x.hv && hEntry x.h == n)

/-! ## Logical values (R255, R271) -/

def lval (r : FRec) (i j : Nat) (x : FV) : FV × List Cause :=
  let (a, k1) := mulFV (fv64 (rsAt r i).coef) (fv64 (csAt r j).coef)
  let (b, k2) := mulFV a x
  let (c, k3) := addFV .rne b (fv64 (rhAt r i).val)
  let (d, k4) := addFV .rne c (fv64 (chAt r j).val)
  (d, [k1, k2, k3, k4])

/-! ## Reductions (R265, R266) -/

/-- The largest n with 2^n ≤ |v|, for a finite nonzero value. -/
def expOf : FV → Option Int
  | .fin _ m e => if m = 0 then none else some ((Nat.log2 m : Int) + e)
  | _ => none

/-- v·2^k. -/
def scaleFV (v : FV) (k : Int) : FV :=
  match v with
  | .fin n m e => .fin n m (e + k)
  | v => v

def sumFV (l : List FV) (init : FV) : FV × List Cause :=
  l.foldl (fun acc x => let (v, k) := addFV .rne acc.1 x; (v, acc.2 ++ [k])) (init, [])

/-- One contribution to an element of an entry. -/
def contribute (x : Red) (e : Nat) (l : List FV) : Red × List Cause :=
  let old := fv64 (vget x.val e 0)
  match x.op with
  | .sum =>
    let (v, ks) := sumFV l old
    let (c, k) := enc64 v
    ({ x with val := vset x.val e c }, ks ++ [k])
  | .max =>
    if old.isNaN || l.any FV.isNaN then
      ({ x with val := vset x.val e (BitVec.ofNat 64 FF.f64.nanCode) }, [cNV])
    else
      let (c, k) := enc64 (l.foldl (fun a b => if ltZ a b then b else a) old)
      ({ x with val := vset x.val e c }, [k])
  | .ssq =>
    if old.isNaN || l.any FV.isNaN then ({ x with val := vset x.val e (BitVec.ofNat 64 FF.f64.nanCode) }, [])
    else if old.isInf || l.any FV.isInf then ({ x with val := vset x.val e (BitVec.ofNat 64 FF.f64.infCode) }, [])
    else
      let oe := sextN (vget x.sse e 0).toNat 12
      let ec := (l.filterMap expOf).foldl max (-2048)
      let en := max oe ec
      let sq := l.map fun v => let y := scaleFV v (-en); (mulFV y y).1
      let (v, _) := sumFV sq (scaleFV old (2 * (oe - en)))
      let (c, k) := enc64 v
      ({ x with val := vset x.val e c, sse := vset x.sse e (BitVec.ofInt 12 en) }, [k])

/-- The sealed entry (R266, R267). -/
def sealRed (x : Red) : Red × List Cause :=
  match x.op with
  | .ssq =>
    let l := (List.range 64).map fun e =>
      enc64 (scaleFV (fv64 (vget x.val e 0)) (2 * sextN (vget x.sse e 0).toNat 12))
    ({ x with state := .sealed, val := .ofFn fun i => (l.getD i.val (0, 0)).1 }, l.map Prod.snd)
  | _ => ({ x with state := .sealed }, [])

/-- A newly opened entry (R264). -/
def newRed (op : ROp) (n : BitVec 32) (eps : Word) : Red :=
  ⟨.opened, op, n, eps,
   .replicate 64 (match op with | .max => BitVec.ofNat 64 (FF.f64.signBit + FF.f64.infCode) | _ => 0),
   .replicate 64 (BitVec.ofInt 12 (-2048))⟩

end Sys2Proof.Machine
end

