-- ==== Sys2Proof/Machine/Array.lean ====
section
/-!
DEFINITION. Array.lean: the matrix array: pairings and occupancies, chunk sums, the tile instructions, and the queue's
advance by one cycle (R58 to R64, R235 to R248, R250, R256, R257, R262, R263, R265 to R270, R276).
-/
namespace Sys2Proof.Machine

/-! ## Pairs (R235) -/

/-- The accumulator's format. -/
inductive AccF where | f64 | f32 | i32
deriving DecidableEq, Repr

def AccF.ff : AccF → FF
  | .f64 => .f64
  | _ => .f32
def AccF.width : AccF → Nat
  | .f64 => 64
  | _ => 32

def fltFmt (f : Nat) : Bool := decide (f ≤ 9)

/-- The accumulator of a pair, none where it takes MXPAIR. -/
def pairAcc (a b : Nat) : Option AccF :=
  let two (p q : Nat → Bool) : Bool := (p a && q b) || (p b && q a)
  if decide (13 < a) || decide (13 < b) then none
  else if two (· == 10) (fun f => f == 10 || f == 11 || f == 12) then some .i32
  else if decide (a = 11 ∨ a = 12) && decide (b = 11 ∨ b = 12) then some .i32
  else if two fltFmt (fun f => fltFmt f || f == 13 || f == 10) then (if a = 0 ∨ b = 0 then some .f64 else some .f32)
  else none

/-- W of R62. -/
def windowW (a b : Nat) : Int := if a = 0 ∨ b = 0 then 208 else if a = 1 ∨ b = 1 then 112 else 80

/-! ## Chunk sums (R61 to R63) -/

def chunkFloat (ff : FF) (w : Int) (prods : List FV) (acc : Nat) : Nat × List Cause :=
  let a := decodeF ff acc
  if prods.any FV.isNaN then (ff.nanCode, [cNV])
  else if a.isNaN then (ff.nanCode, [])
  else
    let ts := a :: prods
    let pos := ts.contains (.inf false)
    let neg := ts.contains (.inf true)
    if pos && neg then (ff.nanCode, [cNV])
    else if pos then (ff.infCode, [])
    else if neg then (ff.signBit + ff.infCode, [])
    else
      match ts.filterMap expOf with
      | [] => (if ts.all FV.isNeg then ff.signBit else 0, [])
      | e :: es =>
        let q := es.foldl max e + 6 - w + 2
        let t : Int := ts.foldl (fun s t => match t with
          | .fin n m x => s + floorFix n m (x - q) 0
          | _ => s) 0
        let (c, k) := encodeF ff .rne (ofSigned false t q)
        (c, [k])

def fvInt : FV → Int
  | .fin n m e => floorFix n m e 0
  | _ => 0

/-- An integer accumulator after a chunk: the products and the old value are summed exactly (R61, R63). DESIGN CHOICE (log 92): a
sum that block scales have made fractional is taken down to the integer below it, and a product that is not a number counts as
0 in it; such a product is invalid (R55). -/
def chunkInt (wrap : Bool) (prods : List FV) (acc : Nat) : Nat × List Cause :=
  let num (t : FV) : Bool := !t.isNaN && !t.isInf
  let v := fvInt ((prods.filter num).foldl (fun s t => (addFV .rne s t).1) (ofInt (sextN acc 32)))
  (wrapN (if wrap then v else satI v (-2 ^ 31) (2 ^ 31 - 1)) 32, if prods.any FV.isNaN then [cNV] else [])

/-! ## Operations of the queue -/

/-- The kinds of queue operations. -/
inductive MK where
  | mma | mmas | mmat | kat | aclr | accld | accst
  | texpd | tadd | tsub | tmul | tscale | trelu | tcvt | resolve | rrow | rcol | rseal | other
deriving DecidableEq, Repr

def mkOf : Instr → MK
  | .mma _ => .mma | .mmas _ => .mmas | .mmat _ => .mmat | .kat _ => .kat
  | .aclr _ => .aclr | .accld _ => .accld | .accst _ => .accst
  | .texpd _ => .texpd | .tadd _ => .tadd | .tsub _ => .tsub | .tmul _ => .tmul | .tscale _ => .tscale
  | .trelu _ => .trelu | .tcvt _ => .tcvt | .resolve _ => .resolve
  | .rrow _ => .rrow | .rcol _ => .rcol | .rseal _ => .rseal
  | _ => .other

def MOp.kind (o : MOp) : MK := mkOf o.instr
def MK.chunked : MK → Bool
  | .mma | .mmas | .mmat | .kat => true
  | _ => false

/-- The accumulator that an operation names. -/
def accNo : Instr → Nat
  | .mma o | .mmas o => o.d.toNat
  | .mmat o => o.d.toNat
  | .kat o => o.d.toNat
  | .aclr o => o.d.toNat
  | .accld o | .accst o => o.d.toNat
  | _ => 0
def wrapBit : Instr → Bool
  | .mma o | .mmas o => o.wrap
  | .mmat o => o.wrap
  | _ => false
/-- The rounding code of a tile instruction. -/
def tileRm : Instr → Rnd
  | .tadd o | .tsub o | .tmul o => o.rm
  | .tscale o => o.rm
  | .texpd o | .trelu o | .tcvt o => o.rm
  | _ => .rne

/-- Number of chunks (R236). -/
def nChunks (o : MOp) : Nat :=
  match o.kind with
  | .mma | .kat => 1
  | .mmas => 2
  | .mmat => cdiv o.k 32
  | _ => 0

/-- The end of chunk c, in cycles from the start (R243). -/
def chunkEnd (o : MOp) (c : Nat) : Nat :=
  let q := o.mA * o.mB
  let one (n : Nat) : Nat := if 32 < q then n * cdiv q 32 else cdiv n (32 / q)
  match o.kind with
  | .mmas => if c = 0 then cdiv (one 32) 2 else one 32
  | _ => one (32 * (c + 1))
def chunkStart (o : MOp) (c : Nat) : Nat := if c = 0 then 0 else chunkEnd o (c - 1)

/-- Occupancy of the chunked operations. -/
def chunkOcc (o : MOp) : Nat := chunkEnd o (nChunks o - 1)

def MOp.fa (o : MOp) : Nat := o.tA.fmt.toNat
def MOp.fb (o : MOp) : Nat := o.tB.fmt.toNat
def MOp.fd (o : MOp) : Nat := o.tD.fmt.toNat

/-! ## Scratchpad rows as the array reads and writes them -/

/-- A row, and its physical address where it is poisoned (R94). -/
def arrRead (old : State) (c x : Nat) : Row × Option Nat :=
  if x < 8192 then (old.rdRow c x, if old.poisoned (spadRow c x) then some (spadRow c x) else none) else (0, none)

def arrReads (old : State) (c x n : Nat) : List Row × Option Nat :=
  (List.range n).foldl (fun acc i =>
    let (r, p) := arrRead old c (x + i)
    (acc.1 ++ [r], if acc.2.isSome then acc.2 else p)) ([], none)

/-- Whether the segment of a slot has already saved a row (R95). -/
def journaled (k : Core) (b : Bool) (x : Nat) : Bool := k.journal.any fun e => e.1 == b && e.2.1 == x
def journalLen (k : Core) (b : Bool) : Nat := (k.journal.filter fun e => e.1 == b).length

/-- Saves the old content of a row before a slot's first write of it in the segment; nothing at supervisor level (R349). -/
def journalRow (s : State) (c : Nat) (b : Bool) (x : Nat) : State :=
  let k := s.core c
  if (k.slotOf b).sup || journaled k b x then s
  else s.modCore c fun y => { y with journal := y.journal ++ [(b, x, s.rdRow c x, s.poisoned (spadRow c x))] }

/-- A row write by the core's own slots or array (R86, R95, R147). -/
def ownWrite (s : State) (c : Nat) (b : Bool) (x : Nat) (v : Row) : State :=
  if x < 8192 then (journalRow s c b x).wrRow c x v else s

/-! ## Accumulators as lists of 64 or 128 rows -/

def loadAcc (sl : Slot) (d n : Nat) : List Row := (List.range (64 * n)).map fun i => accRow sl (d + i / 64) (i % 64)
def storeAcc (sl : Slot) (d : Nat) (rows : List Row) : Slot :=
  rows.zipIdx.foldl (fun sl e => setAccRow sl (d + e.2 / 64) (e.2 % 64) e.1) sl

def accElt (f : AccF) (rows : List Row) (i j : Nat) : Nat :=
  match f with
  | .f64 => laneN (rows.getD (if j < 32 then i else 64 + i) 0) (j % 32) 64
  | _ => laneN (rows.getD i 0) j 32

/-- The rows of a 64 × 64 result. -/
def accRows (f : AccF) (e : Nat → Nat → Nat) : List Row :=
  let part (i lo n : Nat) : Row := rowOf f.width ((List.range n).map fun j => e i (lo + j))
  match f with
  | .f64 => ((List.range 64).map fun i => part i 0 32) ++ ((List.range 64).map fun i => part i 32 32)
  | _ => (List.range 64).map fun i => part i 0 64

/-! ## One chunk (R237 to R239, R262) -/

def scaleVal (l : List Byte) (i : Nat) : FV :=
  match l[i]? with
  | none => .one
  | some b => if b = 0xFF then .nan else .fin false 1 ((b.toNat : Int) - 127)

/-- c(k) of the pre-pass. -/
def preFactor (o : MOp) (k : Nat) : FV :=
  (mulFV (fv64 (csAt o.fA (k % 64)).coef) (fv64 (rsAt o.fB (k % 64)).coef)).1

def isOne (v : FV) : Bool := cmpFV v .one == some .eq

/-- B element of step k: as read, or replaced by the pre-pass and cut again. -/
def preB (o : MOp) (k : Nat) (bits : List Bool) : FV × Cause :=
  if o.kind == .kat then (fromPlanes o.fb o.mB bits, 0)
  else
    let c := preFactor o k
    if isOne c then (fromPlanes o.fb o.mB bits, 0)
    else
      let (p, k1) := mulFV (fromPlanes o.fb (fmtM o.fb) bits) c
      let (code, k2) := encodeF (planeFF o.fb) .rne p
      (cutFV o.fb o.mB (decodeF (planeFF o.fb) code), if k1 = 0 then k2 else k1)

/-- The products of one element: `a k` and `b k` of the 32 steps of chunk c. -/
def denseProds (o : MOp) (c i j : Nat) (a b : Array FV) : List FV :=
  (List.range 32).map fun k =>
    if 32 * c + k < o.k then
      (mulFV (mulFV (a.getD (32 * i + k) .zero) (b.getD (32 * j + k) .zero)).1
        (mulFV (scaleVal o.scA (i * nChunks o + c)) (scaleVal o.scB (j * nChunks o + c))).1).1
    else .zero

/-- The terms of a sparse chunk: kept products added into their positions (R238). -/
def sparseProds (o : MOp) (h i j : Nat) (md : Row) (a b : Array FV) : List FV :=
  let m := laneN md i 32
  (List.range 16).foldl (fun acc gr =>
    let g := gr / 2
    let pos := bitsN m (4 * g + 2 * (gr % 2) + 1) (4 * g + 2 * (gr % 2))
    let p := (mulFV (mulFV (a.getD (32 * i + 16 * h + gr) .zero) (b.getD (32 * j + 4 * g + pos) .zero)).1
      (mulFV (scaleVal o.scA (i * 2 + h)) (scaleVal o.scB (j * 2 + h))).1).1
    acc.set (4 * g + pos) (addFV .rne (acc.getD (4 * g + pos) .zero) p).1) (List.replicate 32 .zero)

/-- The rows that chunk c reads: A planes, B planes, metadata (R243). -/
def chunkReads (old : State) (core : Nat) (o : MOp) (c : Nat) : List Row × Option Nat :=
  let pa := planeP o.fa
  let pb := planeP o.fb
  let a := arrReads old core (o.rowA + (if o.kind == .mmas then 0 else c * pa)) pa
  let b := arrReads old core (o.rowB + c * pb) pb
  let m := if o.kind == .mmas then
      arrReads old core (bitsN o.mdw.toNat 12 0 + (if o.mdw.getLsbD 13 then 0 else c)) 1
    else ([], none)
  (a.1 ++ b.1 ++ m.1, if a.2.isSome then a.2 else if b.2.isSome then b.2 else m.2)

/-- The accumulator after chunk c, from the rows read. -/
def chunkResult (o : MOp) (c : Nat) (src acc : List Row) : List Row × List Cause :=
  match pairAcc o.fa o.fb with
  | none => (acc, [])
  | some f =>
    let pa := planeP o.fa
    let pb := planeP o.fb
    let ra := src.take pa
    let rb := (src.drop pa).take pb
    let md := (src.drop (pa + pb)).headD 0
    let a : Array FV := ((List.range 2048).map fun t => fromPlanes o.fa o.mA (planeBits ra t)).toArray
    let bl := (List.range 2048).map fun t => preB o (32 * c + t % 32) (planeBits rb t)
    let b : Array FV := (bl.map Prod.fst).toArray
    let elt (i j : Nat) : Nat × List Cause :=
      let ps := if o.kind == .mmas then sparseProds o c i j md a b else denseProds o c i j a b
      match f with
      | .i32 => chunkInt (wrapBit o.instr) ps (accElt f acc i j)
      | _ => chunkFloat f.ff (windowW o.fa o.fb) ps (accElt f acc i j)
    -- the pre-pass serves the steps of the k range (R262)
    let pre := (bl.zipIdx.filter fun e => decide (32 * c + e.2 % 32 < o.k)).map fun e => e.1.2
    let all : Array (Nat × List Cause) := ((List.range 4096).map fun t => elt (t / 64) (t % 64)).toArray
    (accRows f fun i j => (all.getD (64 * i + j) (0, [])).1,
     ((pre ++ all.toList.foldl (fun (acc : List Cause) e => acc ++ e.2) []).filter (· ≠ 0)).eraseDups)

/-- S of R247. -/
def katSum (f : AccF) (rows : List Row) : Nat :=
  ((List.range 4096).foldl (fun s t => s + (t + 1) * accElt f rows (t / 64) (t % 64)) 0) % 2 ^ 62

/-! ## Tiles in scratchpad (R256, R257) -/

/-- The row of a tile that holds columns of half h of row i. -/
def tileRow (base fmt h i : Nat) : Nat := if fmt = 0 then base + 64 * h + i else base + i
def tileLane (fmt j : Nat) : Nat := if fmt = 0 then j % 32 else j
def tileW (fmt : Nat) : Nat := fmtWidth fmt

/-- Replaces lanes of a row. -/
def putLanes (w : Nat) (r : Row) (l : List (Nat × Nat)) : Row :=
  l.foldl (fun r e =>
    let m : Row := BitVec.ofNat 2048 ((2 ^ w - 1) <<< (w * e.1))
    (r &&& ~~~ m) ||| BitVec.ofNat 2048 ((e.2 % 2 ^ w) <<< (w * e.1))) r

/-- Rows of a tile for TCVT. -/
def cvtRows (fmt : Nat) (lay : BitVec 2) : Nat := if lay.getLsbD 0 then 2 * planeP fmt else if fmt = 0 then 128 else 64

/-- The values of a 64 × 64 tile, row-major, from its rows. -/
def cvtRead (t : TidEnt) (lay : BitVec 2) (rows : List Row) : List FV × List Cause :=
  let fmt := t.fmt.toNat
  let arr := rows.toArray
  if lay.getLsbD 0 then
    let p := planeP fmt
    ((List.range 4096).map fun e =>
      let i := e / 64
      let j := e % 64
      let k := if lay.getLsbD 1 then i else j
      let o := if lay.getLsbD 1 then j else i
      fromPlanes fmt (fmtM fmt) ((List.range p).map fun x => (arr.getD (k / 32 * p + x) 0).getLsbD (32 * o + k % 32)), [])
  else
    let w := tileW fmt
    (List.range 64).foldl (fun acc i =>
      let cs := (List.range 64).map fun j =>
        laneN (arr.getD (if fmt = 0 then 64 * (j / 32) + i else i) 0) (tileLane fmt j) w
      let (v, k) := unpackRun fmt t.xval.toNat cs
      (acc.1 ++ v, acc.2 ++ k)) ([], [])

/-- The codes of a converted tile, row-major. -/
def cvtCodes (fmt : Nat) (rm : Rnd) (vs : List FV) : List Nat × List Cause :=
  let arr := vs.toArray
  (List.range 64).foldl (fun acc i =>
    let (c, k) := packRun fmt rm ((List.range 64).map fun j => arr.getD (64 * i + j) .zero)
    (acc.1 ++ c, acc.2 ++ k)) ([], [])

/-- Row `x` of a destination tile: element-major lanes merged into `old`, or a plane row. -/
def cvtRow (t : TidEnt) (lay : BitVec 2) (codes : List Nat) (x : Nat) (old : Row) : Row :=
  let fmt := t.fmt.toNat
  let arr := codes.toArray
  if lay.getLsbD 0 then
    let p := planeP fmt
    let vals : Array FV := ((List.range 64).foldl (fun acc i =>
      acc ++ (unpackRun fmt t.xval.toNat ((List.range 64).map fun j => arr.getD (64 * i + j) 0)).1) []).toArray
    BitVec.ofNat 2048 ((List.range 2048).foldl (fun acc b =>
      let k := 32 * (x / p) + b % 32
      let o := b / 32
      let e := if lay.getLsbD 1 then 64 * k + o else 64 * o + k
      if (toPlanes fmt (vals.getD e .zero) (arr.getD e 0)).getD (x % p) false then acc + 2 ^ b else acc) 0)
  else
    let w := tileW fmt
    let h := x / 64
    let i := x % 64
    let js := if fmt = 0 then (List.range 32).map (32 * h + ·) else List.range 64
    putLanes w old (js.map fun j => (tileLane fmt j, arr.getD (64 * i + j) 0))

/-! ## Elementwise values (R263, R268, R270) -/

/-- S′ of one element before its rounding. -/
def tileVal (o : MOp) (i j : Nat) (a b : FV) : FV × List Cause :=
  let rm := tileRm o.instr
  match o.kind with
  | .tadd => let (v, k) := addFV rm a b; (v, [k])
  | .tsub => let (v, k) := addFV rm a b.neg; (v, [k])
  | .tmul =>
    if o.fA.noShift && o.fB.noShift then let (v, k) := mulFV a b; (v, [k])
    else
      let (x, k1) := lval o.fA i j a
      let (y, k2) := lval o.fB i j b
      let (v, k) := mulFV x y
      (v, k1 ++ k2 ++ [k])
  | .trelu => let (x, k) := lval o.fA i j a; (maxFV x .zero, k)
  | .resolve => lval o.fA i j a
  | _ => (a, [])

/-- x(j) of row i of TEXPD (R263). -/
def texpdVals (o : MOp) (i : Nat) (src : Row) : List FV × List Cause :=
  let x := (List.range 64).map fun j =>
    let (c, k1) := mulFV (fv64 (rsAt o.fA i).coef) (fv64 (csAt o.fA j).coef)
    let (v, k2) := mulFV c (decodeF (fmtFF o.fa) (laneN src j (tileW o.fa)))
    (v, [k1, k2])
  (x.map Prod.fst, x.foldl (fun acc e => acc ++ e.2) [])

/-- The maximum a. -/
def texpdMax (vs : List FV) : FV :=
  if vs.any FV.isNaN then .nan else vs.foldl (fun m v => if ltZ m v then v else m) (.inf true)

/-- The row of TEXPD: its codes. -/
def texpdRow (o : MOp) (i : Nat) (src : Row) : List Nat × List Cause :=
  let (vs, ks) := texpdVals o i src
  let a := texpdMax vs
  let out := vs.map fun v => encodeF (fmtFF o.fd) (tileRm o.instr) (expdFV v a)
  (out.map Prod.fst, ks ++ (if a.isNaN then [cNV] else []) ++ out.map Prod.snd)

/-! ## One cycle of the operation at the head -/

/-- The rows that cycle r reads. -/
def opReads (old : State) (core : Nat) (o : MOp) (r : Nat) : List Row × Option Nat :=
  let h := r / 64
  let i := r % 64
  let one (base fmt : Nat) : Row × Option Nat := arrRead old core (tileRow base fmt h i)
  match o.kind with
  | .accld => let (x, p) := arrRead old core (o.rowA + r); ([x], p)
  | .tadd | .tsub | .tmul =>
    let a := one o.rowA o.fa
    let b := one o.rowB o.fb
    ([a.1, b.1], if a.2.isSome then a.2 else b.2)
  | .tscale | .trelu | .resolve | .rrow | .rcol => let a := one o.rowA o.fa; ([a.1], a.2)
  | .texpd => if r % 4 = 0 then let (x, p) := arrRead old core (o.rowA + r / 4); ([x], p) else ([], none)
  | .tcvt => if r < cvtRows o.fa o.layS then let (x, p) := arrRead old core (o.rowA + r); ([x], p) else ([], none)
  | _ => ([], none)

/-- The row that cycle r writes. -/
def opWrites (o : MOp) (r : Nat) : Option Nat :=
  let h := r / 64
  let i := r % 64
  match o.kind with
  | .accst => if r = 0 then none else some (o.rowA + r - 1)
  | .tadd | .tsub | .tmul | .tscale | .trelu => some (tileRow o.rowD o.fd h i)
  | .resolve => some (tileRow o.rowA o.fa h i)
  | .texpd => if r % 4 = 3 then some (o.rowD + r / 4) else none
  | .tcvt => let n := cvtRows o.fa o.layS; if n ≤ r then some (o.rowD + r - n) else none
  | _ => none

/-- The content written, over the row as it stands, and the causes. DESIGN CHOICE (log 99): TCVT, which writes its result over
many rows, records the causes of the whole tile in the cycle of its first row. -/
def opRow (o : MOp) (r : Nat) (src : List Row) (old : Row) : Row × List Cause :=
  let h := r / 64
  let i := r % 64
  match o.kind with
  | .accst => (o.acc.getD (r - 1) 0, [])
  | .texpd =>
    let (cs, ks) := texpdRow o (r / 4) (src.getD (r / 4) 0)
    (putLanes (tileW o.fd) old (cs.zipIdx.map fun e => (e.2, e.1)), ks)
  | .tcvt =>
    let (vs, k1) := cvtRead o.tA o.layS src
    let (cs, k2) := cvtCodes o.fd (tileRm o.instr) vs
    (cvtRow o.tD o.layD cs (r - cvtRows o.fa o.layS) old, if r = cvtRows o.fa o.layS then k1 ++ k2 else [])
  | _ =>
    let fd := if o.kind == .resolve then o.fa else o.fd
    let js := if o.occ = 128 then (List.range 32).map (32 * h + ·) else List.range 64
    let a (j : Nat) : FV := decodeF (fmtFF o.fa) (laneN (src.getD 0 0) (tileLane o.fa j) (tileW o.fa))
    let b (j : Nat) : FV := decodeF (fmtFF o.fb) (laneN (src.getD 1 0) (tileLane o.fb j) (tileW o.fb))
    let out := js.map fun j =>
      let (v, k) := tileVal o i j (a j) (b j)
      let (c, k2) := encodeF (fmtFF fd) (tileRm o.instr) v
      ((tileLane fd j, c), k ++ [k2])
    (putLanes (tileW fd) old (out.map Prod.fst), out.foldl (fun acc e => acc ++ e.2) [])

/-- A cause joins those that the records take at the end of the cycle. -/
def noteCause (sl : Slot) (place : Nat) (pos : BitVec 3) (baddr : Addr) (ks : List Cause) : Slot :=
  if ks.any (· != 0) then { sl with lcause := sl.lcause ++ [(place, pos, baddr, ks)] } else sl

/-- The records of a slot take the causes of the cycle, those of earlier bundles first (R77). -/
def takeCauses (sl : Slot) : Slot :=
  if sl.lcause.isEmpty then sl
  else
    let ins (l : List (Nat × BitVec 3 × Addr × List Nat)) (e : Nat × BitVec 3 × Addr × List Nat) :=
      (l.takeWhile fun x => decide (x.1 ≤ e.1)) ++ e :: l.dropWhile fun x => decide (x.1 ≤ e.1)
    (sl.lcause.foldl ins []).foldl (fun sl e => stickyAt sl e.2.1 e.2.2.1 e.2.2.2) { sl with lcause := [] }

/-- The end of a cycle for the records of both slots. -/
def endCauses (k : Core) : Core :=
  if k.slot0.lcause.isEmpty && k.slot1.lcause.isEmpty then k
  else { k with slot0 := takeCauses k.slot0, slot1 := takeCauses k.slot1 }

/-- An operation of the array comes before an access that issues after it. -/
def opSticky (s : State) (core : Nat) (o : MOp) (ks : List Cause) : State :=
  s.modCore core fun k => k.setSlotOf o.slot (noteCause (k.slotOf o.slot) (2 * o.seq) o.pos o.baddr ks)

def modSlotOf (s : State) (c : Nat) (b : Bool) (f : Slot → Slot) : State :=
  s.modCore c fun k => k.setSlotOf b (f (k.slotOf b))

/-- The entry after a reduction over the rows read (R265). -/
def reduceRows (o : MOp) (sl : Slot) : Slot × List Cause :=
  let n := o.bval.toNat
  let arr := o.src.toArray
  let w := tileW o.fa
  let val (i j : Nat) : FV × List Cause :=
    lval o.fA i j (decodeF (fmtFF o.fa) (laneN (arr.getD (if o.fa = 0 then 64 * (j / 32) + i else i) 0) (tileLane o.fa j) w))
  let (x, ks) := (List.range 64).foldl (fun (acc : Red × List Cause) e =>
    let l : List (FV × List Cause) := (List.range 64).map fun t => if o.kind == .rrow then val e t else val t e
    let (x, k) := contribute acc.1 e (l.map Prod.fst)
    (x, acc.2 ++ l.foldl (fun a y => a ++ y.2) [] ++ k)) (sl.red n, [])
  (sl.setRed n x, ks)

/-- What the end of an occupancy does: the reductions and KAT act, and the other writes are due the given number of cycles
after this one, its last (R242, R245, R247, R248). -/
def opFinish (s : State) (core : Nat) (o : MOp) : State :=
  let due (n : Nat) (o : MOp) : State := s.modCore core fun k => { k with mdue := k.mdue ++ [(n, o)] }
  match o.kind with
  | .mma | .mmas | .mmat => due 7 o
  | .aclr => due 1 { o with acc := List.replicate 64 0 }
  | .accld => due 3 { o with
      acc := o.src
      src := [] }
  | .accst => due 1 o
  | .kat =>
    match o.instr with
    | .kat x =>
      let sum := katSum ((pairAcc o.fa o.fb).getD .f32) o.acc
      let s := opSticky (s.modCore core fun k => countEvt k 10 1) core o o.causes
      if sum = immNat [x.w0, x.w1] then s
      else
        let s := s.recordC core 1 3 5 (coreMaster core) 0x40 o.bpa (BitVec.ofNat 64 sum)
        if (s.core core).ayctl.getLsbD 0 then s.modCore core fun k => { k with assay := k.assay ++ [(7, o.baddr)] } else s
    | _ => s
  | .rrow | .rcol =>
    let (sl, ks) := reduceRows o ((s.core core).slotOf o.slot)
    opSticky (modSlotOf s core o.slot fun _ => sl) core o ks
  | .rseal =>
    let sl := (s.core core).slotOf o.slot
    let n := o.bval.toNat
    let (x, k1) := sealRed (sl.red n)
    let (sl, k2) := foldAll (sl.setRed n x) n
    opSticky (modSlotOf s core o.slot fun _ => sl) core o (k1 ++ k2)
  | _ => s

/-- The chunks that begin or end in relative cycle r. -/
def chunkCycle (old : State) (core : Nat) : Nat → MOp → Nat → MOp × Option Nat
  | 0, o, _ => (o, none)
  | n + 1, o, r =>
    if nChunks o ≤ o.next then (o, none)
    else
      let c := o.next
      let starts := chunkStart o c = r ∨ (chunkStart o c = r + 1 ∧ chunkEnd o c = r + 1)
      let (o, bad) := if starts then
          let (rows, p) := chunkReads old core o c
          ({ o with src := rows }, p)
        else (o, none)
      if bad.isSome then (o, bad)
      else if chunkEnd o c = r + 1 then
        let (acc, ks) := chunkResult o c o.src o.acc
        chunkCycle old core n { o with acc := acc, next := c + 1, src := [], causes := o.causes ++ ks } r
      else (o, none)

/-- One cycle of a running operation: the state, the operation (none once its occupancy has ended), the poisoned address
read, and whether it had to wait for a full journal. -/
structure HeadRes where
  s : State
  op : Option MOp
  bad : Option Nat
  waits : Bool

def journalWaits (s : State) (core : Nat) (o : MOp) (x : Nat) : Bool :=
  let k := s.core core
  !(k.slotOf o.slot).sup && o.follow.isNone && !journaled k o.slot x && decide (128 ≤ journalLen k o.slot)

/-- Whether an operation writes all 2048 bits of its rows (R256): else a row keeps its poison (R94). -/
def opWhole (o : MOp) : Bool :=
  let full (fmt : Nat) : Bool := fmt == 0 || fmtWidth fmt == 32
  match o.kind with
  | .accst => true
  | .tcvt => o.layD.getLsbD 0 || full o.fd
  | .resolve => full o.fa
  | _ => full o.fd

/-- A row write of the queue: journaled unless it is a follow-on's (R356). -/
def queueWrite (s : State) (core : Nat) (o : MOp) (x : Nat) (v : Row) : State :=
  if 8192 ≤ x then s
  else
    let bad := s.poisoned (spadRow core x) && !opWhole o
    let s := if o.follow.isSome then s.wrRow core x v else ownWrite s core o.slot x v
    if bad then s.taint (spadRow core x) else s

def headCycle (force : Bool) (old s : State) (core : Nat) (o : MOp) (r : Nat) : HeadRes :=
  let w := opWrites o r
  if !force && w.any (journalWaits s core o) then ⟨s, some o, none, true⟩
  else
    let (o, bad) := if o.kind.chunked then chunkCycle old core 2 o r
      else
        let (rows, p) := opReads old core o r
        ({ o with src := if o.kind == .texpd || o.kind == .tcvt || o.kind == .rrow || o.kind == .rcol || o.kind == .accld
                         then o.src ++ rows else rows }, p)
    if bad.isSome then ⟨s, some o, bad, false⟩
    else
      let s := match w with
        | none => s
        | some x =>
          let (v, ks) := opRow o r o.src (s.rdRow core x)
          opSticky (queueWrite s core o x v) core o ks
      if r + 1 = o.occ then ⟨opFinish s core o, none, none, false⟩ else ⟨s, some { o with run := some (r + 1) }, none, false⟩

/-- The accumulator rows that an operation of an ended occupancy has still to store. -/
def accOut (o : MOp) : List Row :=
  match o.kind with
  | .mma | .mmas | .mmat | .aclr | .accld => o.acc
  | _ => []

def storeOut (sl : Slot) (o : MOp) : Slot := storeAcc sl (accNo o.instr) (accOut o)

/-- Whether two writes still to be made meet in an accumulator. -/
def accMeet (o p : MOp) : Bool :=
  o.slot == p.slot && decide (accNo o.instr < accNo p.instr + (accOut p).length / 64) &&
  decide (accNo p.instr < accNo o.instr + (accOut o).length / 64)

/-- The accumulator rows an operation takes when it starts or starts again: as the operations before it in the queue leave
them, whatever their timing (R242). -/
def startOp (s : State) (core : Nat) (o : MOp) : MOp :=
  let sl := ((s.core core).mdue.filter fun e => e.2.slot == o.slot).foldl (fun sl e => storeOut sl e.2)
    ((s.core core).slotOf o.slot)
  let n := if o.kind.chunked && (pairAcc o.fa o.fb) == some .f64 then 2 else 1
  let acc := if o.kind.chunked || o.kind == .accst then loadAcc sl (accNo o.instr) n else []
  { o with run := some (if o.kind.chunked then chunkStart o o.next else 0), acc := acc }

/-- Whether a command waits for a follow-on. -/
def awaits (o : MOp) (c : Cmd) : Bool := c.st == .follow && c.id == o.fid

/-- The command whose follow-on has made its write is complete (R250); `bad` where it has been dropped for poison. -/
def followDone (s : State) (core : Nat) (o : MOp) (bad : Bool) : State :=
  match o.follow with
  | none => s
  | some n => s.modCore core fun k =>
    let ch := vget k.chans n.val ⟨[], false⟩
    match ch.q with
    | c :: r => if awaits o c then { k with chans := vset k.chans n.val ⟨r, ch.fault || bad⟩ } else k
    | [] => k

/-- A write that was due some cycles after an occupancy ended. The writes still due are those of earlier operations: where
one meets this accumulator it is made first, so that the queue's order stands. -/
def dueWrite (s : State) (core : Nat) (o : MOp) : State :=
  let s := match o.kind with
    | .accst => queueWrite s core o (o.rowA + 63) (o.acc.getD 63 0)
    | _ =>
      let s := s.modCore core fun k =>
        let sl := (k.mdue.filter fun e => accMeet e.2 o).foldl (fun sl e => storeOut sl e.2) (k.slotOf o.slot)
        { (k.setSlotOf o.slot (storeOut sl o)) with
          mdue := k.mdue.map fun e => if accMeet e.2 o then (e.1, { e.2 with acc := [] }) else e }
      opSticky s core o o.causes
  followDone s core o false

/-- Whether an operation advances in this cycle: a follow-on always, another in the issued cycles of its slot (R244). -/
def opAdvances (issued : Option Bool) (o : MOp) : Bool := o.follow.isSome || issued == some o.slot

/-- One cycle of the array. `old` is the state whose rows the cycle reads; `issued` the slot whose issued cycle it is. The
second part is the address of a poisoned row that was read. -/
def arrayCycle (old s : State) (core : Nat) (issued : Option Bool) : State × Option Nat :=
  -- writes due
  let due := (s.core core).mdue
  let s := due.foldl (fun s e =>
    if opAdvances issued e.2 then
      if e.1 ≤ 1 then
        if e.2.kind == .accst && journalWaits s core e.2 (e.2.rowA + 63) then
          s.modCore core fun k => { k with mdue := k.mdue ++ [(1, e.2)], jfull := true }
        else dueWrite s core e.2
      else s.modCore core fun k => { k with mdue := k.mdue ++ [(e.1 - 1, e.2)] }
    else s.modCore core fun k => { k with mdue := k.mdue ++ [e] })
    (s.modCore core fun k => { k with mdue := [] })
  let tickWait (q : List MOp) : List MOp := q.map fun o => if opAdvances issued o then { o with wait := o.wait - 1 } else o
  match (s.core core).mq with
  | [] => (s, none)
  | o :: rest =>
    if !opAdvances issued o then (s.modCore core fun k => { k with mq := o :: tickWait rest }, none)
    else
      match o.run with
      | none =>
        if o.wait = 0 then
          let o := startOp s core o
          let x := headCycle false old s core o (o.run.getD 0)
          let q := match x.op with
            | some o => o :: tickWait rest
            | none => tickWait rest
          (x.s.modCore core fun k => { k with mq := q, jfull := k.jfull || x.waits }, x.bad)
        else (s.modCore core fun k => { k with mq := tickWait (o :: rest) }, none)
      | some r =>
        if o.wait ≠ 0 then (s.modCore core fun k => { k with mq := tickWait (o :: rest) }, none)
        else
        let x := headCycle false old s core o r
        let q := match x.op with
          | some o => o :: tickWait rest
          | none => tickWait rest
        (x.s.modCore core fun k => { k with mq := q, jfull := k.jfull || x.waits }, x.bad)

/-! ## What stops and what runs on (R251, R252) -/

/-- Runs the head in wall cycles to its end, or MMAT and MMAS to their next chunk end. -/
def drainHead (core : Nat) : Nat → State → State × Option Nat
  | 0, s => (s, none)
  | n + 1, s =>
    match (s.core core).mq with
    | [] => (s, none)
    | o :: rest =>
      match o.run with
      | none => (s, none)
      | some r =>
        if (o.kind == .mmat || o.kind == .mmas) && o.follow.isNone && r == chunkStart o o.next then (s, none)
        else
          let x := headCycle true s s core o r
          match x.bad with
          | some p => (x.s.modCore core fun k => { k with mq := o :: rest }, some p)
          | none =>
            drainHead core n (x.s.modCore core fun k =>
              { k with mq := match x.op with
                  | some o => o :: rest
                  | none => rest })

/-- Every write still due is made. -/
def flushDue (s : State) (core : Nat) : State :=
  let due := (s.core core).mdue
  due.foldl (fun s e => dueWrite s core e.2) (s.modCore core fun k => { k with mdue := [] })

/-- More cycles than the queue can take. -/
def queueCycles (k : Core) : Nat := k.mq.foldl (fun n o => n + o.occ + 1) 1

/-- Runs the operations of a slot to completion (R206, R313). -/
def drainAll (core : Nat) (b : Bool) : Nat → State → State × Option Nat
  | 0, s => (s, none)
  | n + 1, s =>
    match (s.core core).mq with
    | [] => (flushDue s core, none)
    | o :: rest =>
      let o := match o.run with
        | none => startOp s core o
        | some _ => o
      let x := headCycle true s s core o (o.run.getD 0)
      match x.bad with
      | some p => (x.s.modCore core fun k => { k with mq := o :: rest }, some p)
      | none =>
        drainAll core b n (x.s.modCore core fun k =>
          { k with mq := match x.op with
              | some o => o :: rest
              | none => rest })

/-! ## Operations rebuilt from a frame (R252, R277) -/

/-- An operation of which nothing is known but its instruction. -/
def emptyOp (i : Instr) (word : SlotWord) : MOp where
  instr := i
  word := word
  follow := none
  fid := 0
  slot := false
  seq := 0
  pos := 0
  baddr := 0
  bpa := 0
  wait := 1
  run := none
  next := 0
  occ := 0
  rowA := 0
  rowB := 0
  rowD := 0
  layS := 0
  layD := 0
  bval := 0
  mdw := 0
  mA := 0
  mB := 0
  k := 0
  tA := .invalid
  tB := .invalid
  tD := .invalid
  fA := .identity
  fB := .identity
  scA := []
  scB := []
  acc := []
  src := []
  causes := []

/-- The instruction that a record's slot word and parameter words encode. -/
def decodeOp (word : SlotWord) (w0 w1 : Nat) : Option Instr :=
  let p (n : Nat) : Imm31 := BitVec.ofNat 31 n
  let first : List Imm31 := if wOp word = 0x48 ∧ w0 ≠ 0 then [p w0] else []
  [first, [p w0], [p w0, p w1]].findSome? fun l => match decodeSlot word l with
    | .ok i => if mkOf i == .other then none else some i
    | .error _ => none

/-- The tensor identifiers that an operation names: its sources and its target. -/
def opTiles : Instr → Option (BitVec 6) × Option (BitVec 6) × Option (BitVec 6)
  | .mma o | .mmas o => (some o.ta, some o.tb, none)
  | .mmat o => (some o.ta, some o.tb, none)
  | .kat o => (some o.ta, some o.tb, none)
  | .tadd o | .tsub o | .tmul o => (some o.ta, some o.tb, some o.td)
  | .tscale o => (some o.ta, none, some o.td)
  | .texpd o | .trelu o | .tcvt o => (some o.ta, none, some o.td)
  | .rrow o | .rcol o => (some o.ta, none, none)
  | .resolve o => (some o.t, none, none)
  | _ => (none, none, none)

/-- The tiles that the instruction names, as the table holds them; `recs` takes their records too. -/
def nameTiles (sl : Slot) (o : MOp) (recs : Bool) : MOp :=
  let t (x : Option (BitVec 6)) : TidEnt := (x.map fun i => sl.tid i.toNat).getD .invalid
  let (a, b, d) := opTiles o.instr
  let o := { o with
    tA := t a
    tB := t b
    tD := t d }
  if recs && o.kind != .kat then { o with
    fA := tileRec sl o.tA
    fB := tileRec sl o.tB } else o

/-- What the parameter words of a record say. -/
def frameWords (o : MOp) (w0 w1 : Nat) : MOp :=
  let prec (x : Nat) (t : TidEnt) : Nat := if x = 0 then fmtM t.fmt.toNat else x
  match o.instr with
  | .mma x =>
    let (a, b) := match x.prec with
      | some (a, b) => (a.toNat, b.toNat)
      | none => (0, 0)
    { o with
      k := 32
      mA := prec a o.tA
      mB := prec b o.tB }
  -- the metadata word takes the place of the precision word, which the operation keeps
  | .mmas _ => { o with
    k := 64
    mdw := BitVec.ofNat 32 w0
    mA := prec o.mA o.tA
    mB := prec o.mB o.tB }
  | .mmat x => { o with
    k := x.k1.toNat + 1
    mA := prec x.mA.toNat o.tA
    mB := prec x.mB.toNat o.tB }
  | .kat _ => { o with
    k := 32
    mA := fmtM o.fa
    mB := fmtM o.fb }
  | .aclr _ | .accld _ | .accst _ => o
  | _ => { o with
    bval := BitVec.ofNat 64 (o.bval.toNat / 2 ^ 32 * 2 ^ 32 + w0)
    rowD := w1 % 8192
    layD := BitVec.ofNat 2 (bitsN w1 17 16)
    layS := BitVec.ofNat 2 (bitsN w1 19 18) }

/-- The occupancy of an operation (R243, R245, R276). -/
def opOcc (o : MOp) : Nat :=
  match o.kind with
  | .mma | .mmas | .mmat | .kat => chunkOcc o
  | .aclr => 1
  | .accld | .accst => 64
  | .texpd => 256
  | .tcvt => cvtRows o.fa o.layS + cvtRows o.fd o.layD
  | .rseal => 2
  | _ =>
    let (a, b, d) := opTiles o.instr
    if (a.isSome && o.fa == 0) || (b.isSome && o.fb == 0) || (d.isSome && o.fd == 0) then 128 else 64

/-- Rows that a row operation has written so far: the next row it will write (R356). -/
def rowsDone (o : MOp) : Nat := ((List.range (o.run.getD 0)).filter fun r => (opWrites o r).isSome).length

/-- The continuation that a checkpoint keeps of an operation (R356). -/
def shadowOp (o : MOp) : MOp := if o.kind.chunked then o else { o with next := rowsDone o }

/-- The distances from now at which the operations start their next chunks, in the stall-free schedule (R252). -/
def nextStarts : Nat → List MOp → List Nat
  | _, [] => []
  | t, o :: r =>
    match o.run with
    | some k =>
      (if o.kind.chunked ∧ k ≠ chunkStart o o.next then o.wait + chunkEnd o o.next - k else o.wait) ::
        nextStarts (max t (o.wait + o.occ - k)) r
    | none =>
      let st := max t o.wait
      st :: nextStarts (st + o.occ - (if o.kind.chunked then chunkStart o o.next else 0)) r

end Sys2Proof.Machine
end

