-- ==== Sys2Proof/Machine/Land.lean ====
section
/-!
DEFINITION. Land.lean: the landing of results in an issued cycle (R34, R70 to R74, R347), and what trap entry leaves of a core's
array and of its results (R196, R251, R252, R342).
-/
namespace Sys2Proof.Machine

/-! ## Landing (R34, R70 to R73, R347) -/

/-- The accesses that return a value: while it is late they freeze the core; a store never does (R16, R89). -/
def AKind.returns : AKind → Bool
  | .ldg | .ldgs | .atomic | .marm => true
  | _ => false

def AKind.isStore (k : AKind) : Bool := k == .stg || k == .stgs

/-- A result that is due and not back. -/
def InFl.awaited (e : InFl) : Bool :=
  e.delay == 0 && (e.remote || e.acc.any fun a => a.late || (a.st == .pending && a.kind.returns && !(e.file == .none && e.nl)))

/-- Results that can land: due, and not an access still outstanding, late or faulted. -/
def InFl.ready (e : InFl) : Bool :=
  e.delay == 0 && !e.remote && (match e.acc with
    | none => true
    | some a => a.st == .done && !a.late)

/-- A result whose value has come back. -/
def InFl.back (e : InFl) : InFl :=
  { e with
    remote := false
    acc := e.acc.map fun (a : Acc) => { a with late := false } }

/-- Two results for one register; a predicate or a mask has a number of three bits. -/
def InFl.sameDst (e f : InFl) : Bool :=
  e.file == f.file && match e.file with
    | .scalar | .vector => e.reg == f.reg
    | .pred | .mask => (e.reg.setWidth 3 : BitVec 3) == f.reg.setWidth 3
    | .none => false

/-- The row that a vector result leaves in its register (R178, R347). -/
def InFl.row (sl : Slot) (e : InFl) : Row :=
  match e.file with
  | .vector => mergeRow e.lmask e.value (vReg sl e.reg)
  | .none => if e.group == .bs then e.value else mergeRow e.lmask e.value (vReg sl e.reg)
  | _ => e.value

/-- AFADD records its cause in the cycle in which its result lands, after an operation of the array that issued before it
(R55, R77). -/
def landCause (sl : Slot) (e : InFl) : Slot :=
  noteCause sl (match e.acc with
    | some a => 2 * a.seq + 1
    | none => 0) e.spos e.baddr [e.cause.toNat]

/-- Writes one landing result to its register, and records its cause. -/
def landReg (sl : Slot) (e : InFl) : Slot :=
  let sl := match e.file with
    | .scalar => setS sl e.reg (e.value.setWidth 64)
    | .vector => setV sl e.reg (e.row sl)
    | .pred => setP sl (e.reg.setWidth 3) (e.value.getLsbD 0)
    | .mask => setM sl (e.reg.setWidth 3) (e.value.setWidth 128)
    | .none => sl
  landCause sl e

/-- Lands a list in issue order: the later of two for one register is the one written (R71). -/
def landList (sl : Slot) : List InFl → Slot
  | [] => sl
  | e :: r => landList (if r.any e.sameDst then landCause sl e else landReg sl e) r

/-- What a group's youngest latch receives: the result R71 would write (R73). -/
def latchIn (sl : Slot) (g : Lat) (l : List InFl) : Option Row :=
  ((l.filter fun e => !e.nl && e.group == g).getLast?).map fun e => e.row sl

def setLatch0 (v : Vector Row 4) (x : Option Row) : Vector Row 4 :=
  match x with
  | some r => vset v 0 r
  | none => v

/-- Lands every ready result of the running slot, in order of issue (R71, R73): while one that is due is not back the core
is frozen, and nothing lands. -/
def landReady (k : Core) : Core :=
  let due := k.inflight.filter InFl.ready
  if due.isEmpty || k.inflight.any InFl.awaited then k
  else
    let sl := k.slot
    let k := { k with
      inflight := k.inflight.filter fun e => !e.ready
      bs := setLatch0 k.bs (latchIn sl .bs due)
      bv := setLatch0 k.bv (latchIn sl .bv due)
      bl := setLatch0 k.bl (latchIn sl .bl due)
      bx := setLatch0 k.bx (latchIn sl .bx due) }
    k.setSlot (landList sl due)

/-- Everything performed comes back, and what is due lands (R342). -/
def landDue (k : Core) : Core := landReady { k with inflight := k.inflight.map InFl.back }

def shiftLatch (v : Vector Row 4) : Vector Row 4 := #v[0, v[0], v[1], v[2]]

/-- What passes in an issued cycle of the running slot: delays, latches, landings, the assay's wait. -/
def issuedTick (k : Core) : Core :=
  landReady { k with
    inflight := k.inflight.map fun e => { e with delay := e.delay - 1 }
    bs := shiftLatch k.bs
    bv := shiftLatch k.bv
    bl := shiftLatch k.bl
    bx := shiftLatch k.bx
    assay := k.assay.map fun a => (a.1 - 1, a.2) }

/-! ## The array at trap entry (R251, R252) -/

/-- Operations that keep the order of issue among those of a queue. -/
def mergeOps (l q : List MOp) : List MOp :=
  l.foldl (fun q o => (q.takeWhile fun x => decide (x.seq ≤ o.seq)) ++ o :: q.dropWhile fun x => decide (x.seq ≤ o.seq)) q

/-- A follow-on that has not started goes back to the command that waits for it, if there is one (R251). -/
def toChannel (k : Core) (o : MOp) : Core :=
  { k with chans := k.chans.map fun (ch : Chan) => { ch with
      q := ch.q.map fun c => if awaits o c then { c with follow := some { o with wait := 0 } } else c } }

/-- A stopped MMAT or MMAS writes its accumulator through the last completed chunk (R251). -/
def stopWrite (s : State) (c : Nat) (b : Bool) : State :=
  match (s.core c).mq with
  | o :: rest =>
    if o.run.isSome && o.slot == b && o.follow.isNone && (o.kind == .mmat || o.kind == .mmas) then
      let s := opSticky (modSlotOf s c b fun sl => storeAcc sl (accNo o.instr) o.acc) c o o.causes
      s.modCore c fun k => { k with mq := { o with causes := [] } :: rest }
    else s
  | [] => s

/-- The array at trap entry (R251, R252): what runs ends or stops at a chunk, follow-ons not started return to their
channels, and the rest is recorded, each operation with the distance of its next chunk. -/
def stopArray (s : State) (c : Nat) (b drain : Bool) : State × List (MOp × Nat) × Option Nat :=
  let starts := (fun l => l.zip (nextStarts 0 l)) (mergeOps (s.core c).qkept (s.core c).mq)
  let (s, bad) := if drain then drainHead c (queueCycles (s.core c)) s else (s, none)
  let s := if drain then stopWrite (flushDue s c) c b else s
  let q := (s.core c).mq
  let dist (o : MOp) : Nat := ((starts.find? fun e => e.1.seq == o.seq).map Prod.snd).getD 0
  let kept := (q.filter fun o => o.slot == b && o.follow.isNone).map fun o =>
    let d := dist o
    ({ o with
      run := if drain then none else o.run
      wait := d }, d)
  let back (o : MOp) : Bool := o.follow.isSome && o.run.isNone
  let s := s.modCore c fun k =>
    (q.filter back).foldl toChannel { k with mq := q.filter fun o => (o.slot != b || o.follow.isSome) && !back o }
  (s, kept, bad)

/-- The empty cycle of R196 that comes before the trapped bundle passes first: an issued cycle. After a rollback the writes due
are those that it has re-created. -/
def spendBubble (s : State) (c : Nat) (drain : Bool) : State × Option Nat :=
  let k := s.core c
  if !k.slot.bubble then (s, none)
  else
    let s := s.modCore c fun k => { k.setSlot { k.slot with bubble := false } with mdue := if drain then k.mdue else k.dkept }
    let (s, bad) := arrayCycle s s c (some k.ctx)
    (s.modCore c fun x => issuedTick (if drain then x else { x with
      mdue := k.mdue
      dkept := x.mdue }), bad)

/-- A result of the running slot whose access is not back counts as faulted with 0x0012; an atomic that has performed stays done
(R342, R343, R350; log 84). -/
def InFl.lost (e : InFl) : InFl :=
  match e.acc with
  | some a => if a.st == .pending || (a.late && a.kind != .atomic) then { e with acc := some { a with
      st := .fault 0x0012
      late := false } } else e.back
  | none => e.back

/-- A core as trap entry would leave it for a slot, and the operations that it would record (R360). -/
def asEntered (s : State) (c : Nat) (b : Bool) : State × List (MOp × Nat) :=
  let s := s.modCore c fun k =>
    let k := if b = k.ctx then k else { clearLatches k with
      ctx := b
      inflight := (k.slotOf b).parked }
    landDue { k with inflight := k.inflight.map InFl.lost }
  let (s, kept, _) := stopArray (spendBubble s c true).1 c b true
  (s.modCore c endCauses, kept)

end Sys2Proof.Machine
end

