-- ==== Sys2Proof/Machine/Dump.lean ====
section
/-!
DEFINITION. Dump.lean: the trap frame's image (R80, R252, R344 to R346), the images of the tables of R138, and the dump of the
fatal path (R359, R360).
-/
namespace Sys2Proof.Machine

/-! ## The trap frame (R344 to R346) -/

def AKind.code : AKind → Nat
  | .ldg => 0 | .ldgs => 1 | .stg => 2 | .stgs => 3 | .atomic => 4 | .marm => 5 | .cflush => 6 | .cinv => 7

def InFl.headerN (e : InFl) : Nat :=
  let file := match e.file with
    | .scalar => 0 | .vector => 1 | .pred => 2 | .mask => 3 | .none => 4
  let grp := match e.group with
    | .bs => 0 | .bv => 1 | .bl => 2 | .bx => 3
  let base := 1 + file * 2 + e.reg.toNat * 16 + grp * 2 ^ 9 + b1 e.nl 11 + e.spos.toNat * 2 ^ 17 +
    e.delay % 2 ^ 32 * 2 ^ 32 + e.baddr.toNat * 2 ^ 64
  match e.acc with
  | some a =>
    match a.st with
    | .fault f => base + 2 ^ 12 + a.kind.code * 2 ^ 14 + a.va.toNat * 2 ^ 128 + f.toNat * 2 ^ 192 +
        (if a.kind == .atomic then a.word.toNat * 2 ^ 224 else 0)
    | _ => base
  | none => base

def InFl.valueN (e : InFl) : Nat :=
  match e.acc with
  | some a => (match a.st with
    | .fault _ => a.data.toNat
    | _ => e.value.toNat)
  | none => e.value.toNat

def InFl.maskN (e : InFl) : Nat := match e.file with
  | .vector | .none => e.lmask.toNat
  | _ => 2 ^ 128 - 1

/-- The parameter words that a continuation record keeps (R252, R277). -/
def mopWords (o : MOp) : Nat × Nat :=
  match o.instr with
  | .mma x => (match x.prec with
    | some (a, b) => a.toNat + b.toNat * 64
    | none => 0, 0)
  | .mmas _ => (o.mdw.toNat, 0)
  | .mmat x => (x.mA.toNat + x.mB.toNat * 64 + x.k1.toNat * 4096, 0)
  | .kat x => (x.w0.toNat, x.w1.toNat)
  | .aclr _ | .accld _ | .accst _ => (0, 0)
  | _ => (o.bval.toNat % 2 ^ 32, o.rowD % 8192 + b1 (o.layD.getLsbD 0) 16 + b1 (o.layD.getLsbD 1) 17 +
      b1 (o.layS.getLsbD 0) 18 + b1 (o.layS.getLsbD 1) 19)

/-- A continuation record (R252). -/
def mopRecord (o : MOp) (delay : Nat) : Nat :=
  let kind := match o.kind with
    | .mma => 0 | .mmas => 1 | .mmat => 2 | _ => 3
  let (w0, w1) := mopWords o
  1 + kind * 2 + o.pos.toNat * 8 + o.next % 256 * 2 ^ 8 + delay % 2 ^ 32 * 2 ^ 16 + o.word.toNat * 2 ^ 64 + w0 * 2 ^ 96 +
    w1 * 2 ^ 128 + o.rowA % 8192 * 2 ^ 160 + o.rowB % 8192 * 2 ^ 173 + o.baddr.toNat * 2 ^ 192

def levelN (l : Level) : Nat :=
  l.start.toNat + l.stop.toNat * 2 ^ 64 + l.count.toNat * 2 ^ 128 + l.ii.toNat * 2 ^ 160 + b1 l.kind 166

/-- Lays values at byte offsets. -/
def layout (l : List (Nat × Nat)) : Nat := l.foldl (fun acc e => acc + e.2 <<< (8 * e.1)) 0

/-- The frame as one number, its first byte lowest (R344 to R346). -/
def frameOf (k : Core) (sl : Slot) (recs : List Nat) (cause : BitVec 16) (epc tval : Word) : Nat :=
  let fl := k.inflight.take 32
  let ix {α : Type} (l : List α) (base step : Nat) (f : α → Nat) : List (Nat × Nat) :=
    l.zipIdx.map fun e => (base + step * e.2, f e.1)
  layout (
    [(0, epc.toNat), (8, tval.toNat), (16, cause.toNat), (24, (statusWord k sl).toNat), (32, sl.mpc.toNat), (48, fl.length)] ++
    ix sl.wp.toList 40 2 BitVec.toNat ++
    ix (sl.s.toList.drop 1) 0x108 8 BitVec.toNat ++
    [(0x200, bitsToNat ((List.range 8).reverse.map fun i => pReg sl (BitVec.ofNat 3 i)))] ++
    ix sl.m.toList 0x210 16 BitVec.toNat ++
    ix sl.sticky.toList 0x300 8 BitVec.toNat ++
    ix sl.loops 0x340 24 levelN ++
    ix k.bs.toList 0x400 8 (fun r => r.toNat % 2 ^ 64) ++
    ix (k.bv.toList ++ k.bl.toList ++ k.bx.toList) 0x500 256 BitVec.toNat ++
    ix sl.v.toList 0x1100 256 BitVec.toNat ++
    ix fl 0x3100 32 InFl.headerN ++
    ix fl 0x3500 256 InFl.valueN ++
    ix (recs.take 4) 0x5500 32 id ++
    ix fl 0x5600 16 InFl.maskN)

/-! ## The tables (R138, R141, R144, R146 to R156) -/

/-- Values of `w` bits each, the first lowest. -/
def packW (w : Nat) (l : List Nat) : Nat := l.foldr (fun x acc => x % 2 ^ w + acc <<< w) 0

def ScaleSlot.image (x : ScaleSlot) : Nat :=
  x.coef.toNat + x.h0.toNat * 2 ^ 64 + b1 x.h0v 81 + x.h1.toNat * 2 ^ 82 + b1 x.h1v 99
def ShiftSlot.image (x : ShiftSlot) : Nat := x.val.toNat + x.h.toNat * 2 ^ 64 + b1 x.hv 81 + x.mul.toNat * 2 ^ 128
def FRec.image (r : FRec) : Nat :=
  packW 128 ((r.rs.toList ++ r.cs.toList).map ScaleSlot.image) +
  packW 192 ((r.rh.toList ++ r.ch.toList).map ShiftSlot.image) * 2 ^ 16384

def TidEnt.image (t : TidEnt) : Nat :=
  b1 t.v 0 + b1 t.wr 1 + t.fmt.toNat * 2 ^ 2 + t.ndim.toNat * 2 ^ 7 + t.gti.toNat * 2 ^ 11 + t.frec.toNat * 2 ^ 35 + b1 t.fv 40 +
  t.xval.toNat * 2 ^ 41 + t.scbase.toNat * 2 ^ 57 + packW 32 (t.org.toList.map BitVec.toNat) * 2 ^ 112 +
  packW 16 (t.shp.toList.map BitVec.toNat) * 2 ^ 432

def Red.image (x : Red) : Nat :=
  (match x.state with
    | .free => 0 | .opened => 1 | .sealed => 2) +
  (match x.op with
    | .sum => 0 | .max => 1 | .ssq => 2) * 4 + x.n.toNat * 2 ^ 4 + x.eps.toNat * 2 ^ 64 +
  packW 64 (x.val.toList.map BitVec.toNat) * 2 ^ 128 + packW 12 (x.sse.toList.map BitVec.toNat) * 2 ^ 4224

def Resid.image (x : Resid) : Nat :=
  b1 x.v 0 + b1 x.stg 1 + x.gti.toNat * 2 ^ 2 + x.tile.toNat * 2 ^ 26 + x.loc.toNat * 2 ^ 66 + x.bytes.toNat * 2 ^ 89 +
  x.odie.toNat * 2 ^ 113 + x.oidx.toNat * 2 ^ 116 + x.ver.toNat * 2 ^ 130

def SyncObj.image (o : SyncObj) : Nat := o.ver.toNat + o.lact.toNat * 2 ^ 32 + b1 o.lav 44

def Barrier.image (b : Barrier) : Nat :=
  b.phase.toNat + b.exp.toNat * 2 ^ 16 + b.arr.toNat * 2 ^ 32 + b.pend.toNat * 2 ^ 48 + b1 b.poison 104

def Region.image (r : Region) : Nat :=
  1 + r.asn.toNat * 2 + r.odie.toNat * 2 ^ 5 + r.oidx.toNat * 2 ^ 8 + r.nrows.toNat * 2 ^ 22 + r.base.toNat * 2 ^ 64

def Tile.image (t : Tile) : Nat :=
  b1 t.v 0 + b1 t.rdy 1 + t.op.toNat * 2 ^ 2 + t.type.toNat * 2 ^ 5 + t.pdie.toNat * 2 ^ 8 + t.bytes.toNat * 2 ^ 16 +
  t.soff.toNat * 2 ^ 38 + t.pdev.toNat * 2 ^ 64 + t.raddr.toNat * 2 ^ 128 + t.plan.toNat * 2 ^ 192

/-- DESIGN CHOICE (log 12): descriptor address, logical block, PBN and a valid bit; R153 fixes no layout. -/
def Btb.image (e : Btb) : Nat := e.desc.toNat + e.block % 2 ^ 32 * 2 ^ 64 + e.pbn.toNat * 2 ^ 96 + 2 ^ 127

def Act.image (x : Act) : Nat :=
  (match x.st with
    | .free => 0 | .opened => 1 | .abandoning => 2 | .failed => 3) + x.lid.toNat * 2 ^ 3 +
  (match x.top with
    | some (d, i) => d % 8 * 2 ^ 19 + i % 2 ^ 19 * 2 ^ 22 + 2 ^ 41
    | none => 0) + x.nsave.toNat * 2 ^ 42 + packW 13 (x.ties.map fun t => t.toNat + 2 ^ 12) * 2 ^ 64

/-! ## The dump (R360) -/

/-- Where the dump lies: the GiB of device memory that firmware has reserved (R360, log 12). -/
def dumpBase : Nat := Config.dumpGiB % (devTop / 2 ^ 30) * 2 ^ 30

/-- The trap that the frames name: the core and the slot that has met the fatal error, with its cause and TVAL. -/
structure FatalTrap where
  core : Nat
  slot : Bool
  cause : BitVec 16
  tval : Word

/-- A slot's frame image, taken as trap entry would take it. DESIGN CHOICE (log 12): a slot that has met no error has 0 as its
cause and TVAL. -/
def slotFrame (k : Core) (b : Bool) (kept : List (MOp × Nat)) (t : Option FatalTrap) (c : Nat) : Nat :=
  let sl := k.slotOf b
  let mine := t.filter fun t => t.core == c && t.slot == b
  frameOf k sl (kept.map fun e => mopRecord e.1 e.2) ((mine.map FatalTrap.cause).getD 0)
    (sl.pc.setWidth 64 ||| ((sl.prol.setWidth 64 : Word) <<< 52)) ((mine.map FatalTrap.tval).getD 0)

/-- The sections of a context slot: frame, accumulators, factor file, tensor identifier table; bytes and content of each. -/
def slotSections (s : State) (t : Option FatalTrap) (c : Nat) (b : Bool) : List (Nat × Nat) :=
  let (u, kept) := asEntered s c b
  let k := u.core c
  let sl := k.slotOf b
  [(0x5800, slotFrame k b kept t c),
   (131072, packW 2048 ((List.range 512).map fun i => (tget sl.a i 0).toNat)),
   (163840, packW 40960 ((List.range 32).map fun i => (tget sl.factors i .identity).image)),
   (5120, packW 640 ((List.range 64).map fun i => (tget sl.tids i .invalid).image))]

/-- The image of entry `i`, zero where nothing has written it. -/
def entryImage {α : Type} (t : Tab α) (i : Nat) (f : α → Nat) : Nat :=
  ((t.find? fun e => e.1 == i).map fun e => f e.2).getD 0

/-- A table of `n` entries of `w` bits. -/
def tableSection (w n : Nat) (f : Nat → Nat) : Nat × Nat := (w / 8 * n, packW w ((List.range n).map f))

/-- The tables that R138 lists and the dies hold, in its order but for those in the slots' sections (log 12). -/
def tableSections (s : State) : List (Nat × Nat) :=
  let dies (f : Nat → Die → Nat × Nat) : List (Nat × Nat) := (List.range 8).map fun d => f d (s.die d)
  ((List.range 1024).flatMap fun c => [false, true].map fun b =>
    tableSection 5120 128 fun i => (tget ((s.core c).slotOf b).reds i .free).image) ++
  ((List.range 1024).map fun c => tableSection 192 512 fun i => entryImage (s.core c).resid i Resid.image) ++
  dies (fun _ d => tableSection 192 4096 fun i => entryImage d.resid i Resid.image) ++
  [tableSection 128 4096 fun i => ((s.regions[i]?).map Region.image).getD 0] ++
  dies (fun _ d => tableSection 64 16384 fun i => entryImage d.sync i SyncObj.image) ++
  dies (fun _ d => tableSection 128 4096 fun i => entryImage d.barriers i Barrier.image) ++
  dies (fun _ d => tableSection 256 1024 fun i => entryImage d.tiles i Tile.image) ++
  ((List.range 128).map fun n => tableSection 128 256 fun i => (((s.cluster n).btb[i]?).map Btb.image).getD 0) ++
  [tableSection 128 4096 fun i => entryImage s.acts i Act.image] ++
  (List.range 64).map fun t => tableSection 192 64 fun i => (tget (tget s.access t []) i (accReset i)).toNat

/-- Every error-record bank. -/
def bankSections (s : State) : List (Nat × Nat) :=
  (List.range 8).flatMap fun d => (List.range 4).map fun b =>
    let k := vget (s.die d).banks b .reset
    (256, packW 64 (k.recs.toList.flatMap fun e => (List.range 4).map fun w => (errRecWord e w).toNat))

/-- The dump's sections in order. -/
def dumpSections (s : State) (t : Option FatalTrap) : List (Nat × Nat) :=
  (256, (ctlRead s 0x1000).toNat + (ctlRead s 0x1008).toNat * 2 ^ 64) ::
  ((List.range 1024).flatMap fun c => slotSections s t c false ++ slotSections s t c true) ++
  tableSections s ++ bankSections s

/-- Sections written one behind the other from an address on, those of `lost`, by their numbers, as all ones. -/
def writeSections (lost : List Nat) : List (Nat × Nat) → Nat → Nat → State → State
  | [], _, _, s => s
  | (n, v) :: r, i, a, s =>
    writeSections lost r (i + 1) (a + n) (s.wrBytes a n (if lost.contains i then 2 ^ (8 * n) - 1 else v))

/-- THE FATAL PATH (R359, R360): FATAL, the dump, its record, MSI-X vector 0. `lost` are the sections that the error keeps from
being read. -/
def fatalDump (s : State) (die core : Nat) (cause : BitVec 16) (t : Option FatalTrap) (lost : List Nat) : State :=
  if s.fatal.isSome then s
  else
    let f : Fatal := ⟨BitVec.ofNat 3 die, BitVec.ofNat 10 core, cause, BitVec.ofNat 52 dumpBase⟩
    let s := { s with fatal := some f }
    let w := writeSections lost (dumpSections s t) 0 dumpBase s
    let s := { s with
      mem := w.mem
      stack := w.stack }
    (s.recordD die 3 3 0 0xC000 0x70 (BitVec.ofNat 52 dumpBase) 0).msix 0

/-- The fatal path of a trap of a core's running slot, which leaves every section readable. -/
def fatalPath (s : State) (core : Nat) (cause : BitVec 16) (tval : Word) : State :=
  fatalDump s (dieOf core) core cause (some ⟨core, (s.core core).ctx, cause, tval⟩) []

end Sys2Proof.Machine
end

