-- ==== Sys2Proof/Machine/Ops.lean ====
section
/-!
DEFINITION. Ops.lean: the named operations every meaning uses: one cycle of a core (R162), the withholding
buffer and checkpoints (R82, R95, R207, R353), global accesses (R89, R283, R343), the end of a step (R313, R349), the fatal path (R359),
rollback (R354 to R356), taking a trap (R341 to R346) and returning from it (R337, R347, R348).
-/
namespace Sys2Proof.Machine

/-! ## One cycle of a core -/

/-- Posts that take part in this cycle, summed and saturated once per flag (R162). -/
def applyPosts (k : Core) (n : Nat) : Core :=
  let now := k.posts.take n
  if now.isEmpty then k
  else
    { k with
      posts := k.posts.drop n
      flags := .ofFn fun f =>
        BitVec.ofNat 16 (min 0xFFFF ((k.flags[f]).toNat + (now.filter fun p => p.1 == f.val).foldl (fun a p => a + p.2) 0)) }

/-- What passes in every cycle, issued or frozen: CYCLE, the wall time of the special-function unit, the L1 holds, the lag of
published stores, and the events of the cycle; the array is busy while its queue holds an operation (R168, log 95). The records
take the causes of the cycle. -/
def wallTick (k : Core) (posts : Nat) : Core :=
  let k := applyPosts (endCauses k) posts
  let k := { k with
    cycle := k.cycle + 1
    sfu := k.sfu - 1
    withheld := if k.withheld.any fun h => h.lag != 0 then k.withheld.map fun h => { h with lag := h.lag - 1 } else k.withheld
    l1 := if k.l1.any fun l => decide (1 < l.2.hold) then
        tmap k.l1 fun _ l => { l with hold := if 1 < l.hold then l.hold - 1 else l.hold } else k.l1 }
  countEvt (countEvt k 1 1) 6 (if k.mq.isEmpty then 0 else 1)

/-- One issued cycle of core `c`; `old` is the state whose rows the array reads. -/
def tickIssued (old s : State) (c : Nat) : State × Option Nat :=
  let (s, bad) := arrayCycle old s c (some (s.core c).ctx)
  (s.modCore c fun k => issuedTick (wallTick k (old.core c).posts.length), bad)

/-- One cycle in which the core issues nothing and nothing of the slot advances (R16, R244); a frozen one counts event 3. -/
def tickStopped (frozen : Bool) (s : State) (c : Nat) : State × Option Nat :=
  let (s, bad) := arrayCycle s s c none
  (s.modCore c fun k => countEvt (wallTick k k.posts.length) 3 (if frozen then 1 else 0), bad)

/-! ## Withheld stores (R95) -/

def heldLine (h : Held) (pa : Nat) : Bool :=
  match h.pa with
  | some p => lineOf p.toNat == lineOf pa
  | none => false

/-- A held store laid over a line. -/
def overlay (r : Row) (h : Held) : Row :=
  match h.lane with
  | none => h.data
  | some l => putLanes 64 r [(l.toNat, h.data.toNat % 2 ^ 64)]

/-- A line as a load of a slot sees it: under the stores of the slot that the core still holds, in store order. DESIGN CHOICE
(log 83): the core's own loads, to which R95 gives the buffered data, are those of the step that has stored them; the other
slot runs another party, which sees them once they are published (R101, R105). -/
def loadLine (s : State) (c : Nat) (b : Bool) (pa : Nat) : Row :=
  (((s.core c).withheld.filter fun h => h.slot == b && heldLine h pa).foldl overlay (s.rdPALine pa))

/-- The sectors that a store dirties (R89). -/
def storeSecs (lane : Option (BitVec 5)) : BitVec 4 :=
  match lane with
  | none => 15
  | some l => 1 <<< (l.toNat / 8)

/-- One store performed at a line that the core may write. -/
def performStore (s : State) (c : Nat) (pa : Nat) (attr : BitVec 2) (lane : Option (BitVec 5)) (data : Row) : State :=
  let s := (ownLine s c pa attr false (storeSecs lane)).1
  match lane with
  | none => cachedWrite s pa attr (storeSecs lane) fun s => s.wrPA (coreMaster c) (lineOf pa) 256 data.toNat
  | some l => cachedWrite s pa attr (storeSecs lane) fun s => s.wrPA (coreMaster c) (lineOf pa + 8 * l.toNat) 8 (data.toNat % 2 ^ 64)

/-- Commands issued while a store was withheld keep reading its line as it was before the first such store, and so do those
before them in their channel, so that the channel never goes back (R105, R117). -/
def noteOld (s : State) (c : Nat) (h : Held) (pa : Nat) : State :=
  let blind (x : Cmd) : Bool := x.blind.contains h.seq
  if (s.core c).chans.toList.any fun ch => ch.q.any blind then
    let line := s.rdPALine pa
    let note (x : Cmd) : Cmd := if x.old.any fun e => e.1 == lineOf pa then x else { x with old := x.old ++ [(lineOf pa, line)] }
    let upTo (q : List Cmd) : List Cmd :=
      q.foldr (fun x acc => if blind x || acc.any blind then note x :: acc else x :: acc) []
    s.modCore c fun k => { k with chans := k.chans.map fun (ch : Chan) => { ch with q := upTo ch.q } }
  else s

/-- A publication of the slot that comes before its accesses from a number on is still to be made (R118). -/
def pubBefore (k : Core) (b : Bool) (q : Nat) : Bool := k.pubs.any fun p => p.slot == b && decide (p.seq < q)

/-- Whether an earlier access of a slot has still to perform. -/
def accBefore (k : Core) (b : Bool) (q : Nat) : Bool :=
  (flightOf k b).any fun e => e.acc.any fun a => a.st == .pending && !a.kind.isStore && decide (a.seq < q)

/-- The first store of a slot's closed segments performs, once it is translated, what the slot has done before it has performed,
and the core may write its line (R388); none where it waits. -/
def drainStep (s : State) (c : Nat) (h : Held) : Option State :=
  match h.pa with
  | none => none
  | some p =>
    if canOwn s c p.toNat h.attr && !pubBefore (s.core c) h.slot h.seq && !accBefore (s.core c) h.slot h.seq then
      let s := performStore (noteOld s c h p.toNat) c p.toNat h.attr h.lane h.data
      some (s.modCore c fun k => { k with withheld := k.withheld.filter fun x => !(x.slot == h.slot && x.seq == h.seq) })
    else none

/-- Asks for the lines of translated stores that the core may not write yet, once their lag has passed. -/
def claimHeld (s : State) (c : Nat) (l : List Held) : State :=
  l.foldl (fun s h => match h.pa with
    | some p => if h.lag ≠ 0 then s else if canOwn s c p.toNat h.attr then s else (ownLine s c p.toNat h.attr false (storeSecs h.lane)).1
    | none => s) s

/-- The stores of a slot's closed segments perform in store order, as far as they can (R95, R207). -/
def drainSlot (s : State) (c : Nat) (b : Bool) : State :=
  let l := (s.core c).withheld.filter fun h => h.slot == b && h.closed
  if l.isEmpty then s
  else
    let s := (l.foldl (fun (acc : State × Bool) h =>
      if acc.2 then acc
      else match drainStep acc.1 c h with
        | some s => (s, false)
        | none => (acc.1, true)) (s, false)).1
    claimHeld s c ((s.core c).withheld.filter fun h => h.slot == b && h.closed)

/-- A store is published: it asks for its line after a time that nothing fixes (log 28). -/
def Held.publish (fresh : Nat) (h : Held) : Held :=
  if h.closed then h else { h with
    closed := true
    lag := Config.claimLag (fresh + h.seq) }

/-- The segment of a slot closes: its stores publish behind those before them. -/
def publishHeld (s : State) (c : Nat) (b : Bool) : State :=
  if (s.core c).withheld.any fun h => h.slot == b then
    drainSlot (s.nextFresh.modCore c fun k => { k with
      withheld := k.withheld.map fun h => if h.slot = b then h.publish s.fresh else h }) c b
  else s

/-- Whether stores of a slot's closed segments, or publications, have still to be performed. -/
def publishing (k : Core) (b : Bool) : Bool := (k.withheld.any fun h => h.slot == b && h.closed) || k.pubs.any fun p => p.slot == b

/-- The stores of a slot's open segment leave the buffer unpublished. -/
def dropOpen (k : Core) (b : Bool) : Core := { k with withheld := k.withheld.filter fun h => !(h.slot == b && !h.closed) }

/-! ## Global accesses (R283, R297, R298, R305, R343) -/

def AKind.ofCode (n : Nat) : AKind :=
  match n with
  | 0 => .ldg | 1 => .ldgs | 2 => .stg | 3 => .stgs | 4 => .atomic | 5 => .marm | 6 => .cflush | _ => .cinv
def AKind.perm : AKind → Kind
  | .ldg | .ldgs | .marm => .rd
  | _ => .wr
/-- Bytes of the line that an access covers: all of it, or a 64-bit lane. -/
def AKind.bytes : AKind → Nat
  | .ldg | .marm | .stg | .cflush | .cinv => 256
  | _ => 8

/-- The new element of an atomic (R297): operation code 0x6D.k, 0x6E as 8, 0x6F as 9; the second part is a cause. -/
def atomicNew (op w : Nat) (old b d : Nat) : Nat × Cause :=
  let so := sextN old w
  let sb := sextN b w
  match op with
  | 0 => ((old + b) % 2 ^ w, 0)
  | 1 => (wrapN (satI (so + sb) (-2 ^ (w - 1)) (2 ^ (w - 1) - 1)) w, 0)
  | 2 => (wrapN (min so sb) w, 0)
  | 3 => (wrapN (max so sb) w, 0)
  | 4 => (old &&& b, 0)
  | 5 => (old ||| b, 0)
  | 6 => (old ^^^ b, 0)
  | 7 => (b, 0)
  | 8 => (if old = d then b else old, 0)
  | _ =>
    let f := if w = 64 then FF.f64 else FF.f32
    let (v, k) := addFV .rne (decodeF f old) (decodeF f b)
    let (c, k2) := encodeF f .rne v
    (c, if k = 0 then k2 else k)

/-- Operation and width of an atomic's slot word (R180, R297). -/
def atomicOp (w : SlotWord) : Nat :=
  if (wOp w).toNat = 0x6D then (w.extractLsb' 3 3).toNat else if (wOp w).toNat = 0x6E then 8 else 9
def atomicWidth (w : SlotWord) : Nat := if w.getLsbD 0 then 64 else 32

/-- What a performed access yields: the state, its value, whether it is late, a cause, a poisoned address. -/
structure Perf where
  s : State
  value : Row
  late : Bool
  cause : Cause
  bad : Option Nat

/-- Whether an access is that of a cache-page instruction, which executes at the home slice whatever the line's ATTR (R166,
R333, R335). -/
def cachePage (w : SlotWord) : Bool := wOp w == 0x7C

/-- The host takes only the operations that PCI Express has (R298). -/
def hostDenies (s : State) (a : Acc) (pa : Nat) (attr : BitVec 2) : Bool :=
  let op := atomicOp a.word
  a.kind == .atomic && !cachePage a.word && attr == 2 && !(op == 0 || op == 7 || op == 8) &&
  (match targetOf s pa with
    | .host => true
    | _ => false)

/-- Whether an access can perform now: a load once its line is there (R20, R388) and what a FENCE orders before it has been
performed (R115), an atomic once the core holds the line exclusively and what it releases has been performed (R113, R279);
either once the publications before it are made (R118). -/
def accReady (s : State) (c : Nat) (b : Bool) (a : Acc) (pa : Nat) (attr : BitVec 2) : Bool :=
  let k := s.core c
  let after (p : Held → Bool) : Bool := k.withheld.any fun h => h.slot == b && h.closed && p h && decide (h.seq < a.seq)
  match a.kind with
  | .ldg | .ldgs | .marm => canRead s c pa attr && !after Held.fenced && !pubBefore k b a.seq
  | .atomic => (cachePage a.word || canOwn s c pa attr) && !after (fun _ => true) && !pubBefore k b a.seq
  | _ => true

/-- An access that cannot perform asks for its line. -/
def claim (s : State) (c : Nat) (a : Acc) (pa : Nat) (attr : BitVec 2) : State :=
  match a.kind with
  | .ldg | .ldgs | .marm => if canRead s c pa attr then s else askLine s c pa attr
  | .atomic => if cachePage a.word || canOwn s c pa attr then s else (ownLine s c pa attr true (1 <<< bitsN pa 7 6)).1
  | _ => s

/-- A load that misses in L1 counts once, where it is first tried (R168). -/
def countMiss (s : State) (c : Nat) (a : Acc) (pa : Nat) (attr : BitVec 2) : State :=
  let loads : Bool := match a.kind with
    | .ldg | .ldgs | .marm => true
    | _ => false
  if loads && !a.late && l1Miss s c pa attr then s.modCore c fun k => countEvt k 4 1 else s

/-! ## Writes by engines (R89, R94, R305) -/

/-- A write by an engine: the bits of the part, the L1 sectors it covers invalidated, the monitors woken (R89, R94, R305). -/
def engineWrite (s : State) (m : Nat) (bad : Bool) (p : Part) : State :=
  let full := 2 ^ (8 * p.n) - 1
  let v := if p.mask = full then p.val else p.val ||| (s.rdPA p.pa p.n &&& (full ^^^ p.mask))
  let lo := bitsN p.pa 7 6
  let hi := bitsN (p.pa + p.n - 1) 7 6
  let secs : BitVec 4 := BitVec.ofNat 4 (((List.range 4).filter fun i => decide (lo ≤ i) && decide (i ≤ hi)).foldl (fun acc i => acc + 2 ^ i) 0)
  let s := dropSectors (cachedWrite s p.pa 1 secs fun s => s.wrPA m p.pa p.n v) p.pa secs
  if bad then s.taint p.pa else s

/-- A range of at most 256 bytes, cut at a line. -/
abbrev Pieces := List (Nat × Nat)

def rdPieces (s : State) (l : Pieces) : Nat := l.foldr (fun e acc => s.rdPA e.1 e.2 + acc <<< (8 * e.2)) 0
def wrPieces (s : State) (m v : Nat) (l : Pieces) : State :=
  (l.foldl (fun (acc : State × Nat) e => (engineWrite acc.1 m false ⟨e.1, e.2, acc.2 % 2 ^ (8 * e.2), 2 ^ (8 * e.2) - 1⟩,
    acc.2 >>> (8 * e.2))) (s, v)).1

/-! ## Cache pages at their home slices (R152, R153, R166, R333 to R335) -/

/-- The notice word of a freed page is written by the walker of a die, at the level of the HANDOVER; it waits for a page that
the host has still to grant. -/
def writeNotice (s : State) (d : Nat) (r : PendRel) : State :=
  match r.notice with
  | none => s
  | some a =>
    match xlateU s (128 * d) (schedMaster d) r.asn r.sup .wr a with
    | .ok pa _ _ => engineWrite s (schedMaster d) false ⟨pa.toNat, 8, r.pbn.toNat + 2 ^ 63, 2 ^ 64 - 1⟩
    | .fault _ => (seeRefusal s r.asn a).recordD d 3 1 0 (schedMaster d) 0x52 a 0
    | .ask => (askPage s r.asn a .wr).modDie d fun x => { x with notices := x.notices ++ [r] }

/-- A counter that an exit has left at 0 frees the page that is listed for it. -/
def freePage (s : State) (ctr : Nat) : State :=
  let d := homeDie ctr
  match (s.die d).pendrel.find? fun r => r.ctr.toNat == ctr with
  | none => s
  | some r =>
    (writeNotice s d r).modDie d fun x => { x with pendrel := x.pendrel.filter fun e => e.ctr.toNat != ctr }

/-- Removes block-translation entries from every cluster. -/
def dropBtb (s : State) (p : Btb → Bool) : State := s.mapClusters fun _ c => { c with btb := c.btb.filter fun e => !p e }

/-- An entry of a block table: PBN and V. -/
def btWord (pbn : Nat) (v : Bool) : Nat := pbn % 2 ^ 24 + b1 v 31

/-- Where one piece of a range of a slot's space lies; `pa` where no translation holds any longer. -/
def pieceAt (s : State) (c : Nat) (b : Bool) (va : Nat) (pa : Nat) : Nat :=
  let sl := (s.core c).slotOf b
  match xlate s c sl.asn sl.sup .rd (BitVec.ofNat 52 va) with
  | .ok p _ _ => p.toNat
  | _ => pa

/-- The 32-bit word at an address, cut at a line. -/
def wordPieces (s : State) (c : Nat) (b : Bool) (va pa : Nat) : Pieces :=
  let n := min 4 (256 - va % 256)
  if n = 4 then [(pieceAt s c b va pa, 4)] else [(pieceAt s c b va pa, n), (pieceAt s c b (va + n) (pa + n), 4 - n)]

/-- One score and its causes. -/
def saccOne (v : Row) (m : Nat) (acc : State × List Cause) (e : Nat × Pieces) : State × List Cause :=
  let (x, k1) := addFV .rne (decodeF .f32 (rdPieces acc.1 e.2)) (decodeF .f32 (laneN v e.1 32))
  let (c, k2) := encodeF .f32 .rne x
  (wrPieces acc.1 m c e.2, acc.2 ++ [k1, k2])

/-- GRACE at its counter: whether it finds the end of its range. -/
def graceOp (s : State) (m : Nat) (l : Pieces) (leave : Bool) : State × Bool :=
  let n := rdPieces s l
  if n = (if leave then 0 else 2 ^ 32 - 1) then (s, true)
  else
    let n' := if leave then n - 1 else n + 1
    let s := wrPieces s m n' l
    (if leave && n' == 0 then freePage s (l.headD (0, 0)).1 else s, false)

/-- HANDOVER at its entry, of block `blk`, and at the counter of the old page: whether it is refused. -/
def handoverOp (s : State) (c : Nat) (b : Bool) (l : Pieces) (x : Word) (blk : Nat) (notice : Option Addr) (dpa : Addr)
    (grace : Nat) (ctr0 : Nat) : State × Bool :=
  let sl := (s.core c).slotOf b
  let e := rdPieces s l
  let old := e % 2 ^ 24
  let g := wordPieces s c b ((grace + 4 * old) % 2 ^ 52) ctr0
  let ctr := (g.headD (0, 0)).1
  let d := homeDie ctr
  if !e.testBit 31 || decide (256 ≤ (s.die d).pendrel.length) then (s, true)
  else
    let s := wrPieces s (coreMaster c) (btWord (bitsN x.toNat 55 32) true) l
    let s := dropBtb s fun y => y.desc == dpa && y.block == blk
    let r : PendRel := ⟨BitVec.ofNat 52 ctr, BitVec.ofNat 24 old, sl.asn, notice, sl.sup⟩
    (if rdPieces s g = 0 then writeNotice s d r else s.modDie d fun y => { y with pendrel := y.pendrel ++ [r] }, false)

/-- What the data of such an access hold: opnd(B), the notice address with bit 63 set where there is one, the address of the
descriptor, the base of the grace counters, the counter of the old page. SACC's data are its lanes of vB. -/
def pageData (x : Word) (notice : Option Addr) (dpa : Addr) (grace ctr : Nat) : Row :=
  rowOf 64 [x.toNat, (notice.map fun a => a.toNat + 2 ^ 63).getD 0, dpa.toNat, grace, ctr]

/-- What BTSET, GRACE, HANDOVER and SACC do when they perform (R166, R333 to R335): the state, and the predicate. -/
def cachePageOp (s : State) (c : Nat) (b : Bool) (e : InFl) (a : Acc) (pa : Nat) : State × Bool :=
  let m := coreMaster c
  let x : Word := BitVec.ofNat 64 (laneN a.data 0 64)
  let blk := x.toNat % 2 ^ 32
  let n := laneN a.data 1 64
  let notice : Option Addr := if n.testBit 63 then some (BitVec.ofNat 52 n) else none
  let dpa : Addr := BitVec.ofNat 52 (laneN a.data 2 64)
  let l := wordPieces s c b a.va.toNat pa
  match (wF a.word).toNat % 8 with
  | 0 =>
    let s := wrPieces s m (btWord (bitsN x.toNat 55 32) (x.getLsbD 63)) l
    (dropBtb s fun y => y.desc == dpa && y.block == blk, false)
  | 4 => graceOp s m l (x.getLsbD 63)
  | 5 => handoverOp s c b l x blk notice dpa (laneN a.data 3 64) (laneN a.data 4 64)
  | _ =>
    -- the lanes of SACC in one line of the score table, the first of them at the access's address
    let is := (List.range 64).filter fun i => e.lmask.getLsbD (2 * i)
    let at_ (i : Nat) : Nat := 4 * (i - is.headD 0)
    let (s, ks) := (is.map fun i => (i, wordPieces s c b ((a.va.toNat + at_ i) % 2 ^ 52) (pa + at_ i))).foldl (saccOne a.data m) (s, [])
    (s.modCore c fun k => k.setSlotOf b (noteCause (k.slotOf b) (2 * a.seq + 1) e.spos e.baddr ks), false)

/-! ## A translated access performs -/

/-- Performs a translated access of slot `b` of core `c` that is ready. A MARM of the other slot than the running one wakes the
monitor that stands (R305). -/
def performAcc (s : State) (c : Nat) (b : Bool) (e : InFl) (a : Acc) (pa : Nat) (attr : BitVec 2) : Perf :=
  let bad := if s.poisoned pa then some (lineOf pa) else none
  let s := countMiss s c a pa attr
  match a.kind with
  | .ldg | .marm =>
    let (s', late) := readLine s c pa attr
    let s' := if a.kind == .marm then
        s'.modCore c fun k => { k with
          monitor := some (BitVec.ofNat 52 (lineOf pa))
          monitorHit := b != k.ctx && k.monitor.isSome } else s'
    ⟨s', loadLine s c b pa, late, 0, bad⟩
  | .ldgs =>
    let (s', late) := readLine s c pa attr
    ⟨s', BitVec.ofNat 2048 (laneN (loadLine s c b pa) (bitsN pa 7 3) 64), late, 0, bad⟩
  -- a store is in the withholding buffer (R95): only its address was missing
  | .stg | .stgs => ⟨s, 0, false, 0, none⟩
  | .atomic =>
    if cachePage a.word then
      let (s', x) := cachePageOp s c b e a pa
      -- BTSET reads nothing
      ⟨s', if x then 1 else 0, false, 0, if (wF a.word).toNat % 8 = 0 then none else bad⟩
    else
    let w := atomicWidth a.word
    let op := atomicOp a.word
    let ea := pa / (w / 8) * (w / 8)
    let old := s.rdPA ea (w / 8)
    let b := laneN a.data 0 64 % 2 ^ w
    let d := laneN a.data 1 64 % 2 ^ w
    let (new, cause) := atomicNew op w old b d
    let hitL2 := l2Has s pa
    let sec : BitVec 4 := 1 <<< bitsN pa 7 6
    -- at its home slice the atomic reads the line first (R389)
    let s' := if attr == 1 && isDev s pa then l2Use s pa else s
    let (s', late) := ownLine s' c pa attr true sec
    let s' := cachedWrite s' pa attr sec fun s => s.wrPA (coreMaster c) ea (w / 8) new
    let r := if op = 9 then old else wrapN (sextN old w) 64
    let late := if attr == 1 then !(hitL2 && decide (l2Latency c pa ≤ 40)) else late
    ⟨s', BitVec.ofNat 2048 r, late, cause, bad⟩
  | .cflush | .cinv =>
    -- CFLUSH writes back with no message of R386, and leaves the line's state (log 20)
    if !l1Kind s pa attr then ⟨s, 0, false, 0, none⟩
    else
      let h := l1Home s c pa
      let l := l1At s h pa
      if l.st = .i then ⟨s, 0, false, 0, none⟩
      else if a.kind == .cflush || decide (1 < (copies s (clusterOf c) pa).length) then
        let s' := putL1 (writeBack s pa l.dirty) h pa { l with dirty := 0 }
        ⟨if a.kind == .cinv then l1Evict s' h pa else s', 0, false, 0, none⟩
      else ⟨l1Evict s h pa, 0, false, 0, none⟩

/-- Whether an access of `n` bytes at task level reaches a SUP field of control space (R7). -/
def ctlDenied (s : State) (sup : Bool) (k : Kind) (pa n : Nat) : Bool := ctlBytes s sup k (pa / n * n) n

/-- Marks a store of the withholding buffer as translated, or takes it out (R343). -/
def settleHeld (s : State) (c : Nat) (b : Bool) (seq : Nat) (pa : Option Addr) (attr : BitVec 2) : State :=
  let it (h : Held) : Bool := h.slot == b && h.seq == seq
  s.modCore c fun k => { k with
    withheld := match pa with
      | none => k.withheld.filter fun h => !it h
      | some p => k.withheld.map fun h => if it h then
          { h with
            pa := some p
            attr := attr } else h }

def setFlight (k : Core) (b : Bool) (l : List InFl) : Core :=
  if b = k.ctx then { k with inflight := l } else k.setSlotOf b { k.slotOf b with parked := l }

/-- What an access comes to: it still waits, its entry as given; it leaves nothing to deliver; or its entry as it then stands. -/
inductive Settled where
  | waits (e : InFl)
  | gone
  | left (e : InFl)
deriving DecidableEq, Repr

/-- The entry of the same access in a list: as the access has left it, its own delay kept. -/
def settleIn (seq : Nat) (r : Settled) (l : List InFl) : List InFl :=
  l.filterMap fun e =>
    if e.acc.any fun a => a.st == .pending && a.seq == seq then
      match r with
      | .waits _ => some e
      | .gone => none
      | .left x => some { x with delay := e.delay }
    else some e

/-- An access performs once: a shadow that holds it outstanding learns what it has come to (R82, R279). -/
def tellShadow (s : State) (c : Nat) (b : Bool) (seq : Nat) (r : Settled) : State :=
  s.modCore c fun k =>
    let sl := k.slotOf b
    match sl.shadow with
    | none => k
    | some sh =>
      if sh.inflight.any fun e => e.acc.any fun a => a.st == .pending && a.seq == seq then
        k.setSlotOf b { sl with shadow := some { sh with inflight := settleIn seq r sh.inflight } }
      else k

/-- An access that has faulted has no effect (R343). -/
def faultAcc (s : State) (c : Nat) (b : Bool) (e : InFl) (a : Acc) (f : BitVec 16) : State × Settled × Option Nat :=
  let r := Settled.left { e with acc := some { a with
    st := .fault f
    late := false } }
  (tellShadow (if a.kind.isStore then settleHeld s c b a.seq none 0 else s) c b a.seq r, r, none)

/-- An access whose address is known: it faults, waits for its line, or performs. -/
def performAt (s : State) (c : Nat) (b : Bool) (e : InFl) (a : Acc) (pa : Addr) (attr : BitVec 2) : State × Settled × Option Nat :=
  if ctlDenied s ((s.core c).slotOf b).sup a.kind.perm pa.toNat a.kind.bytes then faultAcc s c b e a 0x0010
  else if hostDenies s a pa.toNat attr then faultAcc s c b e a xAccess
  else if !accReady s c b a pa.toNat attr then
    (claim (countMiss s c a pa.toNat attr) c a pa.toNat attr, .waits { e with acc := some { a with late := true } }, none)
  else
    let s := if a.kind.isStore then drainSlot (settleHeld s c b a.seq (some pa) attr) c b else s
    let p := performAcc s c b e a pa.toNat attr
    let gives := e.file != .none || !e.nl
    let r := if gives || p.cause != 0 then Settled.left { e with
        value := p.value
        cause := BitVec.ofNat 3 p.cause
        acc := some { a with
          st := .done
          late := p.late
          pa := pa } } else .gone
    (tellShadow p.s c b a.seq r, r, p.bad)

/-- One outstanding access of a slot: what it comes to now, and the poisoned address that it reads. It waits while its walk
or the host's answer is outstanding (R99, R364). -/
def settle (s : State) (c : Nat) (b : Bool) (e : InFl) (a : Acc) : State × Settled × Option Nat :=
  let sl := (s.core c).slotOf b
  -- a cache-page instruction's addresses have been translated and checked before its bundle issued (R308)
  if cachePage a.word && a.pa != 0 then performAt s c b e a a.pa 1
  else if missing s c sl.asn a.va then (s, .waits e, none)
  else
    match xlate s c sl.asn sl.sup a.kind.perm a.va with
    | .ask => (askPage s sl.asn a.va a.kind.perm, .waits e, none)
    | .fault f => faultAcc s c b e a f
    | .ok pa attr t => performAt (fillTlb s (clusterOf c) (dieOf c) t) c b e a pa attr

/-- Settles, oldest first, every outstanding access of a slot; the first that must wait stops the rest (log 6). The second
part is the first poisoned address read. -/
def settleAll (s : State) (c : Nat) (b : Bool) : State × Option Nat :=
  let l := flightOf (s.core c) b
  if !(l.any fun e => e.acc.any fun a => a.st == .pending) then (s, none)
  else
    let go := l.foldl (fun (acc : State × List InFl × Option Nat × Bool) e =>
      let (s, out, bad, stop) := acc
      match e.acc with
      | some a =>
        if a.st ≠ .pending ∨ stop then (s, out ++ [e], bad, stop)
        else
          match settle s c b e a with
          | (s, .waits x, p) => (s, out ++ [x], bad <|> p, true)
          | (s, .gone, p) => (s, out, bad <|> p, stop)
          | (s, .left x, p) => (s, out ++ [x], bad <|> p, stop)
      | none => (s, out ++ [e], bad, stop)) (s, [], none, false)
    (go.1.modCore c fun k => setFlight k b go.2.1, go.2.2.1)

def hasPending (l : List InFl) : Bool := l.any fun e => e.acc.any fun a => a.st == .pending
def pendingAcc (k : Core) : Bool := hasPending k.inflight

/-- A store enters the withholding buffer under its number; at supervisor level nothing is withheld from publishing (R349). -/
def withhold (k : Core) (b : Bool) (a : Acc) : Core :=
  if a.kind.isStore then
    let lane := if a.kind == .stg then none else some (a.va.extractLsb' 3 5)
    { k with withheld := k.withheld ++ [⟨b, a.va, none, 0, lane, a.data, a.seq, (k.slotOf b).sup, false, 0⟩] }
  else k

/-- The next number of the core's accesses. -/
def numberAcc (k : Core) (a : Acc) : Acc := { a with
  st := .pending
  seq := k.useq }

/-- Issues a translated access (R343): it performs at once where its translation is cached and no older access of the core
is outstanding; otherwise it waits for its walk. The second part is a poisoned address that it read. -/
def issueAcc (s : State) (e : InFl) (a : Acc) : State × Option Nat :=
  let c := s.cur
  let b := s.me.ctx
  let a := numberAcc s.me a
  let e := { e with acc := some a }
  let older := pendingAcc s.me
  let s := s.modMe fun k => withhold { k with useq := k.useq + 1 } b a
  if (tlbFind s (clusterOf c) (dieOf c) s.sl.asn a.va).isNone then ((queueWalk s c s.sl.asn a.va).push e, none)
  else if older then (s.push e, none)
  else
    match settle s c b e a with
    | (s, .waits x, p) => (s.push x, p)
    | (s, .gone, p) => (s, p)
    | (s, .left x, p) => (s.push x, p)

/-! ## Checkpoints (R82, R207, R353) -/

/-- Closes the segment of a slot: its stores publish, its journals empty. -/
def closeSegment (s : State) (c : Nat) (b : Bool) : State :=
  (publishHeld s c b).modCore c fun k =>
    let k := { k with
      journal := k.journal.filter fun e => e.1 != b
      fjournal := k.fjournal.filter fun e => e.1 != b
      jfull := false }
    k.setSlotOf b { k.slotOf b with replay := false, rolled := false, seg := (k.slotOf b).seg + 1 }

/-- The shadow set of a slot, resuming at `pc` with the loop stack `ls`: registers, records, MPC and the deferral queue as
`reads` holds them, the rest as it now stands (log 11). -/
def takeShadow (k reads : Core) (b : Bool) (pc : Addr) (ls : List Level) (fl : List InFl) : Core :=
  let sl := k.slotOf b
  let r := reads.slotOf b
  let own (o : MOp) : Bool := o.slot == b
  let sh : Shadow :=
    { Core.shadowNow sl reads.deferred ((k.mq.filter own).map shadowOp) (k.mdue.filter fun e => own e.2) fl pc with
      s := r.s
      v := r.v
      p := r.p
      m := r.m
      loops := ls
      mpc := r.mpc
      dq := r.dq
      sticky := r.sticky }
  k.setSlotOf b { sl with shadow := some sh }

/-- The shadow's in-flight results one issued cycle later (R82, R356). -/
def shadowFlight (l : List InFl) : List InFl := l.map fun e => { e with delay := e.delay - 1 }

/-- The empty cycle after a checkpoint's bundle has passed: what the array and the pipes did in it is behind the checkpoint
(R196, R207). -/
def passBubble (k : Core) (b : Bool) : Core :=
  let sl := k.slotOf b
  let own (o : MOp) : Bool := o.slot == b
  { (k.setSlotOf b { sl with
      bubble := false
      shadow := sl.shadow.map fun sh => if sh.bubble then { sh with
        inflight := shadowFlight sh.inflight
        mq := (k.mq.filter own).map shadowOp
        mdue := k.mdue.filter fun e => own e.2
        bubble := false
        a := sl.a
        adopt := sl.adopt
        factors := sl.factors
        reds := sl.reds } else sh }) with
    journal := if sl.shadow.any Shadow.bubble then k.journal.filter fun e => e.1 != b else k.journal }

/-- A checkpoint before the bundle at the running slot's pc (R208, R356). -/
def ckptBefore (s : State) (c : Nat) : State :=
  let b := (s.core c).ctx
  (closeSegment s c b).modCore c fun k => takeShadow k k b k.slot.pc k.slot.loops k.inflight

/-- Marks the bundle for a checkpoint at its end (R353). Supervisor bundles take none (R349). -/
def askCkpt (s : State) : State := if s.sl.sup then s else { s with eff := { s.eff with ckpt := true } }

/-- A release operation publishes what is withheld before it acts, and its bundle takes a checkpoint at its end (R95, R279). -/
def publishOp (s : State) : State := askCkpt (if s.sl.sup then s else publishHeld s s.cur s.me.ctx)

/-! ## Steps that end (R17, R68, R231, R305, R308, R313) -/

/-- Marks at partners go when the marked core ends its step (R209). -/
def clearMarks (s : State) (c : Nat) : State :=
  if s.cores.any fun k => k.2.marks.contains c then s.mapCores fun _ k =>
    { k with
      marks := sdel k.marks c
      rdzSeen := k.rdzSeen.filter fun e => e.1 != c } else s

/-- Delays of parked results count again from the cycle in which the slot runs (R68). -/
def runSlot (k : Core) (b : Bool) : Core :=
  let sl := k.slotOf b
  { (k.setSlotOf b { sl with parked := [], out := none }) with ctx := b, inflight := sl.parked }

/-- Whether what a switched-out step waits for is there: the cause of its freeze has cleared (R68). -/
def wakes (s : State) (c : Nat) (b : Bool) (w : Wake) : Bool :=
  let k := s.core c
  let sl := k.slotOf b
  match w with
  | .access | .remote => !((flightOf k b).any InFl.awaited) || (settleAll s c b).2.isSome
  | .wp n rows =>
    let ch := vget k.chans n ⟨[], false⟩
    decide (rows ≤ (vget sl.wp n 0).toNat) || ch.q.isEmpty || ch.fault
  | .sfu => k.sfu == 0
  | .page va => !walking s c sl.asn va && !asking s sl.asn va
  | .btinv d => !(s.clusters.any fun x => x.2.btb.any fun e => e.desc == d)
  | .rdz => true

/-- Whether a slot holds a step that is ready to run (R68). -/
def slotReady (s : State) (c : Nat) (b : Bool) : Bool :=
  let sl := (s.core c).slotOf b
  sl.task.isSome && sl.out.all (wakes s c b)

/-- The slot in use is empty: the other one runs, if it holds a step that is ready (R68). -/
def switchAway (s : State) (c : Nat) : State :=
  let o := !(s.core c).ctx
  let s := s.modCore c fun k => { switchClean k with inflight := [], freeze := none, hold := none, trapping := none }
  if slotReady s c o then s.modCore c fun k => runSlot k o else s

/-- The command at the head of a channel of a core. -/
def headCmd (k : Core) (n : Nat) : Option Cmd := ((vget k.chans n ⟨[], false⟩).q).head?

/-- Whether the follow-on of a command is in the array's queue, or its write is due. -/
def followIn (k : Core) (c : Cmd) : Bool :=
  let it (o : MOp) : Bool := o.follow.isSome && awaits o c
  k.mq.any it || k.qkept.any it || (k.mdue.any fun e => it e.2) || k.dkept.any fun e => it e.2

/-- Drops the follow-ons of a task's commands that have not started: such a command completes without one (R250). -/
def dropFollows (k : Core) (t : Option Nat) : Core :=
  let theirs (o : MOp) : Bool := o.follow.isSome && k.chans.toList.any fun ch => ch.q.any fun c => c.task == t && awaits o c
  let k := { k with mq := k.mq.filter fun o => !(theirs o && o.run.isNone) }
  { k with
    chans := k.chans.map fun (ch : Chan) =>
      let q : List Cmd := ch.q.map fun c => if c.task == t then { c with follow := none } else c
      { ch with q := q.filter fun c => !(c.task == t && c.st == .follow && !followIn k c) } }

/-- A slot whose step has left it: its registers stay as they are until the next step starts (R69, R138). -/
def freedSlot (sl : Slot) : Slot :=
  { sl with
    task := none
    sup := false
    shadow := none
    parked := []
    out := none
    wfault := none
    bubble := false
    cfail := false
    ending := none
    seg := sl.seg + 1 }

/-- The step of the running slot becomes final (R17, R135): its slot is free. -/
def endStep (s : State) (c : Nat) (st : TaskSt) (cause : Nat) : State :=
  let k := s.core c
  let b := k.ctx
  let s := s.modCore c fun k =>
    let k := dropFollows { dropOpen k b with
      journal := k.journal.filter fun e => e.1 != b
      fjournal := k.fjournal.filter fun e => e.1 != b
      mq := k.mq.filter fun o => !(o.slot == b && o.follow.isNone)
      mdue := k.mdue.filter fun e => !(e.2.slot == b && e.2.follow.isNone)
      dkept := []
      qkept := []
      preempt := false } (k.slotOf b).task
    k.setSlotOf b (freedSlot (k.slotOf b))
  let s := clearMarks (switchAway s c) c
  match k.slot.task with
  | some t => finalTask s t st c cause
  | none => s

/-- Publishes unpublished shadow rows in one event (R118, R289, R294). -/
def publishRows (s : State) (c : Nat) (p : ShRow → Bool) : State :=
  let l := (s.core c).shrows.filter p
  let s := s.modCore c fun k => { k with shrows := k.shrows.filter fun r => !p r }
  l.foldl (fun s r => r.parts.foldl (fun s x => engineWrite s (chanMaster c r.chan.val) r.poison x) s) s

/-- Publications whose slot's earlier accesses have performed are made, in their order (R118, R289). -/
def landPubs (s : State) (c : Nat) : State :=
  (s.core c).pubs.foldl (fun s p =>
    if settledBefore (s.core c) p.slot p.seq then
      publishRows (s.modCore c fun k => { k with pubs := k.pubs.erase p }) c fun r => p.cmds.contains r.cmd
    else s) s

/-! ## Rollback (R354 to R356) -/

/-- Whether a post is one of the step of a slot to a flag (R162): not that of a channel. -/
def Post.ofStep (p : Post) (c : Nat) (b : Bool) (f : Nat) : Bool :=
  p.flag == f && p.gate.core == c && p.gate.slot == b && p.gate.seq != 0

/-- Reverses the segment's own posts and takings: posts still on their way go, the others and the takings are made good. -/
def reverseFlags (k : Core) (c : Nat) (b : Bool) : Core :=
  let k := applyPosts k k.posts.length
  let l := k.fjournal.filter fun e => e.1 == b
  let posts (f : Nat) : List Nat := (l.filter fun e => e.2.1 == f && !e.2.2.2).map fun e => e.2.2.1
  let way (f : Nat) : Nat := min (posts f).length (k.rposts.countP fun p => p.ofStep c b f)
  let cut (q : List Post) (f : Nat) : List Post :=
    (q.foldr (fun p (acc : List Post × Nat) =>
      if p.ofStep c b f && decide (acc.2 < way f) then (acc.1, acc.2 + 1) else (p :: acc.1, acc.2)) ([], 0)).1
  { k with
    fjournal := k.fjournal.filter fun e => e.1 != b
    rposts := if l.isEmpty then k.rposts else (List.range 16).foldl cut k.rposts
    flags := .ofFn fun f =>
      let back : Int := (((posts f.val).take ((posts f.val).length - way f.val)).foldl (· + ·) 0 : Nat)
      let took : Int := ((l.filter fun e => e.2.1 == f.val && e.2.2.2).foldl (fun a e => a + e.2.2.1) 0 : Nat)
      BitVec.ofNat 16 (satI ((k.flags[f]).toNat + took - back) 0 0xFFFF).toNat }

/-- Stops the channel commands of the segment, drops their follow-ons that have not started and discards their unpublished
rows. -/
def killCommands (k : Core) (b : Bool) (seg : Nat) : Core :=
  let killed (c : Cmd) : Bool := c.slot == b && c.seg == seg
  let drop (o : MOp) : Bool := o.run.isNone && o.follow.isSome && k.chans.toList.any fun ch => ch.q.any fun c => killed c && awaits o c
  { k with
    chans := k.chans.map fun ch => { ch with q := ch.q.filter fun c => !killed c }
    shrows := k.shrows.filter fun r => !(r.slot == b && r.seg == seg)
    mq := k.mq.filter fun o => !drop o }

/-- Whether a command waits for a follow-on that has not started. -/
def unstarted (k : Core) (o : MOp) : Bool :=
  o.follow.isSome && o.run.isNone && k.chans.toList.any fun ch => ch.q.any (awaits o)

/-- The array's queue as a rollback re-creates it (R356): operations of slots recorded from now; what is due later, and
follow-ons that ran at the checkpoint, behind the handler; other follow-ons in their channels. A follow-on of a copy that the
rollback has stopped runs to its end (R251). -/
def recreate (k : Core) (b : Bool) (sh : Shadow) : Core :=
  let own (o : MOp) : Bool := o.slot == b
  let ids := (sh.mq ++ sh.mdue.map Prod.snd).map MOp.fid
  let on (o : MOp) : Bool := !own o || (o.follow.isSome && !ids.contains o.fid)
  let (back, rest) := (sh.mq.filter fun o => o.follow.isSome).partition (unstarted k)
  back.foldl toChannel { k with
    mq := (k.mq.filter fun o => own o && on o) ++ (sh.mq.filter fun o => o.follow.isNone) ++ k.mq.filter fun o => !own o
    mdue := k.mdue.filter fun e => on e.2
    dkept := sh.mdue
    qkept := rest }

/-- A row of the undo journal written back, poisoned as it was (R94, R95). -/
def undoRow (s : State) (c : Nat) (e : Bool × Nat × Row × Bool) : State :=
  let s := s.wrRow c e.2.1 e.2.2.1
  if e.2.2.2 then s.taint (spadRow c e.2.1) else s

/-- Discards the segment of a slot (steps 1 to 5 of R354): rows, flags, commands, queue and registers. -/
def discardSegment (s : State) (c : Nat) (b : Bool) : State :=
  let s := (s.core c).journal.foldl (fun s e => if e.1 == b then undoRow s c e else s) s
  s.modCore c fun k =>
    let seg := (k.slotOf b).seg
    let k := killCommands (reverseFlags k c b) b seg
    let k := { clearLatches (dropOpen k b) with
      journal := k.journal.filter fun e => e.1 != b
      xpose := ⟨0, 0, [], 0⟩
      jfull := false
      freeze := none
      hold := none
      trapping := none }
    match (k.slotOf b).shadow with
    | none => { k with
        inflight := []
        mq := k.mq.filter fun o => !(o.slot == b && o.follow.isNone)
        mdue := k.mdue.filter fun e => !(e.2.slot == b && e.2.follow.isNone) }
    | some sh =>
      let k := recreate k b sh
      let sl := k.slotOf b
      let k := { k with
        inflight := sh.inflight.map InFl.back
        deferred := sh.deferred }
      k.setSlotOf b { sl with
        pc := sh.pc
        prol := sh.prol
        s := sh.s
        v := sh.v
        p := sh.p
        m := sh.m
        loops := sh.loops
        mpc := sh.mpc
        dq := sh.dq
        sticky := sh.sticky
        lcause := []
        a := sh.a
        adopt := sh.adopt
        factors := sh.factors
        reds := sh.reds
        bubble := sh.bubble
        ending := sh.ending
        replay := true
        rolled := true }

/-- Marks the partners of a core that rolls back: cores of its cluster that run steps of the same launch (R209). -/
def markPartners (s : State) (c : Nat) : State :=
  let l := (s.core c).slot.task.map fun t => (s.task t).launch
  let runs (k : Core) : Bool := [k.slot0, k.slot1].any fun sl => sl.task.isSome && (sl.task.map fun t => (s.task t).launch) == l
  s.mapCores fun i k => if clusterOf i = clusterOf c ∧ i ≠ c ∧ runs k then
    { k with
      marks := sput k.marks c
      rdzSeen := k.rdzSeen.filter fun e => e.1 != c } else k

/-! ## Taking a trap (R341 to R346) -/

def frameBase (k : Core) : Addr := ((k.tfbase >>> 8) <<< 8).setWidth 52

def frameLines : Nat := 0x58

/-- The first page of the frame that the host has still to grant, and that it has not refused (R98, R364). -/
def frameAsk (s : State) (c : Nat) (kind : Kind) : Option Addr :=
  let asn := (s.core c).slot.asn
  ((List.range frameLines).map fun i => frameBase (s.core c) + BitVec.ofNat 52 (256 * i)).find? fun va =>
    !refused s asn va && xlate s c asn true kind va == .ask

/-- Writes the frame at supervisor level, or the cause of the fault at the first line that cannot be written. -/
def writeFrame (c : Nat) (base : Addr) (v : Nat) : Nat → State → Except (BitVec 16) State
  | 0, s => .ok s
  | n + 1, s =>
    match writeFrame c base v n s with
    | .error f => .error f
    | .ok s =>
      match xlate s c (s.core c).slot.asn true .wr (base + BitVec.ofNat 52 (256 * n)) with
      | .ok pa _ t =>
        let s := fillTlb s (clusterOf c) (dieOf c) t
        .ok (s.wrPA (coreMaster c) (lineOf pa.toNat) 256 (v >>> (2048 * n) % 2 ^ 2048))
      | .fault f => .error f
      | .ask => .error xNotPresent

/-- Reads the frame at supervisor level. -/
def readFrame (s : State) (c : Nat) (base : Addr) : Nat → Except (BitVec 16) Nat
  | 0 => .ok 0
  | n + 1 =>
    match readFrame s c base n with
    | .error f => .error f
    | .ok v =>
      match xlate s c (s.core c).slot.asn true .rd (base + BitVec.ofNat 52 (256 * n)) with
      | .ok pa _ _ => .ok (v + (s.rdPALine pa.toNat).toNat <<< (2048 * n))
      | .fault f => .error f
      | .ask => .error xNotPresent

/-- Trap entry once every access has completed or faulted (R342 steps 4 to 6). `recs` are the operations recorded. -/
def writeTrap (s : State) (c : Nat) (t : Trapping) (kept : List (MOp × Nat)) : State :=
  let k := s.core c
  let sl := k.slot
  let epc : Word := t.epc.setWidth 64 ||| ((t.prol.setWidth 64 : Word) <<< 52)
  let v := frameOf k sl (kept.map fun e => mopRecord e.1 e.2) t.cause epc t.tval
  match writeFrame c (frameBase k) v frameLines s with
  | .error f => fatalPath s c f 0
  | .ok s =>
    s.modCore c fun k =>
      let k := { k with
        returning := false
        tcause := t.cause
        tepc := epc
        tval := t.tval
        inflight := []
        ckept := (k.inflight.take 32).map InFl.cause
        mkept := kept.map Prod.fst
        freeze := none
        hold := none
        trapping := none
        monitorHit := k.monitorHit || t.cause == 0x0020 || t.cause == 0x0405 }
      k.setSlot { k.slot with
        sup := true
        wfault := none
        pc := k.tvec.setWidth 52 &&& 0xFFFFFFFFFFFFC
        prol := 0 }

/-- The array stops and the frame is written. `drain` as in `stopArray`; poison that the array reads on its way comes
second. -/
def stopAndWrite (s : State) (c : Nat) (t : Trapping) : State × Option Nat :=
  match spendBubble (s.modCore c landDue) c t.drain with
  | (s, some p) => (s, some p)
  | (s, none) =>
    let (s, kept, bad) := stopArray s c (s.core c).ctx t.drain
    if bad.isSome then (s, bad) else (writeTrap (s.modCore c endCauses) c t kept, none)

/-- Poison consumed where no replay follows: the step ends POISONED (R355). Nothing is re-created but the stores that its
closed segments publish. UNIT 1 is the core (log 77). -/
def poisonEnd (s : State) (c : Nat) (pa : Nat) : State :=
  let b := (s.core c).ctx
  let s := discardSegment s c b
  let s := s.recordC c 1 3 1 (coreMaster c) 0x11 (BitVec.ofNat 52 pa) 0
  (clearMarks s c).modCore c fun k =>
    let closed (a : Acc) : Bool := k.withheld.any fun h => h.slot == b && h.seq == a.seq
    { (k.setSlotOf b { k.slotOf b with
        bubble := false
        ending := some (.final .poisoned 0) }) with
      inflight := k.inflight.filter fun e => e.acc.any fun a => a.st == .pending && a.kind.isStore && closed a
      mq := k.mq.filter fun o => !(o.slot == b && o.follow.isNone)
      mdue := k.mdue.filter fun e => !(e.2.slot == b && e.2.follow.isNone)
      dkept := []
      qkept := [] }

/-- Consumption of poison by core `c` (R354, R355): rollback and trap 0x0030, or the end of the step. -/
def rollback (s : State) (c : Nat) (pa : Nat) : State :=
  let k := s.core c
  let b := k.ctx
  if k.slot.sup then fatalPath s c 0x0030 (BitVec.ofNat 64 pa)
  else if k.slot.rolled || k.slot.shadow.isNone then poisonEnd s c pa
  else
    let s := markPartners (discardSegment s c b) c
    let s := s.recordC c 1 2 1 (coreMaster c) 0x10 (BitVec.ofNat 52 pa) 0
    let sl := (s.core c).slot
    let t : Trapping := ⟨0x0030, sl.pc, sl.prol, BitVec.ofNat 64 pa, 0, false⟩
    if pendingAcc (s.core c) || (frameAsk s c .wr).isSome then s.modCore c fun k => { k with trapping := some t }
    else
      match stopAndWrite s c t with
      | (s, some p) => poisonEnd s c p
      | (s, none) => s

/-- A trap's entry (R342): accesses still outstanding complete or fault first, and one that waits, or a page of the frame
that the host has still to grant, keeps the core waiting. -/
def trapStep (s : State) (c : Nat) (t : Trapping) : State :=
  let stay (s : State) : State := s.modCore c fun k => { k with trapping := some t }
  let (s, bad) := settleAll s c (s.core c).ctx
  match bad with
  | some p => rollback s c p
  | none =>
    if pendingAcc (s.core c) then stay s
    else
      match frameAsk s c .wr with
      | some va => stay (askPage s (s.core c).slot.asn va .wr)
      | none =>
        match stopAndWrite s c t with
        | (s, some p) => rollback s c p
        | (s, none) => s

/-- TAKING A TRAP (R342), at the pc of the running slot of core `c`. -/
def takeTrap (s : State) (c : Nat) (cause : BitVec 16) (tval : Word) : State :=
  let sl := (s.core c).slot
  if sl.sup then fatalPath s c cause tval
  else trapStep s c ⟨cause, sl.pc, sl.prol, tval, 0, true⟩

/-- A trap raised by the executing slot, with its place in the order of R184, R254 and R275. -/
def State.trap (s : State) (cause : BitVec 16) (tval : Word) (rank : Nat) : State :=
  { takeTrap s s.cur cause tval with sig := .trap rank }

/-- Poison read by the executing slot. -/
def State.consume (s : State) (pa : Nat) : State := { rollback s s.cur pa with sig := .poison }

/-- The accesses of the running slot that are not back count as faulted with 0x0012, and have no effect: a store leaves the
withholding buffer. An atomic that has performed stays done (R342, R343, R350; log 84). -/
def giveUp (s : State) (c : Nat) : State :=
  let b := (s.core c).ctx
  let l := (s.core c).inflight
  let s := l.foldl (fun s e => match e.acc with
    | some a => if a.st == .pending then (faultAcc s c b e a 0x0012).1 else s
    | none => s) s
  s.modCore c fun k => { k with
    inflight := k.inflight.map InFl.lost
    freeze := none }

/-- A trapped entry that has waited for its accesses (R342 step 3): entered, or one cycle more; after 2^20 cycles the
accesses count as faulted. -/
def trapWait (s : State) (c : Nat) (t : Trapping) : State :=
  trapStep (if 2 ^ 20 ≤ t.cycles then giveUp s c else s) c { t with cycles := t.cycles + 1 }

/-! ## Leaving a slot (R206, R313, R349) -/

/-- Inserts by delay, keeping the order of issue among equals. -/
def insDelay (e : InFl) : List InFl → List InFl
  | [] => [e]
  | x :: r => if x.delay ≤ e.delay then x :: insDelay e r else e :: x :: r

/-- Every in-flight result lands, in the order of its due cycle. -/
def landAll (k : Core) : Core :=
  let l := k.inflight.foldl (fun acc e => insDelay e acc) []
  { (k.setSlot (l.foldl landReg k.slot)) with inflight := [] }

def isFault (e : InFl) : Bool := e.acc.any fun a => match a.st with
  | .fault _ => true
  | _ => false

/-- Whether a command of the task is still incomplete in a channel of the core. -/
def hasCommands (k : Core) (t : Option Nat) : Bool := k.chans.toList.any fun ch => ch.q.any fun c => c.task == t

/-! ## Releases on their way (R148, R300) -/

/-- A release takes effect at its object: LAV holds where the attached activity is OPEN then; the slot's record learns the
order. -/
def landRel (s : State) (d i : Nat) (lact : BitVec 12) (lav : Bool) (core : Nat) (b : Bool) : State :=
  let s := release s d i lact (lav && (actGet s lact).st == .opened)
  let obj : BitVec 17 := BitVec.ofNat 17 (d * 16384 + i)
  let note (e : BitVec 17 × Nat) : BitVec 17 × Nat := if e.1 = obj then (e.1, s.fresh) else e
  (s.modCore core fun k => k.setSlotOf b { k.slotOf b with released := (k.slotOf b).released.map note }).nextFresh

/-- Releases of a slot that are still on their way to the objects of `p`, and that no earlier access holds back, take effect
now. -/
def landOwn (s : State) (c : Nat) (b : Bool) (p : Nat → Bool) : State :=
  (List.range 8).foldl (fun s d =>
    let mine (a : Arrival) : Bool := match a with
      | .rel d i _ _ core x q => core == c && x == b && p (d * 16384 + i) && settledBefore (s.core c) b q
      | _ => false
    let l := (s.die d).arrivals.filter mine
    if l.isEmpty then s
    else
      let s := s.modDie d fun x => { x with arrivals := x.arrivals.filter fun a => !mine a }
      l.foldl (fun s a => match a with
        | .rel d i lact lav core b _ => landRel s d i lact lav core b
        | _ => s) s) s

/-- A pre-empted step goes back to its queue (R130, R206, R352). -/
def leavePreempted (s : State) (c : Nat) (pc : Addr) : State :=
  let k := s.core c
  let b := k.ctx
  let sl := k.slot
  match sl.task with
  | none => s
  | some t =>
    let s := s.modTask t fun x =>
      { x with st := .queued, saved := some ⟨pc, (List.range 7).map fun i => vget sl.s (i + 1) 0⟩ }
    let s := s.modCore c fun k =>
      let k := dropFollows { k with
        preempt := false
        deferred := []
        mq := k.mq.filter fun o => !(o.slot == b && o.follow.isNone) } (some t)
      k.setSlotOf b (freedSlot sl)
    requeue (switchAway s c) c t

/-- What a step that is leaving leaves behind once its accesses and its array work are done: pre-empted, or final. It stays
while its stores and its publications are still to be performed and, to end, while its channel commands run (R206, R313). -/
def leave (s : State) (c : Nat) (e : Ending) : State :=
  let b := (s.core c).ctx
  match e with
  | .preempt pc =>
    let s := closeSegment (s.modCore c fun k => endCauses (landAll k)) c b
    if publishing (s.core c) b then s else leavePreempted s c pc
  | .final st cause =>
    let s := s.modCore c fun k => endCauses ((landAll k).setSlotOf b { (landAll k).slotOf b with loops := [] })
    let s := if st == .done then closeSegment s c b else s
    if publishing (s.core c) b then s
    else
      let s := if st == .done then landOwn s c b fun _ => true else s
      let t := (s.core c).slot.task
      if hasCommands (s.core c) t then s
      else endStep (publishRows s c fun r => r.task == t && r.whole) c st cause.toNat

/-- A step that is leaving: one attempt. It stays while an access is outstanding, or has faulted and is not yet due; a step
that does not end DONE takes no fault. -/
def tryEnd (s : State) (c : Nat) : State :=
  match (s.core c).slot.ending with
  | none => s
  | some e =>
    match settleAll s c (s.core c).ctx with
    | (s, some p) => rollback s c p
    | (s, none) =>
      let ends : Bool := match e with
        | .final st _ => st != .done
        | .preempt _ => false
      let s := if ends then s.modCore c fun k => { k with inflight := k.inflight.filter fun x => !isFault x } else s
      if pendingAcc (s.core c) || (s.core c).inflight.any isFault then s
      else
        match drainAll c (s.core c).ctx (queueCycles (s.core c)) s with
        | (s, some p) => rollback s c p
        | (s, none) => leave s c e

/-- The executing bundle is the step's last, and the step leaves: what its other slots have done is behind the bundle's
checkpoint, if one was asked for (R206, R313, R325, R353). -/
def State.leaveBy (s : State) (e : Ending) : State :=
  let s := s.modSl fun sl => { sl with
    pc := s.ctx.next
    prol := 0
    sup := false
    ending := some e }
  let s := if s.eff.ckpt then (closeSegment s s.cur s.me.ctx).modMe fun k =>
      takeShadow k k k.ctx s.ctx.next k.slot.loops (shadowFlight k.inflight) else s
  { tryEnd s s.cur with sig := .gone }

/-! ## Return from a trap (R337, R347 to R349) -/

def wordAt (f off n : Nat) : Nat := f >>> (8 * off) % 2 ^ (8 * n)

/-- An in-flight entry of the frame. -/
def frameEntry (f n : Nat) : Option InFl :=
  let h := wordAt f (0x3100 + 32 * n) 32
  if h % 2 = 0 then none
  else
    let file : RFile := match bitsN h 3 1 with
      | 0 => .scalar | 1 => .vector | 2 => .pred | 3 => .mask | _ => .none
    let grp : Lat := match bitsN h 10 9 with
      | 0 => .bs | 1 => .bv | 2 => .bl | _ => .bx
    let v : Row := BitVec.ofNat 2048 (wordAt f (0x3500 + 256 * n) 256)
    let acc : Option Acc := if h.testBit 12 then
        some ⟨AKind.ofCode (bitsN h 16 14), BitVec.ofNat 52 (bitsN h 179 128), BitVec.ofNat 32 (bitsN h 255 224), v,
          .fault (BitVec.ofNat 16 (bitsN h 207 192)), false, 0, 0⟩
      else none
    some ⟨bitsN h 63 32, file, BitVec.ofNat 5 (bitsN h 8 4), grp, h.testBit 11, BitVec.ofNat 3 (bitsN h 19 17),
      BitVec.ofNat 52 (bitsN h 115 64), v, BitVec.ofNat 128 (wordAt f (0x5600 + 16 * n) 16), 0, acc, false, 0⟩

/-- An operation of the queue rebuilt from record n and the values kept for its position (R252, R277). What the record's
words say stands; factors come from the kept operation or, where a record has none, from the tiles' records. -/
def frameMop (k : Core) (f n : Nat) : Option MOp :=
  let r := wordAt f (0x5500 + 32 * n) 32
  if r % 2 = 0 then none
  else
    let word : SlotWord := BitVec.ofNat 32 (bitsN r 95 64)
    let w0 := bitsN r 127 96
    let w1 := bitsN r 159 128
    match decodeOp word w0 w1 with
    | none => none
    | some i =>
      let kept := k.mkept[n]?
      let o := kept.getD (emptyOp i word)
      let o := { o with
        instr := i
        word := word
        pos := BitVec.ofNat 3 (bitsN r 5 3)
        baddr := BitVec.ofNat 52 (bitsN r 243 192)
        rowA := bitsN r 172 160
        rowB := bitsN r 185 173 }
      let o := if kept.any fun x => x.word == word then o else nameTiles k.slot o kept.isNone
      let o := frameWords o w0 w1
      let next := bitsN r 15 8
      let d := bitsN r 47 16
      let o := { o with
        slot := k.ctx
        next := next
        occ := opOcc o }
      -- one that a rollback has re-created within a chunk or a tile goes on there, as far from it as DELAY now says
      match kept with
      | some x =>
        if x.run.isSome && x.next == next && x.word == word then
          some { o with
            wait := d - x.wait
            run := x.run.map fun n => if o.kind.chunked then max n (min (n + (x.wait - d)) (chunkEnd o next - 1)) else n }
        else some { o with
          wait := d
          run := none }
      | none => some { o with
          seq := k.useq + n
          wait := d
          run := none }

/-- The causes kept at entry (R55, log 85) for the entries that the frame gives back. -/
def frameCauses (k : Core) (l : List (Nat × InFl)) : List InFl :=
  l.map fun e => if e.2.acc.isSome then e.2 else { e.2 with cause := k.ckept.getD e.1 0 }

/-- The slot as the frame gives it back. -/
def frameSlot (sl : Slot) (f : Nat) (tepc : Word) : Slot :=
  let depth := min 4 (bitsN (wordAt f 24 8) 10 8)
  { sl with
    sup := false
    pc := tepc.setWidth 52 &&& 0xFFFFFFFFFFFFC
    prol := tepc.extractLsb' 52 12
    s := .ofFn fun i => if i.val = 0 then 0 else BitVec.ofNat 64 (wordAt f (0x100 + 8 * i.val) 8)
    p := .ofFn fun i => if i.val = 0 then false else (wordAt f 0x200 1).testBit i.val
    m := .ofFn fun i => BitVec.ofNat 128 (wordAt f (0x210 + 16 * i.val) 16)
    v := .ofFn fun i => BitVec.ofNat 2048 (wordAt f (0x1100 + 256 * i.val) 256)
    sticky := .ofFn fun i => BitVec.ofNat 64 (wordAt f (0x300 + 8 * i.val) 8) &&& 0xBF7FFFFFFFFFFFFF
    lcause := []
    loops := (List.range depth).map fun l =>
      let x := wordAt f (0x340 + 24 * l) 24
      ⟨BitVec.ofNat 52 (bitsN x 51 0), BitVec.ofNat 52 (bitsN x 115 64), BitVec.ofNat 32 (bitsN x 159 128),
       BitVec.ofNat 6 (bitsN x 165 160), x.testBit 166, none⟩
    mpc := BitVec.ofNat 64 (wordAt f 32 8) &&& 0x000FFFFFFFFFFFFC
    wp := .ofFn fun i => BitVec.ofNat 16 (wordAt f (40 + 2 * i.val) 2)
    replay := (wordAt f 24 8).testBit 4 }

/-- Re-executes a faulted access at resumption (R348): it performs, waits, or faults again; its value is late. -/
def reExec (s : State) (c : Nat) (e : InFl) (a : Acc) : State × Settled × Option Nat :=
  let b := (s.core c).ctx
  let a := numberAcc (s.core c) a
  let e := { e with acc := some a }
  let s := s.modCore c fun k => withhold { k with useq := k.useq + 1 } b a
  let asn := (s.core c).slot.asn
  if (tlbFind s (clusterOf c) (dieOf c) asn a.va).isNone then (queueWalk s c asn a.va, .left e, none)
  else
    match settle s c b e a with
    | (s, .left x, p) => (s, .left { x with acc := x.acc.map fun y => if y.st == .done then { y with late := true } else y }, p)
    | (s, .waits x, p) => (s, .left x, p)
    | r => r

/-- RETURN FROM A TRAP (R337, R345, R347 to R349), once the frame can be read and no access of the handler is outstanding. -/
def returnTrap (s : State) (c : Nat) : State :=
  let k := s.core c
  let b := k.ctx
  match readFrame s c (frameBase k) frameLines with
  | .error e => fatalPath s c e 0
  | .ok f =>
    let action := bitsN (wordAt f 48 4) 7 6
    if action ≠ 0 then
      let s := s.modCore c fun k =>
        let k := { dropOpen k b with
          inflight := []
          returning := false
          mkept := []
          ckept := []
          dkept := []
          qkept := [] }
        k.setSlotOf b { k.slotOf b with
          sup := false
          ending := some (.final (if action = 2 then .poisoned else .faulted)
            (if action = 2 then 0 else BitVec.ofNat 16 (bitsN (wordAt f 48 4) 23 8))) }
      tryEnd s c
    else if k.slot.cfail then
      -- a CEND that failed: the step ends at this return (R326)
      tryEnd (s.modCore c fun k => { k with returning := false }.setSlotOf b { k.slotOf b with
        sup := false
        ending := some (.final .done 0) }) c
    else
      let (s, bad) := drainAll c b (queueCycles (s.core c)) s
      match bad with
      | some p => rollback s c p
      | none =>
      let es := frameCauses k ((List.range (min 32 (wordAt f 48 1 % 64))).filterMap fun n => (frameEntry f n).map fun e => (n, e))
      let s := s.modCore c fun k =>
        let k := k.setSlotOf b (frameSlot (k.slotOf b) f k.tepc)
        let row (off : Nat) : Row := BitVec.ofNat 2048 (wordAt f off 256)
        { k with
          bs := .ofFn fun i => BitVec.ofNat 2048 (wordAt f (0x400 + 8 * i.val) 8)
          bv := .ofFn fun i => row (0x500 + 256 * i.val)
          bl := .ofFn fun i => row (0x900 + 256 * i.val)
          bx := .ofFn fun i => row (0xD00 + 256 * i.val)
          inflight := []
          mq := k.mq ++ mergeOps k.qkept ((List.range 4).filterMap (frameMop k f))
          mdue := k.dkept ++ k.mdue
          useq := k.useq + 4
          returning := false
          mkept := []
          ckept := []
          dkept := []
          qkept := [] }
      let go := es.foldl (fun (acc : State × List InFl × Option Nat) e =>
        match e.acc with
        | some a =>
          if e.delay = 0 then
            match reExec acc.1 c e a with
            | (s, .left x, p) => (s, acc.2.1 ++ [x], acc.2.2 <|> p)
            | (s, _, p) => (s, acc.2.1, acc.2.2 <|> p)
          else (acc.1, acc.2.1 ++ [e], acc.2.2)
        | none => (acc.1, acc.2.1 ++ [e], acc.2.2)) (s, [], none)
      let s := go.1.modCore c fun k => landReady { k with inflight := go.2.1 }
      match go.2.2 with
      | some p => rollback s c p
      | none => s

/-! ## Waits (R21, R41, R280) -/

/-- Cycles that the bundle has waited. -/
def waited (k : Core) : Nat := match k.hold with
  | some h => h.waited
  | none => 0

/-- One test of a hardware wait after the cycles that the bundle has waited: the bundle waits, or the instruction ends with
its condition met (false) or timed out (true). A condition met only after the limit does not count, and one met before it stands while the bundle's
other waits go on (R21, R41). -/
def waitTest (s : State) (limit : Nat) (cond : Bool) : Option Bool :=
  if s.me.hold.any fun h => h.met.contains s.ctx.place then some false
  else if cond && decide (waited s.me ≤ limit) then some false else if limit ≤ waited s.me then some true else none

/-- The waiting bundle does not issue in this cycle; a release at SYNC stays with it. -/
def State.hold (s : State) (kind : HoldKind) (limit : Nat) : State :=
  let kind := match kind, s.me.hold with
    | .sync _ _, _ => kind
    | _, some ⟨.sync m true, _, _, _⟩ => .sync m true
    | k, _ => k
  { (s.modMe fun k => { k with hold := some ⟨kind, waited k + 1, limit, (k.hold.map Hold.met).getD []⟩ }) with sig := .held }

/-- The core freezes at its bundle (R16): the code of R350, and what ends it. -/
def State.freezeAt (s : State) (code : Nat) (w : Wake) : State :=
  let n := match s.me.freeze with
    | some f => f.cycles
    | none => 0
  { (s.modMe fun k => { k with freeze := some ⟨code, n, w⟩ }) with sig := .frozen }

/-- The illegal-instruction trap raised at issue by the executing slot (R183). -/
def State.illegal (s : State) (cause : BitVec 16) : State :=
  s.trap cause (BitVec.ofNat 64 (s.ctx.pos.toNat * 2 ^ 32 + s.ctx.word.toNat)) 0

/-- The trap of a malformed metadata word (R182). -/
def State.badMeta (s : State) : State := { s.illegal 0x000C with sig := .badMeta }

/-- The privilege trap (R7, R340). -/
def State.privilege (s : State) : State := s.trap 0x0010 0 1

/-- The outcomes of the meanings. -/
abbrev Out := Host.Outcome State Fault Refusal

end Sys2Proof.Machine
end

