-- ==== Sys2Proof/Machine/Fetch.lean ====
section
/-!
DEFINITION. Fetch.lean: the words of a bundle and of a loop body, the slots that issue together, and what follows them
(R81, R170, R183, R184, R195 to R205).
-/
namespace Sys2Proof.Machine

/-- A fetch that fails: the cause and the address (R98, R340). -/
abbrev FetchErr := BitVec 16 × Addr

/-- What a fetch comes to: what is read, a fault, or an address whose translation is still to come (R99, R364). -/
inductive Fetched (α : Type) where
  | ok (x : α)
  | bad (e : FetchErr)
  | wait (va : Addr)
deriving DecidableEq, Repr

def Fetched.bind {α β : Type} (x : Fetched α) (f : α → Fetched β) : Fetched β :=
  match x with
  | .ok a => f a
  | .bad e => .bad e
  | .wait va => .wait va

/-! ## The instruction and metadata caches (R84) -/

/-- Lines of 256 bytes in 128 KiB and in 16 KiB. -/
def icLines : Nat := 512
def mcLines : Nat := 64

/-- The 32-bit word at a physical address: from a cached line, else from memory. -/
def cachedWord (s : State) (l : Tab Row) (pa : Nat) : BitVec 32 :=
  match l.find? fun e => e.1 == pa / 256 with
  | some e => BitVec.ofNat 32 (laneN e.2 (pa % 256 / 4) 32)
  | none => BitVec.ofNat 32 (s.rdPA pa 4)

/-- The line of an address enters a cache; the line filled first leaves a full one. DESIGN CHOICE (log 89): R84 names no
replacement. -/
def fillCache (s : State) (cap : Nat) (l : Tab Row) (pa : Nat) : Tab Row :=
  if l.any fun e => e.1 == pa / 256 then l else ((pa / 256, s.rdPALine pa) :: l).take cap

/-- A word that a core fetches with execute permission: the translation, the physical address. -/
def fetchAddr (s : State) (c : Nat) (a : Addr) : Fetched (Tlb × Nat) :=
  match look s c (s.core c).slot.asn (s.core c).slot.sup .ex a with
  | .ok pa _ t => .ok (t, pa.toNat)
  | .fault f => .bad (f + 0x10, a)
  | .walk | .ask => .wait a

/-- Reads the words of the bundle at an address, up to the first with E = 1, at most `n`; the translations and addresses used
go with them (R170). -/
def fetchGo (s : State) (c : Nat) : Nat → Addr → Fetched (List SlotWord × List (Tlb × Nat))
  | 0, _ => .ok ([], [])
  | n + 1, a =>
    (fetchAddr s c a).bind fun t =>
      let w : SlotWord := cachedWord s (s.core c).icache t.2
      if wE w then .ok ([w], [t]) else (fetchGo s c n (a + 4)).bind fun r => .ok (w :: r.1, t :: r.2)

/-- What a fetch has used enters the buffers and the instruction cache (R84, R99). -/
def fillAll (s : State) (c : Nat) (ts : List (Tlb × Nat)) : State :=
  ts.foldl (fun s t =>
    (fillTlb s (clusterOf c) (dieOf c) t.1).modCore c fun k => { k with icache := fillCache s icLines k.icache t.2 }) s

/-- A fetch that waits: the walk or the host's answer is set going, and nothing issues until it is there. -/
def fetchWait (s : State) (c : Nat) (va : Addr) : State :=
  let sl := (s.core c).slot
  (lookFor s c none sl.asn va .ex (look s c sl.asn sl.sup .ex va)).modCore c fun k => { k with freeze := some ⟨0, 0, .page va⟩ }

/-- A bundle address, bits [1:0] ignored (R170). -/
def bundleAddr (a : Addr) : Addr := a &&& 0xFFFFFFFFFFFFC

/-- The bundles of a loop body: address, physical address, words (R201, R248). -/
abbrev Body := List (Addr × Addr × List SlotWord)

/-- The physical address of what a fetch has read. -/
def fetchedAt (ts : List (Tlb × Nat)) : Addr := BitVec.ofNat 52 ((ts.head?.map Prod.snd).getD 0)

/-- The bundles of a loop body from `a` through the one at `stop`; none where no bundle of the first
`n` starts there. A bundle in which `stop` lies is read no further than there (R201). -/
def bodyGo (s : State) (c : Nat) (stop : Addr) : Nat → Addr → Fetched (Option (Body × List (Tlb × Nat)))
  | 0, _ => .ok none
  | n + 1, a =>
    let room := (stop - a).toNat / 4
    (fetchGo s c (if a = stop then 8 else min 8 room) a).bind fun (ws, ts) =>
      if a = stop then .ok (some ([(a, fetchedAt ts, ws)], ts))
      else if room < 8 ∧ !(ws.getLast?.any wE) then .ok none
      else
        (bodyGo s c stop n (a + BitVec.ofNat 52 (4 * ws.length))).bind fun r =>
          .ok (r.map fun r => ((a, fetchedAt ts, ws) :: r.1, ts ++ r.2))

def bodyOf (s : State) (c : Nat) (start stop : Addr) : Fetched (Option (Body × List (Tlb × Nat))) := bodyGo s c stop 64 start

/-- A slot that issues: where it stands, its meaning, its lane mask. -/
structure RSlot where
  baddr : Addr
  /-- the physical address of its bundle (R248) -/
  bpa : Addr
  next : Addr
  words : Nat
  scope : Scope
  pos : Nat
  word : SlotWord
  instr : Instr
  vm : Option (BitVec 3)
  /-- its place among the slots that issue together, counted from 1 -/
  place : Nat
deriving DecidableEq, Repr

/-- The slots of a decoded bundle, NOP and PFX apart. -/
def slotsOf (a pa : Addr) (b : Bundle) : List RSlot :=
  (b.slots.filter fun x => x.instr != .nop).map fun x =>
    ⟨a, pa, a + BitVec.ofNat 52 (4 * b.words), b.words, b.scope, x.pos, x.word, x.instr, x.vm, 0⟩

/-- Slots numbered from 1 in their order. -/
def placed (l : List RSlot) : List RSlot := l.zipIdx.map fun e => { e.1 with place := e.2 + 1 }

/-- What issues in a cycle, and where control goes next without a redirection. -/
structure IssueRow where
  slots : List RSlot
  /-- the row of an MLOOP body: whether it ends the pass, and the number of stages -/
  merged : Option (Bool × Nat)
  next : Addr
deriving DecidableEq, Repr

/-- A bundle that cannot issue: cause and TVAL. -/
structure Reject where
  cause : BitVec 16
  tval : Word
deriving DecidableEq, Repr

def Reject.illegal (e : Illegal) : Reject := ⟨e.cause, BitVec.ofNat 64 (e.pos * 2 ^ 32 + e.word.toNat)⟩
def Reject.fetch (e : FetchErr) : Reject := ⟨e.1, e.2.setWidth 64⟩

/-- The classes of the slots of one body bundle, NOP and PFX apart (R172, R203). -/
def rowClasses (ws : List SlotWord) : List (Cls × Nat × SlotWord) :=
  let w0 := ws.headD 0
  let surr : BitVec 7 := if wOp w0 == 0x7E then w0.extractLsb' 14 7 else 0
  ((groupSlots surr 0 ws).filter fun e => wOp e.2.1 != 0x7E && wOp e.2.1 != 0).map fun e => (clsOf (wOp e.2.1).toNat, e.1, e.2.1)

/-- The class limits of a merged row: those of R172, and none for control (R203). -/
def mergedOver (l : List (Cls × Nat × SlotWord)) : Option (Nat × SlotWord) :=
  match l.find? fun e => e.1 == .control with
  | some e => some e.2
  | none => overLimit l []

/-- Causes of R184 that precede the class limit. -/
def beforeClass (c : BitVec 16) : Bool := c == 0x0009 || c == 0x0007 || c == 0x000D || c == 0x000A || c == 0x0008

/-- The merged row r of a body: stages S − 1 down to 0, the live ones decoded (R202, R203). -/
def mergedRow (body : Body) (ii r p count : Nat) : Except Reject (List RSlot) :=
  let n := body.length / ii
  let stages := (List.range n).reverse
  let at_ (st : Nat) : Addr × Addr × List SlotWord := body.getD (r + st * ii) (0, 0, [])
  let live := stages.filter fun st => decide (st ≤ p) && decide (n ≤ st + count)
  let decs := live.map fun st => ((at_ st).1, (at_ st).2.1, decodeBundle (at_ st).2.2)
  let errs := decs.filterMap fun d => match d.2.2 with
    | .error e => some e
    | .ok _ => none
  match errs.find? fun e => beforeClass e.cause with
  | some e => .error (.illegal e)
  | none =>
    match mergedOver (stages.foldl (fun acc st => acc ++ rowClasses (at_ st).2.2) []) with
    | some (k, w) => .error (.illegal ⟨0x0008, k, w⟩)
    | none =>
      match errs.head? with
      | some e => .error (.illegal e)
      | none =>
        .ok (decs.foldl (fun acc d => match d.2.2 with
          | .ok b => acc ++ slotsOf d.1 d.2.1 b
          | .error _ => acc) [])

/-- The row that an MLOOP level issues at a pc; none where the pc is not at a first bundle of a stage (R184, R202). -/
def bodyRow (l : Level) (sl : Slot) (pc : Addr) (body : Body) : Option (Except Reject IssueRow) :=
  let ii := max 1 l.ii.toNat
  ((body.take ii).findIdx? fun e => e.1 == pc).map fun r =>
    (mergedRow body ii r sl.prol.toNat l.count.toNat).map fun slots =>
      let last := body.getLastD (0, 0, [])
      if r + 1 = ii then ⟨placed slots, some (true, body.length / ii), last.1 + BitVec.ofNat 52 (4 * last.2.2.length)⟩
      else ⟨placed slots, some (false, body.length / ii), (body.getD (r + 1) (0, 0, [])).1⟩

/-- What issues at a pc, or why nothing does; what its fetch used; the body of the innermost MLOOP where it had to be loaded
again. -/
structure Loaded where
  row : Except Reject IssueRow
  used : List (Tlb × Nat)
  body : Option Body

/-- The bundle at an address. -/
def loadPlain (s : State) (c : Nat) (pc : Addr) : Fetched Loaded :=
  (fetchGo s c 8 pc).bind fun (ws, ts) => .ok ⟨match decodeBundle ws with
    | .error e => .error (.illegal e)
    | .ok b => .ok ⟨placed (slotsOf pc (fetchedAt ts) b), none, pc + BitVec.ofNat 52 (4 * b.words)⟩, ts, none⟩

/-- Loads what issues at the pc of core `c`: a bundle, or the merged row of an MLOOP level (R184, R202). A level that RFT has
given back has its body loaded again where control stands in it. -/
def loadRow (s : State) (c : Nat) : Fetched Loaded :=
  let sl := (s.core c).slot
  let pc := bundleAddr sl.pc
  match sl.loops.getLast? with
  | none => loadPlain s c pc
  | some l =>
    match l.kind, l.body with
    | false, _ => loadPlain s c pc
    | true, some body =>
      (match bodyRow l sl pc body with
      | some row => .ok ⟨row, [], none⟩
      | none => loadPlain s c pc)
    | true, none =>
      if pc < l.start || l.stop < pc then loadPlain s c pc
      else
        (bodyOf s c l.start l.stop).bind fun r =>
          match r with
          | none => loadPlain s c pc
          | some (body, ts) =>
            match bodyRow l sl pc body with
            | some row => .ok ⟨row, ts, some body⟩
            | none => loadPlain s c pc

/-- The body loaded enters the innermost level. -/
def keepBody (s : State) (c : Nat) (b : Option Body) : State :=
  match b with
  | none => s
  | some b => s.modCore c fun k => k.setSlot { k.slot with
      loops := k.slot.loops.dropLast ++ (k.slot.loops.getLast?.toList.map fun l => { l with body := some b }) }

/-! ## End handling (R81, R204) -/

/-- Levels innermost first: every level whose END is `here` is handled, then control goes on. -/
def endLevels (here seq : Addr) : List Level → List Level × Addr
  | [] => ([], seq)
  | l :: r =>
    if l.stop = here then
      if 1 < l.count.toNat then ({ l with count := l.count - 1 } :: r, l.start) else endLevels here seq r
    else (l :: r, seq)

/-- The stack, outermost first, and the next pc. -/
def endHandling (loops : List Level) (here seq : Addr) : List Level × Addr :=
  let (l, a) := endLevels here seq loops.reverse
  (l.reverse, a)

end Sys2Proof.Machine
end

