-- ==== Sys2Proof/Machine/Matrix.lean ====
section
/-!
DEFINITION. Matrix.lean: the matrix engine's instructions: issue checks, holds, factor bookkeeping, and entry into the
array's queue (R78, R182, R234 to R248, R253, R254, R260 to R262). What the queue then does stands in Array.lean.
-/
namespace Sys2Proof.Machine

/-! ## What every matrix slot does -/

/-- Every matrix slot that issues adds 4 to MPC (R78). -/
def mpcStep (s : State) : State := s.modSl fun sl => { sl with mpc := (sl.mpc + 4) &&& 0x000FFFFFFFFFFFFC }

/-- A queue operation of the executing slot, its fields still empty. It starts one cycle after its issue at the earliest
(R242). -/
def blankOp (s : State) (i : Instr) : MOp :=
  { emptyOp i s.ctx.word with
    slot := s.me.ctx
    pos := s.ctx.pos
    baddr := s.ctx.baddr
    bpa := s.ctx.bpa }

/-- An operation enters a core's queue, behind the accesses and operations that have issued before it (R77, R242). -/
def enterOp (k : Core) (o : MOp) : Core :=
  { k with
    mq := k.mq ++ [{ o with seq := k.useq }]
    useq := k.useq + 1 }

def State.enqueue (s : State) (o : MOp) : State := s.modMe fun k => enterOp k o

/-- MXFULL: the four slot entries hold operations (R242, R253). -/
def mxFull (s : State) : Bool := decide (4 ≤ (s.me.mq.filter fun o => o.follow.isNone).length)

/-- A check that failed: cause and TVAL. -/
abbrev Fail := Option (BitVec 16 × Nat)
def failIf (b : Bool) (cause : BitVec 16) (tval : Nat) : Fail := if b then some (cause, tval) else none
def chkFull (s : State) : Fail := failIf (mxFull s) 0x0407 0
/-- An invalid tensor identifier entry: the illegal-operand trap with reason 1 (R281). -/
def chkTid (s : State) (t : BitVec 6) : Fail := failIf (!(s.sl.tid t.toNat).v) 0x0301 1

/-- The scratchpad-range trap over runs of rows (base, count): the first row outside 0 to 8191 (R85). -/
def chkRows (l : List (Nat × Nat)) : Fail :=
  l.findSome? fun e => if e.2 ≠ 0 ∧ 8192 < e.1 + e.2 then some (0x0205, max e.1 8192) else none

/-- Traps with the first failure, if any. -/
def orTrap (f : Fail) (s : State) (k : Unit → Out) : Out :=
  match f with
  | some (c, v) => .next (s.trap c (BitVec.ofNat 64 v) 2)
  | none => k ()

/-- The factor hold of R260: the bundle waits for the condition for opnd(s25)[31:0] cycles; p7 tells how it ended, and an
expired instruction does nothing but `late`. -/
def holdFor (late : State → State) (cond : Bool) (s : State) (k : Unit → Out) : Out :=
  let limit := (sReg s.sl 25).toNat % 2 ^ 32
  match waitTest s limit cond with
  | none => .next (s.hold .factor limit)
  | some true => .next (late (s.deliverP 7 true 1))
  | some false => k ()

/-- The same for a matrix slot, which steps MPC (R78). -/
def factorHold (cond : Bool) (s : State) (k : Unit → Out) : Out := holdFor mpcStep cond s k

/-- What every instruction that may hold writes when it proceeds. -/
def heldOk (s : State) : State := s.deliverP 7 false 1

/-! ## Reads at issue that may be late (R16, R239) -/

/-- The first of some addresses whose translation is not there, and what its look-up comes to. -/
def pageStop (f : Addr → Look) (l : List Addr) : Option (Addr × Look) :=
  l.findSome? fun va => match f va with
    | .ok _ _ _ => none
    | r => some (va, r)

/-- Bytes of virtual memory read at issue. -/
structure Gather where
  s : State
  bytes : List Byte
  late : Bool
  bad : Option Nat

/-- One translated byte, as a global load of a slot of core `c` reads it: late until its line is there, or while a sibling's hold
keeps it (log 14). -/
def readByte (c : Nat) (b : Bool) (g : Gather) (x : Look) : Gather :=
  match x with
  | .ok pa attr t =>
    let p := pa.toNat
    let s := fillTlb g.s (clusterOf c) (dieOf c) t
    let there := canRead s c p attr
    let s := if there then (readLine s c p attr).1 else askLine s c p attr
    { s := s
      bytes := g.bytes ++ [BitVec.ofNat 8 (laneN (loadLine s c b p) (p % 256) 8)]
      late := g.late || !there
      bad := g.bad <|> if s.poisoned p then some (lineOf p) else none }
  | _ => g

/-- Translated bytes, read in turn. -/
def readBytes (s : State) (c : Nat) (b : Bool) (l : List Look) : Gather := l.foldl (readByte c b) ⟨s, [], false, none⟩

/-! ## Block scales (R52, R143, R239) -/

def kdimOf (t : TidEnt) : Nat := gttN t.gtt 13 10

/-- The k origin: that of dimension NDIM − 1 of A's entry. -/
def kOrg (t : TidEnt) : Int := (vget t.org (t.ndim.toNat - 1) 0).toInt

/-- The scale rules of one operand, whose k dimension is NDIM − `back`. -/
def scaleOk (t : TidEnt) (back : Nat) (k0 : Int) : Bool :=
  t.scbase == 0 || (decide (2 ≤ t.ndim.toNat) && kdimOf t == t.ndim.toNat - back && k0 % 32 == 0)

/-- The scale byte's address for index `ix` of the tensor. -/
def scaleAddr (t : TidEnt) (ix : Nat → Int) : Addr :=
  let kd := kdimOf t
  let x := (List.range t.ndim.toNat).foldl (fun (acc : Int) d =>
    let ext := gttExt t.gtt d
    acc * ((if d = kd then cdiv ext 32 else ext : Nat) : Int) + (if d = kd then ix d / 32 else ix d)) 0
  t.scbase + BitVec.ofInt 52 x

/-- The addresses of an operand's scales, element by element, chunks within; none without block scales. -/
def scaleAddrs (t : TidEnt) (back n : Nat) (k0 : Int) : List Addr :=
  if t.scbase = 0 then []
  else
    let other := if back = 1 then t.ndim.toNat - 2 else t.ndim.toNat - 1
    (List.range (64 * n)).map fun e =>
      scaleAddr t fun d =>
        let o := (vget t.org d 0).toInt
        if d = kdimOf t then k0 + 32 * (e % n : Nat) else if d = other then o + (e / n : Nat) else o

/-! ## Factors at the array (R240, R261, R262) -/

/-- Whether A's record holds a column shift. -/
def hasTau (o : MOp) : Bool := !(o.fA.ch.toList.all ShiftSlot.isId)

/-- FXSHIFT: σ of A or B, or τ of B, is not identity. -/
def badShift (o : MOp) : Bool :=
  !(o.fA.rh.toList.all ShiftSlot.isId && o.fB.rh.toList.all ShiftSlot.isId && o.fB.ch.toList.all ShiftSlot.isId)

/-- Every slot that the product applies is constant: the inner slots of the k range, and κB beside a column shift. -/
def innerConst (o : MOp) : Bool :=
  ((List.range (min 64 o.k)).all fun k => (csAt o.fA k).const && (chAt o.fA k).const && (rsAt o.fB k).const) &&
  (!hasTau o || o.fB.cs.toList.all ScaleSlot.const)

/-- FXFMT of R262: an integer B under a pre-pass factor that is known and is not 1. -/
def badInner (o : MOp) : Bool :=
  (fmtInt o.fb).isSome &&
  (List.range (min 64 o.k)).any fun k => (csAt o.fA k).const && (rsAt o.fB k).const && !isOne (preFactor o k)

/-- C's column shift from c2(j), B's planes as they stand now: the slots, their causes, a poisoned row read. -/
def colShift (s : State) (c : Nat) (o : MOp) : Vector ShiftSlot 64 × List Cause × Option Nat :=
  let p := planeP o.fb
  let (rows, bad) := arrReads s c o.rowB (cdiv o.k 32 * p)
  let arr := rows.toArray
  let slot (j : Nat) : ShiftSlot × List Cause :=
    let terms := (List.range o.k).map fun k =>
      let bits := (List.range p).map fun x => (arr.getD (k / 32 * p + x) 0).getLsbD (32 * j + k % 32)
      let (w, k1) := mulFV (fv64 (chAt o.fA (k % 64)).val) (fv64 (rsAt o.fB (k % 64)).coef)
      let (v, k2) := mulFV w (fromPlanes o.fb (fmtM o.fb) bits)
      (v, [k1, k2])
    let (c2, k3) := sumFV (terms.map Prod.fst) .zero
    let (v, k4) := mulFV (fv64 (csAt o.fB j).coef) c2
    let (x, k5) := encSlot v
    (⟨x, 0, false, 0⟩, terms.foldl (fun acc t => acc ++ t.2) [] ++ k3 ++ [k4, k5])
  let l := (List.range 64).map slot
  (.ofFn fun j => (l.getD j.val (.zero, [])).1, l.foldl (fun acc e => acc ++ e.2) [], bad)

/-- The product's outer factors: the record, its causes, a poisoned row read. -/
def outerFactors (s : State) (c : Nat) (o : MOp) : FRec × List Cause × Option Nat :=
  if hasTau o then
    let (ch, ks, bad) := colShift s c o
    (⟨o.fA.rs, o.fB.cs, FRec.identity.rh, ch⟩, ks, bad)
  else (⟨o.fA.rs, o.fB.cs, FRec.identity.rh, FRec.identity.ch⟩, [], none)

/-- The accumulator's record adopts the product's factors, or equals them; none is MXFACT. -/
def adoptRec (sl : Slot) (d : Nat) (r : FRec) : Option Slot :=
  if vget sl.adopt d true then some { (sl.setFrec (24 + d) r) with adopt := vset sl.adopt d false }
  else if sl.frec (24 + d) = r then some sl else none

/-! ## MMA, MMAS, MMAT and KAT (R234 to R239, R247) -/

/-- The operation as its slot names it, with the records of its tiles as they stand. -/
def arrOp (s : State) (i : Instr) (ta tb : BitVec 6) (mA mB k : Nat) (mdw : BitVec 32) : MOp :=
  let sl := s.sl
  let a := sl.tid ta.toNat
  let b := sl.tid tb.toNat
  let o := { blankOp s i with
    rowA := (sReg sl 30).toNat
    rowB := (sReg sl 31).toNat
    mA := if mA = 0 then fmtM a.fmt.toNat else mA
    mB := if mB = 0 then fmtM b.fmt.toNat else mB
    k := k
    tA := a
    tB := b
    fA := tileRec sl a
    fB := tileRec sl b
    mdw := mdw }
  { o with occ := chunkOcc o }

/-- The runs of rows that the operation reads. -/
def arrRows (o : MOp) : List (Nat × Nat) :=
  let n := nChunks o
  [(o.rowA, (if o.kind == .mmas then 1 else n) * planeP o.fa), (o.rowB, n * planeP o.fb)] ++
  (if o.kind == .mmas then [(bitsN o.mdw.toNat 12 0, if o.mdw.getLsbD 13 then 1 else 2)] else [])

def badPrec (fmt m : Nat) : Bool := m != 0 && ((fmtInt fmt).isSome || decide (fmtM fmt < m))

/-- The checks of R254 from MXPAIR to MXSCALE. `mA` and `mB` are the declared widths. -/
def mxChecks (o : MOp) (d : BitVec 3) (mA mB : Nat) : Fail :=
  failIf (pairAcc o.fa o.fb).isNone 0x0401 0 <|>
  failIf ((pairAcc o.fa o.fb) == some .f64 && d.getLsbD 0) 0x0402 0 <|>
  failIf (badPrec o.fa mA || badPrec o.fb mB) 0x0403 0 <|>
  failIf (!(scaleOk o.tA 1 (kOrg o.tA) && scaleOk o.tB 2 (kOrg o.tA))) 0x0406 0

/-- The checks of a product that come before its hold (R275, log 62). -/
def mulChecks (s : State) (o : MOp) (ta tb : BitVec 6) : Fail :=
  chkFull s <|> chkTid s ta <|> chkTid s tb <|>
  failIf (badInner o) 0x0410 0 <|> failIf (badShift o) 0x0412 0 <|> chkRows (arrRows o)

/-- The checks of KAT, which takes no factors (R254). -/
def katChecks (s : State) (o : MOp) (ta tb : BitVec 6) (d : BitVec 3) : Fail :=
  chkFull s <|> chkTid s ta <|> chkTid s tb <|> mxChecks o d 0 0 <|> chkRows (arrRows o)

/-- The scale bytes' addresses of an operation: A's, then B's. -/
def opScales (o : MOp) (n : Nat) : List Addr × List Addr :=
  (scaleAddrs o.tA 1 n (kOrg o.tA), scaleAddrs o.tB 2 n (kOrg o.tA))

/-- The scales read, then the metadata fault; the rest of the issue follows where nothing is late. They are loads behind the
core's earlier accesses. -/
def withScales (o : MOp) (mdf : Fail) (s : State) (k : State → MOp → Out) : Out :=
  let (la, lb) := opScales o (nChunks o)
  let c := s.cur
  let f := look s c s.sl.asn s.sl.sup .rd
  if la.isEmpty && lb.isEmpty then orTrap mdf s fun _ => k s o
  else if pendingAcc s.me then .next (s.freezeAt 1 .access)
  else
    match pageStop f (la ++ lb) with
    | some (va, .fault x) => .next ((seeRefusal s s.sl.asn va).trap x (va.setWidth 64) 2)
    | some (va, r) => .next ((lookFor s c none s.sl.asn va .rd r).freezeAt 1 (.page va))
    | none =>
      let g := readBytes s c s.me.ctx ((la ++ lb).map f)
      match g.bad with
      | some p => .next (s.consume p)
      | none =>
        orTrap mdf s fun _ =>
          if g.late then .next (g.s.freezeAt 1 .access)
          else k g.s { o with
            scA := g.bytes.take la.length
            scB := g.bytes.drop la.length }

/-- MMA, MMAS or MMAT with its guard true (R236 to R240, R262). -/
def mulSlot (o : MOp) (ta tb : BitVec 6) (d : BitVec 3) (mA mB : Nat) (mdf : Fail) (s : State) : Out :=
  orTrap (mulChecks s o ta tb) s fun _ =>
    factorHold (innerConst o) s fun _ =>
      orTrap (failIf (badInner o) 0x0410 0 <|> mxChecks o d mA mB) s fun _ =>
        let (r, ks, bad) := outerFactors s s.cur o
        match bad, adoptRec s.sl d.toNat r with
        | some p, _ => .next (s.consume p)
        | none, none => .next (s.trap 0x0404 0 2)
        | none, some sl =>
          withScales o mdf s fun s o => .next (mpcStep (heldOk (((s.setSl sl).enqueue o).sticky ks)))

def precOf (p : Option (BitVec 6 × BitVec 6)) : Nat × Nat :=
  match p with
  | some (a, b) => (a.toNat, b.toNat)
  | none => (0, 0)

def execMma (o : OpMma) (s : State) : Out :=
  if !guardOn s o.g then .next (mpcStep s)
  else
    let (mA, mB) := precOf o.prec
    mulSlot (arrOp s (.mma o) o.ta o.tb mA mB 32 0) o.ta o.tb o.d mA mB none s

/-- The word at MPC, fetched through the metadata cache (R84, R182). -/
def metaWord (s : State) : Fetched (State × BitVec 32) :=
  (fetchAddr s s.cur (s.sl.mpc.setWidth 52)).bind fun (t, pa) =>
    .ok ((fillTlb s (clusterOf s.cur) (dieOf s.cur) t).modMe fun k => { k with mcache := fillCache s mcLines k.mcache pa },
      cachedWord s s.me.mcache pa)

/-- MMAS reads its metadata word; a malformed word is illegal, and a fetch fault is the last check. -/
def execMmas (o : OpMma) (s : State) : Out :=
  if !guardOn s o.g then .next (mpcStep s)
  else
    let (mA, mB) := precOf o.prec
    match metaWord s with
    | .bad e => mulSlot (arrOp s (.mmas o) o.ta o.tb mA mB 64 0) o.ta o.tb o.d mA mB (some (e.1, s.sl.mpc.toNat)) s
    | .wait va =>
      .next ((lookFor s s.cur none s.sl.asn va .ex (look s s.cur s.sl.asn s.sl.sup .ex va)).freezeAt 0 (.page va))
    | .ok (s', w) =>
      if !w.getLsbD 14 ∨ w.extractLsb' 15 17 ≠ 0 then .next s.badMeta
      else mulSlot (arrOp s (.mmas o) o.ta o.tb mA mB 64 w) o.ta o.tb o.d mA mB none s'

def execMmat (o : OpMmat) (s : State) : Out :=
  if !guardOn s o.g then .next (mpcStep s)
  else mulSlot (arrOp s (.mmat o) o.ta o.tb o.mA.toNat o.mB.toNat (o.k1.toNat + 1) 0) o.ta o.tb o.d o.mA.toNat o.mB.toNat none s

/-- KAT takes no factors and holds for none (R240, R247). -/
def execKat (o : OpKat) (s : State) : Out :=
  if !guardOn s o.g then .next (mpcStep s)
  else
    let op := { arrOp s (.kat o) o.ta o.tb 0 0 32 0 with
      fA := .identity
      fB := .identity }
    orTrap (katChecks s op o.ta o.tb o.d) s fun _ =>
      withScales op none s fun s op => .next (mpcStep (s.enqueue op))

/-! ## Accumulator instructions (R240, R245) and MPCSET (R246) -/

/-- The accumulator's record becomes identity, its ADOPT bit `b`. -/
def resetAccRec (sl : Slot) (d : Nat) (b : Bool) : Slot :=
  { (sl.setFrec (24 + d) .identity) with adopt := vset sl.adopt d b }

/-- The operation of the three instructions over rows from `x`. -/
def accOp (s : State) (i : Instr) (x occ : Nat) : MOp :=
  { blankOp s i with
    rowA := x
    occ := occ }

def execAclr (o : OpAclr) (s : State) : Out :=
  orTrap (chkFull s) s fun _ =>
    .next (mpcStep ((s.modSl fun sl => resetAccRec sl o.d.toNat true).enqueue (accOp s (.aclr o) 0 1)))

def execAccld (o : OpAcc) (s : State) : Out :=
  let x := (rowIx s o.a (.off o.o)).toNat
  orTrap (chkFull s <|> chkRows [(x, 64)]) s fun _ =>
    .next (mpcStep ((s.modSl fun sl => resetAccRec sl o.d.toNat false).enqueue (accOp s (.accld o) x 64)))

def execAccst (o : OpAcc) (s : State) : Out :=
  let x := (rowIx s o.a (.off o.o)).toNat
  orTrap (chkFull s <|> chkRows [(x, 64)]) s fun _ => .next (mpcStep (s.enqueue (accOp s (.accst o) x 64)))

def execMpcset (o : OpB) (s : State) : Out :=
  .next (s.modSl fun sl => { sl with mpc := opndS s o.b &&& 0x000FFFFFFFFFFFFC })

end Sys2Proof.Machine
end

