-- ==== Sys2Proof/Machine/Chan.lean ====
section
/-!
DEFINITION. Chan.lean: barrier objects (R163, R164), and the copy channels: what one row of a command reads and writes, its
faults, its completion and its follow-on (R79, R117 to R120, R152, R153, R249, R250, R285 to R293).
-/
namespace Sys2Proof.Machine

/-! ## Barrier objects (R149, R163, R164) -/

def Barrier.zero : Barrier := ⟨0, 0, 0, 0, false⟩
def barAt (s : State) (d i : Nat) : Barrier := tget (s.die d).barriers i .zero
def setBar (s : State) (d i : Nat) (b : Barrier) : State := s.modDie d fun x => { x with barriers := tput x.barriers i b }

/-- The slice evaluates the entry after an operation. -/
def barEval (b : Barrier) : Barrier :=
  if !b.poison && b.arr == b.exp && b.pend == 0 then
    { b with
      phase := b.phase + 1
      arr := 0 }
  else b

/-- An arrival with bytes: none where ARR = EXP or PEND would overflow. -/
def barArrive (b : Barrier) (bytes : Nat) : Option Barrier :=
  if b.arr = b.exp ∨ 2 ^ 56 ≤ b.pend.toNat + bytes then none
  else some (barEval { b with
    arr := b.arr + 1
    pend := b.pend + BitVec.ofNat 56 bytes })

/-- The bytes of a bound copy: none where PEND would overflow. -/
def barAdd (b : Barrier) (bytes : Nat) : Option Barrier :=
  if 2 ^ 56 ≤ b.pend.toNat + bytes then none else some (barEval { b with pend := b.pend + BitVec.ofNat 56 bytes })

/-- Bytes that have landed, or that a fault has lost. -/
def barLand (b : Barrier) (bytes : Nat) (fault : Bool) : Barrier :=
  barEval { b with
    pend := b.pend - BitVec.ofNat 56 bytes
    poison := b.poison || fault }

/-- REARM: none where PEND is not 0. -/
def barRearm (b : Barrier) (exp : BitVec 16) : Option Barrier :=
  if b.pend ≠ 0 then none
  else some { b with
    exp := exp
    arr := 0
    poison := false }

/-- What an operation of a core does at its barrier; none where it is refused. -/
def barOp (b : Barrier) : BarOp → Option Barrier
  | .arrive n => barArrive b n
  | .rearm e => barRearm b e
  | .add n => barAdd b n

/-- The barrier that an arrival is for. -/
def Arrival.bar : Arrival → Option (Nat × Nat)
  | .barr d i _ _ => some (d, i)
  | .bop d i _ _ => some (d, i)
  | .rel .. => none

/-- An entry once an arrival for it has come. -/
def barNext (b : Barrier) : Arrival → Barrier
  | .barr _ _ n fault => barLand b n fault
  | .bop _ _ op _ => (barOp b op).getD b
  | .rel .. => b

/-- What is on its way to a barrier, in the order in which it arrives (R163). -/
def barQueue (s : State) (d i : Nat) : List Arrival := (s.die d).arrivals.filter fun a => a.bar == some (d, i)

/-- An operation of a core goes to its barrier: it takes effect at once where its earlier accesses have performed and nothing
else is on its way there, else behind what is (R163, R304); none where it is refused. -/
def sendBar (s : State) (d i : Nat) (op : BarOp) (g : Gate) : Option State :=
  (barOp ((barQueue s d i).foldl barNext (barAt s d i)) op).map fun b =>
    if (barQueue s d i).isEmpty && s.passes g then setBar s d i b
    else s.modDie d fun x => { x with arrivals := x.arrivals ++ [.bop d i op g] }

/-- Whether an arrival's earlier accesses have performed. -/
def Arrival.passes (s : State) : Arrival → Bool
  | .bop _ _ _ g => s.passes g
  | .rel _ _ _ _ core b q => settledBefore (s.core core) b q
  | .barr .. => true

/-- An arrival comes to its barrier. -/
def landBar (s : State) (d : Nat) (a : Arrival) : State :=
  match a.bar with
  | some (e, i) => setBar (s.modDie d fun x => { x with arrivals := x.arrivals.erase a }) e i (barNext (barAt s e i) a)
  | none => s

/-- What can arrive at the barriers of a die arrives, for each barrier in order. -/
def landBars (s : State) (d : Nat) : State :=
  ((s.die d).arrivals.foldl (fun (acc : State × List (Nat × Nat)) a => match a.bar with
    | none => acc
    | some k => if acc.2.contains k || !a.passes acc.1 then (acc.1, k :: acc.2) else (landBar acc.1 d a, acc.2)) (s, [])).1

/-- Bytes on their way to the slice of a barrier. -/
def sendLanding (s : State) (d i bytes : Nat) (fault : Bool) : State :=
  s.modDie d fun x => { x with arrivals := x.arrivals ++ [.barr d i bytes fault] }

/-! ## Endpoints and rows (R285, R286) -/

def endSp (r : Word) : Bool := r.getLsbD 63
def endRm (r : Word) : Bool := r.getLsbD 62
def endBase (r : Word) : Nat := r.toNat % 8192
def endCore (r : Word) (own : Nat) : Nat := if endRm r then bitsN r.toNat 25 16 else own

def shpAt (t : TidEnt) (d : Nat) : Nat := (vget t.shp d 0).toNat
def orgAt (t : TidEnt) (d : Nat) : Int := (vget t.org d 0).toInt
def innerD (t : TidEnt) : Nat := t.ndim.toNat - 1
def eltW (t : TidEnt) : Nat := fmtWidth t.fmt.toNat
/-- Q, the run length in bytes, and ρ. -/
def runQ (t : TidEnt) : Nat := (List.range (innerD t)).foldl (fun acc d => acc * shpAt t d) 1
def runB (t : TidEnt) : Nat := cdiv (shpAt t (innerD t) * eltW t) 8
def runRho (t : TidEnt) : Nat := cdiv (runB t) 256
def copyRows (t : TidEnt) : Nat := runQ t * runRho t
def copyBytes (t : TidEnt) : Nat := cdiv (runQ t * shpAt t (innerD t) * eltW t) 8

/-- Where a run lies in memory: the bit address of its element 0, and the elements inside the tensor. -/
structure Span where
  bit : Int
  lo : Int
  hi : Int

/-- Run q of a tile in memory; none where an outer index lies outside the tensor. -/
def memSpan (t : TidEnt) (q : Nat) : Option Span :=
  let n := innerD t
  let step (acc : Option (Int × Nat)) (d : Nat) : Option (Int × Nat) :=
    match acc with
    | none => none
    | some (a, q) =>
      let x : Int := (q % shpAt t d : Nat) + orgAt t d
      if 0 ≤ x ∧ x < (gttExt t.gtt d : Int) then some (a + x * gttStr t.gtt d, q / shpAt t d) else none
  match (List.range n).reverse.foldl step (some ((gttN t.gtt 115 64 : Int), q)) with
  | none => none
  | some (a, _) =>
    let o := orgAt t n
    some ⟨8 * a + o * (eltW t : Int), max 0 (-o), min (shpAt t n : Int) ((gttExt t.gtt n : Int) - o)⟩

/-- A bit range of virtual memory, cut at lines: address, bit offset, bits. -/
def bitPieces : Nat → Nat → Nat → List (Nat × Nat × Nat)
  | 0, _, _ => []
  | f + 1, bit, n =>
    if n = 0 then []
    else
      let va := bit / 8 % 2 ^ 52
      let off := bit % 8
      let take := min n (8 * (256 - va % 256) - off)
      (va, off, take) :: bitPieces f (bit + take) (n - take)

def bitsOf (x : Int) : Nat := (x % (8 * 2 ^ 52 : Int)).toNat

/-! ## A channel's accesses (R98, R117, R290) -/

/-- What a channel's access comes to: done, a fault with its ECODE and address, a walk or a page of the host to wait for. -/
inductive ERes (α : Type) where
  | ok (x : α)
  | bad (ecode : BitVec 8) (addr : Word)
  | wait (va : Addr) (k : Kind) (l : Look)

def ERes.bind {α β : Type} (x : ERes α) (f : α → ERes β) : ERes β :=
  match x with
  | .ok a => f a
  | .bad e a => .bad e a
  | .wait v k l => .wait v k l

/-- ECODE of a translation fault: 0x20 to 0x23. -/
def xEcode (f : XFault) : BitVec 8 := BitVec.ofNat 8 (0x20 + (f.toNat - 0x201))

/-- A channel: its core, its number, the command. -/
structure ChanCtx where
  c : Nat
  n : Nat
  cmd : Cmd

/-- A channel's translation of `n` bytes: a miss takes a walker as a core's does, whose fault is its own (R99); a page that the
host refuses faults (R290), and so does an access at task level to a SUP field (R7). -/
def chanXlate (s : State) (x : ChanCtx) (k : Kind) (va n : Nat) : ERes Nat :=
  let a : Addr := BitVec.ofNat 52 va
  let mine : Option (BitVec 16) := if x.cmd.ask = some a then x.cmd.askf else none
  if let some f := mine then .bad (xEcode f) (BitVec.ofNat 64 va)
  else if (tlbFind s (clusterOf x.c) (dieOf x.c) x.cmd.asn a).isNone && (x.cmd.ask != some a || walking s x.c x.cmd.asn a) then
    .wait a k .walk
  else
    match xlateU s x.c (chanMaster x.c x.n) x.cmd.asn x.cmd.sup k a with
    | .ok pa _ _ => if ctlBytes s x.cmd.sup k pa.toNat n then .bad 0x23 (BitVec.ofNat 64 va) else .ok pa.toNat
    | .fault f => .bad (xEcode f) (BitVec.ofNat 64 va)
    | .ask => .wait a k .ask

/-- Bytes at a physical address as the command reads them: a line of which it must not see a withheld store, as it was when
the first such store was published. -/
def chanBytes (s : State) (cmd : Cmd) (pa n : Nat) : Nat :=
  match cmd.old.find? fun e => e.1 == lineOf pa with
  | some e => e.2.toNat >>> (8 * (pa % 256)) % 2 ^ (8 * n)
  | none => s.rdPA pa n

/-- Bits of virtual memory from a bit address, with their poison. -/
def chanRead (s : State) (x : ChanCtx) (bit : Int) (n : Nat) : ERes (Nat × Bool) :=
  ((bitPieces (n + 1) (bitsOf bit) n).foldl (fun (acc : ERes (Nat × Nat × Bool)) p =>
    acc.bind fun (v, got, bad) =>
      (chanXlate s x .rd p.1 (cdiv (p.2.1 + p.2.2) 8)).bind fun pa =>
        let raw := chanBytes s x.cmd pa (cdiv (p.2.1 + p.2.2) 8)
        .ok (v + (raw >>> p.2.1 % 2 ^ p.2.2) <<< got, got + p.2.2, bad || s.poisoned pa)) (.ok (0, 0, false))).bind
    fun (v, _, bad) => .ok (v, bad)

/-- The parts that bits from a bit address write. -/
def chanParts (s : State) (x : ChanCtx) (bit : Int) (n v : Nat) : ERes (List Part) :=
  ((bitPieces (n + 1) (bitsOf bit) n).foldl (fun (acc : ERes (List Part × Nat)) p =>
    acc.bind fun (l, v) =>
      (chanXlate s x .wr p.1 (cdiv (p.2.1 + p.2.2) 8)).bind fun pa =>
        .ok (l ++ [⟨pa, cdiv (p.2.1 + p.2.2) 8, (v % 2 ^ p.2.2) <<< p.2.1, (2 ^ p.2.2 - 1) <<< p.2.1⟩], v >>> p.2.2))
    (.ok ([], v))).bind fun r => .ok r.1

/-- A row of a scratchpad endpoint; another core's is reached through its window, under its access table. -/
def spadAt (s : State) (x : ChanCtx) (rm : Bool) (k : Kind) (tc row : Nat) : ERes Nat :=
  let pa := spadRow tc row
  if rm && !accOk s (chanMaster x.c x.n) k pa then .bad 0x23 (BitVec.ofNat 64 pa) else .ok pa

/-- Elements a to b − 1 of run q of an endpoint, element a lowest, with their poison. -/
def readRun (s : State) (x : ChanCtx) (r : Word) (t : TidEnt) (q a b : Nat) : ERes (Nat × Bool) :=
  let w := eltW t
  if b ≤ a then .ok (0, false)
  else if endSp r then
    let r0 := a * w / 2048
    let r1 := cdiv (b * w) 2048
    ((List.range (r1 - r0)).foldl (fun (acc : ERes (Nat × Bool)) i =>
      acc.bind fun (v, bad) =>
        (spadAt s x (endRm r) .rd (endCore r x.c) (endBase r + q + (r0 + i) * runQ t)).bind fun pa =>
          .ok (v + rdN s.mem pa 256 <<< (2048 * i), bad || s.poisoned pa)) (.ok (0, false))).bind fun (v, bad) =>
      .ok (v >>> (a * w - 2048 * r0) % 2 ^ ((b - a) * w), bad)
  else
    match memSpan t q with
    | none => .ok (0, false)
    | some sp =>
      let lo := (max sp.lo (a : Int)).toNat
      let hi := (min sp.hi (b : Int)).toNat
      if hi ≤ lo then .ok (0, false)
      else (chanRead s x (sp.bit + (lo * w : Nat)) ((hi - lo) * w)).bind fun (v, bad) => .ok (v <<< ((lo - a) * w), bad)

/-- Elements of the source resolved into the target's format, and the causes of that (R55, R255, R291). -/
def resolveRun (cmd : Cmd) (q a n v : Nat) : Nat × List Cause :=
  let w := eltW cmd.tA
  let cs := (List.range n).map fun i => v >>> (w * i) % 2 ^ w
  let (vs, ks) := unpackRun cmd.tA.fmt.toNat cmd.tA.xval.toNat cs
  let i := q % shpAt cmd.tA (innerD cmd.tA - 1) % 64
  let l := vs.zipIdx.map fun e =>
    let (x, k1) := lval cmd.fA i ((a + e.2) % 64) e.1
    let (y, k2) := encodeF (fmtFF cmd.tB.fmt.toNat) .rne x
    (y, k1 ++ [k2])
  (l.foldr (fun y acc => (acc <<< eltW cmd.tB) + y.1) 0, l.foldl (fun acc y => acc ++ y.2) ks)

/-- What a row does: the bytes it covers, the parts it writes, their poison, its arithmetic causes. -/
structure RowOut where
  bytes : Nat
  parts : List Part
  poison : Bool
  causes : List Cause

/-- Writes `n` bytes of a scratchpad row. -/
def spadPart (pa n v : Nat) : Part := ⟨pa, n, v % 2 ^ (8 * n), 2 ^ (8 * n) - 1⟩

/-- Row k of a CPY, or of a CPYM to receiver `rc`. -/
def copyRow (s : State) (x : ChanCtx) (rc : Nat) (k : Nat) : ERes RowOut :=
  let cmd := x.cmd
  let t := cmd.tB
  let q := k % runQ t
  let r := k / runQ t
  let w := eltW t
  let lr := min 256 (runB t - 256 * r)
  let x0 := 2048 * r / w
  let x1 := min (shpAt t (innerD t)) ((2048 * r + 8 * lr) / w)
  (readRun s x cmd.src cmd.tA q x0 x1).bind fun (v, bad) =>
    let (v, ks) := if cmd.res then resolveRun cmd q x0 (x1 - x0) v else (v, [])
    if endSp cmd.dst then
      (spadAt s x (endRm cmd.dst || rc != x.c) .wr rc (endBase cmd.dst + q + r * runQ t)).bind fun pa =>
        .ok ⟨lr, [spadPart pa lr v], bad, ks⟩
    else
      match memSpan t q with
      | none => .ok ⟨lr, [], bad, ks⟩
      | some sp =>
        let lo := (max sp.lo (x0 : Int)).toNat
        let hi := (min sp.hi (x1 : Int)).toNat
        if hi ≤ lo then .ok ⟨lr, [], bad, ks⟩
        else (chanParts s x (sp.bit + (lo * w : Nat)) ((hi - lo) * w) (v >>> ((lo - x0) * w))).bind fun ps => .ok ⟨lr, ps, bad, ks⟩

/-! ## Sequences (R152, R153, R293) -/

/-- A block's PBN, from the table as it stands, and the buffer's entries after the look-up (R153). -/
def lookBlock (s : State) (x : ChanCtx) (b : Nat) : ERes (BitVec 24 × State) :=
  let cl := clusterOf x.c
  let va := x.cmd.table.toNat + 4 * b
  let absent : ERes (BitVec 24 × State) := .bad 0x24 (BitVec.ofNat 64 (va % 2 ^ 52))
  if x.cmd.blocks ≤ b then absent
  else
    (chanXlate s x .rd x.cmd.desc.toNat 64).bind fun dpa =>
      let d : Addr := BitVec.ofNat 52 dpa
      let touch (p : BitVec 24) : State := s.modCluster cl fun k =>
        { k with btb := (⟨d, b, p, 0⟩ :: k.btb.filter fun e => !(e.desc == d && e.block == b)).take 256 }
      match (s.cluster cl).btb.find? fun e => e.desc == d && e.block == b with
      | some e => .ok (e.pbn, touch e.pbn)
      | none =>
        (chanRead s { x with cmd := { x.cmd with old := [] } } (8 * (va : Int)) 32).bind fun (e, _) =>
          if e.testBit 31 then .ok (BitVec.ofNat 24 e, touch (BitVec.ofNat 24 e)) else absent

/-- Row k of a GATH or SCAT. -/
def tokenRow (s : State) (x : ChanCtx) (k : Nat) : ERes (RowOut × State) :=
  let cmd := x.cmd
  let rt := cdiv cmd.tokb 256
  let u := k / rt
  let r := k % rt
  let t := cmd.toks.getD u 0
  let lr := min 256 (cmd.tokb - 256 * r)
  if 2 ^ 31 ≤ t then .bad 0x24 (BitVec.ofNat 64 ((cmd.table.toNat + 4 * (t / 16)) % 2 ^ 52))
  else
    (lookBlock s x (t / 16)).bind fun (p, s') =>
      let va := cmd.pool.toNat + p.toNat * 16 * cmd.tokb + t % 16 * cmd.tokb + 256 * r
      match cmd.kind with
      | .scat =>
        let pa := spadRow x.c (endBase cmd.src + u * rt + r)
        (chanParts s x (8 * (va : Int)) (8 * lr) (rdN s.mem pa lr)).bind fun ps => .ok (⟨lr, ps, s.poisoned pa, []⟩, s')
      | _ =>
        (chanRead s x (8 * (va : Int)) (8 * lr)).bind fun (v, bad) =>
          .ok (⟨lr, [spadPart (spadRow x.c (endBase cmd.dst + u * rt + r)) lr v], bad, []⟩, s')

/-- What GATH and SCAT read when they start: the descriptor and the index tile; a span outside 0 to 8191 faults. -/
def startTokens (s : State) (x : ChanCtx) : ERes Cmd :=
  let cmd := x.cmd
  (chanRead s x (8 * (cmd.desc.toNat : Int)) 512).bind fun (d, _) =>
    let n := shpAt cmd.tB 0
    (readRun s x 0 cmd.tB 0 0 n).bind fun (v, _) =>
      let tokb := bitsN d 175 160
      let rows := n * cdiv tokb 256
      let base := endBase (if cmd.kind == .scat then cmd.src else cmd.dst)
      if 8192 < base + rows then .bad 0x25 (BitVec.ofNat 64 (max base 8192))
      else .ok { cmd with
        table := BitVec.ofNat 52 (bitsN d 51 0)
        pool := BitVec.ofNat 52 (bitsN d 115 64)
        blocks := bitsN d 159 128
        tokb := tokb
        toks := (List.range n).map fun i => v >>> (32 * i) % 2 ^ 32
        rows := rows
        st := .running }

/-! ## Running a channel (R79, R119, R288, R290) -/

def chanOf (s : State) (c n : Nat) : Chan := vget (s.core c).chans n ⟨[], false⟩
def modChan (s : State) (c n : Nat) (f : Chan → Chan) : State :=
  s.modCore c fun k => { k with chans := vset k.chans n (f (vget k.chans n ⟨[], false⟩)) }
/-- Replaces the head command. -/
def setHead (s : State) (c n : Nat) (cmd : Cmd) : State :=
  modChan s c n fun ch => { ch with q := cmd :: ch.q.tail }

/-- Write pointers of a core that follow a command count a landed row. -/
def countRow (s : State) (c n id : Nat) : State :=
  let step (sl : Slot) : Slot := if vget sl.wpo n 0 = id then { sl with wp := vset sl.wp n (vget sl.wp n 0 + 1) } else sl
  s.modCore c fun k => { k with slot0 := step k.slot0, slot1 := step k.slot1 }

/-- Write pointers of a slot start to follow a command. -/
def followCmd (sl : Slot) (n id : Nat) : Slot :=
  { sl with
    wp := vset sl.wp n 0
    wpo := vset sl.wpo n id }

/-- The cores that a CPYM delivers to. -/
def receivers (c : Nat) (recv : BitVec 8) : List Nat :=
  ((List.range 8).filter fun i => recv.getLsbD i).map fun i => 8 * clusterOf c + i

/-- The causes of a resolving copy go to the record of its slot position while its step holds the slot (R55, R291). -/
def noteCauses (s : State) (c : Nat) (cmd : Cmd) (ks : List Cause) : State :=
  if (ks.any (· != 0)) && ((s.core c).slotOf cmd.slot).task == cmd.task then
    modSlotOf s c cmd.slot fun sl => stickyAt sl cmd.pos cmd.baddr ks
  else s

/-- A row's outcome applied: written at once in streamed mode, else into the shadow store; a row delivered counts as event 7
(R168). -/
def landRow (s : State) (c n : Nat) (cmd : Cmd) (tcs : List Nat) (outs : List RowOut) : State :=
  let s := outs.foldl (fun s o =>
    if cmd.strm then o.parts.foldl (fun s p => engineWrite s (chanMaster c n) o.poison p) s
    else s.modCore c fun k => { k with shrows := k.shrows ++
      [⟨cmd.slot, cmd.task, cmd.tid, BitVec.ofNat 2 n |>.toFin, cmd.seg, false, cmd.id, o.parts, o.poison⟩] }) s
  let s := if cmd.strm then tcs.foldl (fun s tc => countRow s tc n cmd.id) s else s
  let s := outs.foldl (fun s o => noteCauses s c cmd o.causes) (s.modCore c fun k => countEvt k 7 outs.length)
  -- the rows together take off what the issue added, also where runs end inside a byte
  let lr := if cmd.row + 1 = cmd.rows then cmd.left else min cmd.left ((outs.head?.map RowOut.bytes).getD 0)
  let s := match cmd.bar with
    | some i => sendLanding s (dieOf c) i lr false
    | none => s
  setHead s c n { cmd with
    row := cmd.row + 1
    left := cmd.left - lr
    ask := none
    askf := none }

/-- Whether a store that the command must see has still to perform: one of a closed segment, older than it (R117); or an older
publication (R118). -/
def storesAhead (k : Core) (cmd : Cmd) : Bool :=
  (k.withheld.any fun h => h.closed && decide (h.seq < cmd.after) && !cmd.blind.contains h.seq) ||
  pubBefore k cmd.slot cmd.after

/-- The head command stopped by a fault; a refusal of the host has then been seen. -/
def chanStop (s : State) (c n : Nat) (cmd : Cmd) (e : BitVec 8) (a : Word) : State :=
  setHead (match cmd.ask with
    | some va => seeRefusal s cmd.asn va
    | none => s) c n { cmd with bad := some (e, a) }

/-- The head command waits for a walk or for the host. -/
def chanWait (s : State) (c n : Nat) (cmd : Cmd) (va : Addr) (k : Kind) (l : Look) : State :=
  lookFor (setHead s c n { cmd with
    ask := some va
    askf := none }) c (some n) cmd.asn va k l

/-- One row of the running head command. -/
def rowStep (s : State) (c n : Nat) : State :=
  match (chanOf s c n).q with
  | [] => s
  | cmd :: _ =>
    if cmd.st ≠ .running ∨ cmd.bad.isSome ∨ cmd.rows ≤ cmd.row ∨ storesAhead (s.core c) cmd then s
    else
      let x : ChanCtx := ⟨c, n, cmd⟩
      match cmd.kind with
      | .cpy =>
        let tc := endCore cmd.dst c
        match copyRow s x tc cmd.row with
        | .ok o => landRow s c n cmd [c] [o]
        | .bad e a => chanStop s c n cmd e a
        | .wait va k l => chanWait s c n cmd va k l
      | .cpym recv =>
        let tcs := receivers c recv
        match tcs.foldl (fun (acc : ERes (List RowOut)) tc =>
          acc.bind fun l => (copyRow s x tc cmd.row).bind fun o => .ok (l ++ [o])) (.ok []) with
        | .ok l => landRow s c n cmd tcs l
        | .bad e a => chanStop s c n cmd e a
        | .wait va k l => chanWait s c n cmd va k l
      | _ =>
        match tokenRow s x cmd.row with
        | .ok (o, s) => landRow s c n cmd [c] [o]
        | .bad e a => chanStop s c n cmd e a
        | .wait va k l => chanWait s c n cmd va k l

/-- Unpublished shadow rows that the core's commands hold or will hold; a SCAT not started counts one row a token (log 66). -/
def shadowHeld (k : Core) : Nat :=
  k.shrows.length + k.chans.toList.foldl (fun acc ch =>
    acc + (ch.q.filter fun c => !c.strm).foldl (fun acc c => acc + (c.rows - c.row)) 0) 0

/-- The channel starts its next command, once the stores that it must see have performed. DESIGN CHOICE (log 66): a SCAT whose
rows, known now, have no room within the shadow limit waits for it. -/
def startCmd (s : State) (c n : Nat) : State :=
  match (chanOf s c n).q with
  | [] => s
  | cmd :: _ =>
    if cmd.st ≠ .queued ∨ cmd.bad.isSome ∨ storesAhead (s.core c) cmd then s
    else
      match cmd.kind with
      | .gath | .scat =>
        match startTokens s ⟨c, n, cmd⟩ with
        | .ok x =>
          if !cmd.strm && decide (8192 < shadowHeld (s.core c) - cmd.rows + x.rows) then s
          else setHead s c n { x with
            ask := none
            askf := none }
        | .bad e a => chanStop s c n cmd e a
        | .wait va k l => chanWait s c n cmd va k l
      | _ => setHead s c n { cmd with st := .running }

/-- The head command is complete: its shadow rows can be published from now on (R294). -/
def popCmd (s : State) (c n : Nat) : State :=
  match (chanOf s c n).q with
  | [] => s
  | cmd :: _ =>
    (modChan s c n fun ch => { ch with q := ch.q.tail }).modCore c fun k =>
      { k with shrows := k.shrows.map fun r => if r.cmd = cmd.id then { r with whole := true } else r }

/-- A post on its way to a flag of a core. -/
def sendPost (s : State) (core : Nat) (p : Post) : State := s.modCore core fun k => { k with rposts := k.rposts ++ [p] }

/-- After the last row: the flag is posted, by a post that waits for no access, and the command completes or waits for its follow-on. -/
def finishCmd (s : State) (c n : Nat) : State :=
  match (chanOf s c n).q with
  | [] => s
  | cmd :: _ =>
    if cmd.st ≠ .running ∨ cmd.bad.isSome ∨ cmd.row < cmd.rows then s
    else
      let s := match cmd.post with
        | some (core, flag) => sendPost s core ⟨flag, 1, ⟨c, cmd.slot, 0⟩⟩
        | none => s
      if cmd.follow.isSome then setHead s c n { cmd with st := .follow } else popCmd s c n

/-- A command that a fault has stopped: its rows, its barrier, its record, the fault flag. -/
def failCmd (s : State) (c n : Nat) (cmd : Cmd) (ecode : BitVec 8) (addr : Addr) : State :=
  let s := s.modCore c fun k => { k with shrows := k.shrows.filter fun r => r.cmd != cmd.id }
  let s := match cmd.bar with
    | some i => sendLanding s (dieOf c) i cmd.left true
    | none => s
  let s := s.recordD (dieOf c) 3 1 0 (chanMaster c n) ecode addr 0
  modChan s c n fun ch => ⟨ch.q.tail, true⟩

def faultCmd (s : State) (c n : Nat) : State :=
  match (chanOf s c n).q with
  | [] => s
  | cmd :: _ =>
    match cmd.bad with
    | some (e, a) => failCmd s c n cmd e (a.setWidth 52)
    | none => s

/-! ## Follow-on commands (R249, R250) -/

/-- A follow-on cancelled at its entry: the command completes faulted, its barrier poisoned (R164, R249, R290). -/
def cancelFollow (s : State) (c n : Nat) (cmd : Cmd) (ecode : BitVec 8) : State :=
  let s := match cmd.bar with
    | some i => sendLanding s (dieOf c) i cmd.left true
    | none => s
  let s := s.recordD (dieOf c) 3 1 0 (chanMaster c n) ecode cmd.baddr 0
  modChan (popCmd s c n) c n fun ch => { ch with fault := true }

/-- A follow-on whose entry reads poison: it is dropped with its command, which completes faulted, and the running step rolls
back (R354). -/
def poisonFollow (s : State) (c n pa : Nat) : State :=
  let s := modChan (popCmd s c n) c n fun ch => { ch with fault := true }
  if (s.core c).slot.task.isNone then s else rollback s c pa

/-- A follow-on enters the array's queue, `f` its effect on the records. One of a copy that is older than its slot's segment
enters the queue of the checkpoint too: a rollback re-creates it (R356). -/
def enterFollow (s : State) (c n : Nat) (cmd : Cmd) (o : MOp) (f : Slot → Slot) : State :=
  (setHead s c n { cmd with follow := none }).modCore c fun k =>
    let sl := k.slotOf o.slot
    let grow (sh : Shadow) : Shadow :=
      let x := f { sl with
        adopt := sh.adopt
        factors := sh.factors }
      { sh with
        mq := sh.mq ++ [{ o with seq := k.useq }]
        adopt := x.adopt
        factors := x.factors }
    let sh := if sl.task == cmd.task && decide (cmd.seg < sl.seg) then sl.shadow.map grow else sl.shadow
    enterOp (k.setSlotOf o.slot { f sl with shadow := sh }) o

/-- The entry of an MMA: its tiles' records as they stand, the tests of R240 and R262, the scales, the accumulator's record. -/
def enterMma (s : State) (c n : Nat) (cmd : Cmd) (o : MOp) : State :=
  let sl := (s.core c).slotOf o.slot
  let o := { o with
    fA := tileRec sl o.tA
    fB := tileRec sl o.tB }
  if !innerConst o then cancelFollow s c n cmd 0x42
  else if badInner o || badShift o then cancelFollow s c n cmd 0x41
  else
    let (r, ks, bad) := outerFactors s c o
    match bad, adoptRec sl (accNo o.instr) r with
    | some p, _ => poisonFollow s c n p
    | none, none => cancelFollow s c n cmd 0x41
    | none, some _ =>
      let (la, lb) := opScales o 1
      let f (va : Addr) : Look :=
        let mine : Option (BitVec 16) := if cmd.ask = some va then cmd.askf else none
        match mine with
        | some x => .fault x
        | none => lookIf (cmd.ask == some va) s c cmd.asn cmd.sup .rd va
      match pageStop f (la ++ lb) with
      | some (va, .fault x) => cancelFollow (seeRefusal s cmd.asn va) c n cmd (xEcode x)
      | some (va, l) => chanWait s c n cmd va .rd l
      | none =>
        let g := readBytes s c o.slot ((la ++ lb).map f)
        match g.bad with
        | some p => poisonFollow s c n p
        | none =>
          if g.late then g.s
          else
            let o := { o with
              scA := g.bytes.take la.length
              scB := g.bytes.drop la.length
              seq := (g.s.core c).useq }
            enterFollow (opSticky g.s c o ks) c n cmd o fun sl => (adoptRec sl (accNo o.instr) r).getD sl

/-- A follow-on enters the array's queue once its entry there is free; that of a copy of the step not while the step is in a
trap's handler (R251). -/
def followArrive (s : State) (c n : Nat) : State :=
  match (chanOf s c n).q with
  | [] => s
  | cmd :: _ =>
    match cmd.st, cmd.follow with
    | .follow, none =>
      -- dropped with its step: the command completes without one
      if followIn (s.core c) cmd then s else popCmd s c n
    | .follow, some o =>
      if ((s.core c).mq.any fun o => o.follow.isSome) || (((s.core c).slotOf o.slot).sup && !cmd.sup) then s
      else
        let o := { o with wait := 0 }
        match o.kind with
        | .mma => enterMma s c n cmd o
        | k => enterFollow s c n cmd o fun sl => match k with
          | .aclr => resetAccRec sl (accNo o.instr) true
          | .accld => resetAccRec sl (accNo o.instr) false
          | _ => sl
    | _, _ => s

end Sys2Proof.Machine
end

