-- ==== Sys2Proof/Machine/Cycle.lean ====
section
/-!
DEFINITION. Cycle.lean: what keeps a core from issuing: freezes and their switches, faults and late values that are due, the
watchdog, interrupts (R16, R68, R248, R338, R341 to R343, R350).
-/
namespace Sys2Proof.Machine

/-! ## Freezes (R16, R68, R350) -/

/-- The publications, the outstanding accesses of both slots, and the stores of their closed segments, perform as far as they can
now. A switched-out step that would read poison is left as it is until it runs. The second part is the poison that the running
slot reads. -/
def retry (s : State) (c : Nat) : State × Option Nat :=
  let b := (s.core c).ctx
  let s := if (s.core c).pubs.isEmpty then s else landPubs s c
  let s := if (s.core c).withheld.any Held.closed then drainSlot (drainSlot s c b) c !b else s
  let s := match settleAll s c !b with
    | (t, none) => t
    | (_, some _) => s
  settleAll s c b

/-- What a core waited for has happened: its accesses perform, poison that one reads is consumed, and what is due and back
lands. -/
def settleDue (s : State) (c : Nat) : State :=
  match retry s c with
  | (s, some p) => rollback s c p
  | (s, none) => s.modCore c landReady

/-- The switch of a frozen step whose launch sets FSW (R68). -/
def switchSlots (s : State) (c : Nat) (w : Wake) : State :=
  let k := s.core c
  let b := k.ctx
  let k := { (switchClean (k.setSlotOf b { k.slotOf b with parked := k.inflight, out := some w })) with
    freeze := none
    hold := none }
  settleDue (s.setCore c (runSlot k !b)) c

/-- The watchdog's trap at a frozen or held bundle: what is still outstanding counts as faulted (R342, R350). -/
def watchdog (s : State) (c code : Nat) : State := takeTrap (giveUp s c) c 0x0012 (BitVec.ofNat 64 code)

/-- Poison that the array reads: a follow-on that reads it is dropped with its command, which completes faulted, and the running
step rolls back. -/
def arrayPoison (s : State) (c pa : Nat) : State :=
  let s := match (s.core c).mq with
    | o :: r =>
      if o.follow.isSome && o.run.isSome then followDone (s.modCore c fun k => { k with mq := r }) c o true else s
    | [] => s
  if (s.core c).slot.task.isNone then s else rollback s c pa

def afterTick (c : Nat) (r : State × Option Nat) (f : State → State) : State :=
  match r.2 with
  | some p => arrayPoison r.1 c p
  | none => f r.1

/-- One frozen cycle, with the code of R350 and what ends the freeze. Code 0 is a fetch that waits for its translation, and code 4
an RDZ that holds its bundle: no freezes of R16, and event 3 counts neither (R21, R168). -/
def freezeCycle (s : State) (c code : Nat) (w : Wake) : State :=
  let n := match (s.core c).freeze with
    | some f => f.cycles
    | none => 0
  if code = 0 then
    afterTick c (tickStopped false s c) fun s => s.modCore c fun k => { k with freeze := some ⟨0, 0, w⟩ }
  else if 2 ^ 20 ≤ n then watchdog s c code
  else
    afterTick c (tickStopped (code != 4) s c) fun s =>
      let s := s.modCore c fun k =>
        let k := { k with freeze := some ⟨code, n + 1, w⟩ }
        if code = 3 then countEvt k 5 1 else k
      if code ≠ 4 && (s.core c).slot.fsw && slotReady s c !(s.core c).ctx then switchSlots s c w else s

/-- A fault that is due at the bundle about to issue (R343). -/
def dueFault (k : Core) : Option (BitVec 16 × Addr) :=
  (k.inflight.filterMap fun e => match e.acc with
    | some a => (match a.st with
      | .fault f => if e.delay = 0 then some (f, a.va) else none
      | _ => none)
    | none => none).head?

/-- Whether a result that is due is not back (R16). -/
def dueLate (k : Core) : Bool := k.inflight.any InFl.awaited

/-- The code of R350 for such a freeze, and what ends it: a global access, else a remote result. -/
def lateCode (k : Core) : Nat × Wake :=
  if k.inflight.any fun e => e.awaited && !e.remote then (1, .access) else (5, .remote)

/-! ## Interrupts (R338, R341, R248) -/

/-- Whether the running bundle is held at a SYNC that has been released: it issues now (R303). -/
def syncReleased (k : Core) : Bool := match k.hold with
  | some ⟨.sync _ true, _, _, _⟩ => true
  | _ => false

/-- The oldest assay mismatch whose wait is over, then the oldest signal that has come. -/
def dueInterrupt (s : State) (c : Nat) : Option State :=
  let k := s.core c
  if k.slot.sup then none
  else
    match k.assay.find? fun a => a.1 == 0 with
    | some a => some (takeTrap (s.modCore c fun k => { k with assay := k.assay.erase a }) c 0x0405 (a.2.setWidth 64))
    | none =>
      (k.signals.find? fun e => s.passes e.2.2).map fun e =>
        takeTrap (s.modCore c fun k => { k with signals := k.signals.erase e }) c 0x0020
          (BitVec.ofNat 64 (e.1.toNat + e.2.1.toNat * 65536))

end Sys2Proof.Machine
end

