-- ==== Sys2Proof/Machine/MemOps.lean ====
section
/-!
DEFINITION. MemOps.lean: rows and lanes, global loads and stores, cache maintenance, atomics and MARM (R278, R282 to R284,
R297, R298, R305).
-/
namespace Sys2Proof.Machine

/-! ## Scratchpad rows (R85, R282, R283) -/

/-- The scratchpad-range trap, else what follows with the row's number. -/
def withRow (s : State) (a : Src) (o : Off) (k : Nat → Out) : Out :=
  let x := (rowIx s a o).toNat
  if 8192 ≤ x then .next (s.trap 0x0205 (BitVec.ofNat 64 x) 2) else k x

/-- A row read by a slot: poison is consumed (R354). -/
def readRow (s : State) (x : Nat) (k : Row → Out) : Out :=
  if s.poisoned (spadRow s.cur x) then .next (s.consume (spadRow s.cur x)) else k (s.rdRow s.cur x)

/-- A slot's write of a row, which stands over what earlier bundles' operations write in the same cycle (R71, R86). -/
def noteRow (s : State) (x : Nat) (lane : Option Nat) (v : Row) : State :=
  { s with eff := { s.eff with rows := s.eff.rows ++ [(x, lane, v)] } }

def execLdr (o : OpLd) (s : State) : Out :=
  withRow s o.a o.o fun x => readRow s x fun r => .next (s.deliverV o.d r s.ctx.mask 6 .bl)

def execLds (o : OpLds) (s : State) : Out :=
  withRow s o.a o.o fun x => readRow s x fun r => .next (s.deliverS o.d (BitVec.ofNat 64 (laneN r o.l.toNat 64)) 6 .bl)

def execStr (o : OpSt) (s : State) : Out :=
  withRow s o.a o.o fun x =>
    let v := vReg s.sl o.d
    .next (noteRow (ownWrite s s.cur s.me.ctx x v) x none v)

/-- One lane of a row replaced; the row keeps its poison. -/
def writeLane (s : State) (c : Nat) (b : Bool) (x l : Nat) (v : Word) : State :=
  ((journalRow s c b x).wrBytes (spadRow c x + 8 * l) 8 v.toNat).modCore c fun k => dropResid k x

def execSts (o : OpSts) (s : State) : Out :=
  withRow s o.a o.o fun x =>
    let v := sReg s.sl o.d
    .next (noteRow (writeLane s s.cur s.me.ctx x o.l.toNat v) x (some o.l.toNat) (v.setWidth 2048))

/-! ## Global memory (R282, R283, R343) -/

/-- An access without data. -/
def accAt (k : AKind) (va : Addr) : Acc := ⟨k, va, 0, 0, .pending, false, 0, 0⟩

/-- Whether an access at task level reaches a SUP field of control space (R7). -/
def supAccess (s : State) (a : Acc) : Bool :=
  match xlate s s.cur s.sl.asn s.sl.sup a.kind.perm a.va with
  | .ok pa _ _ => ctlDenied s s.sl.sup a.kind.perm pa.toNat a.kind.bytes
  | _ => false

/-- Issues an access and consumes the poison that it reads; the privilege trap is taken at the bundle. -/
def access (s : State) (e : InFl) (a : Acc) : Out :=
  if supAccess s a then .next s.privilege
  else
    match issueAcc s e a with
    | (s, none) => .next s
    | (s, some p) => .next (s.consume p)

/-- The result of a load: due 40 cycles after its issue. -/
def loadV (s : State) (d : Dst) : InFl := mkIn s 40 (if d.n then .none else .vector) d.r .bl false 0 s.ctx.mask
def loadS (s : State) (d : Dst) : InFl := mkIn s 40 (if d.n then .none else .scalar) d.r .bl false 0 (BitVec.allOnes 128)
/-- An access with no result; its fault is due at the same distance. -/
def noResult (s : State) : InFl := mkIn s 40 .none 0 .bl true 0 (BitVec.allOnes 128)

def execLdg (o : OpLd) (s : State) : Out := access s (loadV s o.d) (accAt .ldg (byteAddr s o.a 256 o.o))
def execLdgs (o : OpLd) (s : State) : Out := access s (loadS s o.d) (accAt .ldgs (byteAddr s o.a 8 o.o))

def execStg (o : OpSt) (s : State) : Out :=
  access s (noResult s) { accAt .stg (byteAddr s o.a 256 o.o) with data := vReg s.sl o.d }
def execStgs (o : OpSt) (s : State) : Out :=
  access s (noResult s) { accAt .stgs (byteAddr s o.a 8 o.o) with data := (sReg s.sl o.d).setWidth 2048 }

/-! ## Cache maintenance (R284) -/

/-- PREF asks for an absent line, and for a page that only the host can grant; what fails drops it. Its walk is made at once
(log 75). -/
def execPref (o : OpAddr) (s : State) : Out :=
  let c := s.cur
  let va := byteAddr s o.a 256 o.o
  match xlate s c s.sl.asn s.sl.sup .rd va with
  | .ok pa attr t =>
    let s := fillTlb s (clusterOf c) (dieOf c) t
    let p := pa.toNat
    .next (if l1Kind s p attr && !l1Hit s c p then
      (if canRead s c p attr then (readLine s c p attr).1 else askLine s c p attr) else s)
  | .ask => .next (askPage s s.sl.asn va .rd)
  | .fault _ => .next s

def execCflush (o : OpAddr) (s : State) : Out := access s (noResult s) (accAt .cflush (byteAddr s o.a 256 o.o))
def execCinv (o : OpAddr) (s : State) : Out := access s (noResult s) (accAt .cinv (byteAddr s o.a 256 o.o))

/-! ## Atomics (R297, R298) and MARM (R305) -/

/-- An atomic (R297, R298): a release operation, then one access. `b` and `d` are opnd(B) and opnd(D). -/
def atomicSlot (o : OpAt) (b d : Word) (s : State) : Out :=
  let a : Acc := { accAt .atomic ((srcS s o.a).setWidth 52) with
    word := s.ctx.word
    data := BitVec.ofNat 2048 (b.toNat + d.toNat * 2 ^ 64) }
  if supAccess s a then .next s.privilege else access (publishOp s) (loadS s o.d) a

def atomicInt (o : OpAt) (s : State) : Out := atomicSlot o (srcS s o.b) 0 s

def execAadd (o : OpAt) (s : State) : Out := atomicInt o s
def execAadds (o : OpAt) (s : State) : Out := atomicInt o s
def execAmin (o : OpAt) (s : State) : Out := atomicInt o s
def execAmax (o : OpAt) (s : State) : Out := atomicInt o s
def execAand (o : OpAt) (s : State) : Out := atomicInt o s
def execAor (o : OpAt) (s : State) : Out := atomicInt o s
def execAxor (o : OpAt) (s : State) : Out := atomicInt o s
def execAxchg (o : OpAt) (s : State) : Out := atomicInt o s
def execAcas (o : OpAt) (s : State) : Out := atomicSlot o (srcS s o.b) (sReg s.sl o.d.r) s
def execAfadd (o : OpAt) (s : State) : Out :=
  atomicSlot o (BitVec.ofNat 64 (srcSF s (if o.z then .f64 else .f32) .rne o.b)) 0 s

def execMarm (o : OpMarm) (s : State) : Out :=
  access s (loadV s o.d) (accAt .marm ((srcS s o.a).setWidth 52))

end Sys2Proof.Machine
end

