-- ==== Sys2Proof/Machine/Copy.lean ====
section
/-!
DEFINITION. Copy.lean: the copy instructions, PUBL and the channel waits: checks at issue and the commands enqueued (R181,
R249, R281, R285 to R296).
-/
namespace Sys2Proof.Machine

/-! ## Checks at issue -/

/-- The illegal-operand trap with the first reason that fails (R281). -/
def failReason (l : List (Bool × Nat)) : Fail := (l.find? fun e => e.1).map fun e => (0x0301, e.2)

/-- Rows of an endpoint that lies in scratchpad (R85). -/
def endRows (r : Word) (t : TidEnt) : List (Nat × Nat) := if endSp r then [(endBase r, copyRows t)] else []

/-- Reason 2: the endpoints' tiles have one shape. -/
def sameShape (a b : TidEnt) : Bool := a.ndim == b.ndim && (List.range 10).all fun d => shpAt a d == shpAt b d

/-- A scratchpad of the issuing core. -/
def ownSp (r : Word) : Bool := endSp r && !endRm r

def cpyReasons (a b : TidEnt) (res strm : Bool) (dst : Word) : List (Bool × Nat) :=
  [(!(a.v && b.v), 1),
   (!sameShape a b, 2),
   ((!res && a.fmt != b.fmt) || (res && (decide (3 < b.fmt.toNat) || a.ndim == 1)), 3),
   (strm && !ownSp dst, 4),
   (decide (65535 < copyRows b), 5)]

/-! ## Enqueueing (R287, R288) -/

/-- Stores that the command must not see: those withheld, but for what the bundle's own checkpoint publishes (R117). -/
def blindOf (s : State) : List Nat :=
  (s.me.withheld.filter fun h => !h.closed && !(s.eff.ckpt && h.slot == s.me.ctx)).map Held.seq

/-- The command of the executing slot, its options at rest. -/
def newCmd (s : State) (kind : CmdKind) (tA tB : TidEnt) (tid : BitVec 6) (strm : Bool) (rows : Nat) : Cmd where
  kind := kind
  src := sReg s.sl 22
  dst := sReg s.sl 23
  tA := tA
  tB := tB
  tid := tid
  res := false
  strm := strm
  bar := none
  left := 0
  post := none
  follow := none
  fA := .identity
  desc := 0
  pool := 0
  table := 0
  blocks := 0
  toks := []
  tokb := 0
  id := s.fresh + 1
  after := s.me.useq
  blind := blindOf s
  old := []
  ask := none
  askf := none
  slot := s.me.ctx
  task := s.sl.task
  asn := s.sl.asn
  sup := s.sl.sup
  seg := s.sl.seg
  scope := s.ctx.scope
  pos := s.ctx.pos
  baddr := s.ctx.baddr
  rows := rows
  row := 0
  st := .queued
  bad := none

/-- Whether the command finds no room: its queue, or the shadow limit. -/
def noRoom (s : State) (c n : Nat) (cmd : Cmd) : Bool :=
  decide (8 ≤ (chanOf s c n).q.length) || (!cmd.strm && decide (8192 < shadowHeld (s.core c) + cmd.rows))

/-- A command enters channel `n` of core `c`; the write pointers of the running slot there start anew. -/
def enqueueCmd (s : State) (c n : Nat) (cmd : Cmd) : State :=
  ((modChan s c n fun ch => { ch with q := ch.q ++ [cmd] }).modCore c fun k =>
    k.setSlotOf cmd.slot (followCmd (k.slotOf cmd.slot) n cmd.id)).nextFresh

/-- The predicate, and the command where there is room. -/
def issueCmd (s : State) (d : BitVec 3) (n : Nat) (cmd : Cmd) : State :=
  if noRoom s s.cur n cmd then s.deliverP d true 1 else (enqueueCmd s s.cur n cmd).deliverP d false 1

/-! ## Follow-on images (R249) -/

/-- The operation that an image describes, with the registers as the bundle reads them; none when its guard is false. -/
def followOp (s : State) (n : Fin 4) (img : SlotWord) : Option MOp :=
  let mk (o : MOp) : Option MOp := some { o with
    word := img
    follow := some n }
  match decodeSlot img [] with
  | .ok (.mma o) => if guardOn s o.g then mk (arrOp s (.mma o) o.ta o.tb 0 0 32 0) else none
  | .ok (.aclr o) => mk (accOp s (.aclr o) 0 1)
  | .ok (.accld o) => mk (accOp s (.accld o) (rowIx s o.a (.off o.o)).toNat 64)
  | .ok (.accst o) => mk (accOp s (.accst o) (rowIx s o.a (.off o.o)).toNat 64)
  | _ => none

/-- Checks 2 to 7 of R254 at the CPY's bundle; the rest waits for the entry into the queue. -/
def followChecks (s : State) (o : MOp) : Fail :=
  match o.instr with
  | .mma i =>
    chkTid s i.ta <|> chkTid s i.tb <|>
    failIf (pairAcc o.fa o.fb).isNone 0x0401 0 <|>
    failIf ((pairAcc o.fa o.fb) == some .f64 && i.d.getLsbD 0) 0x0402 0 <|>
    failIf (!(scaleOk o.tA 1 (kOrg o.tA) && scaleOk o.tB 2 (kOrg o.tA))) 0x0406 0 <|>
    chkRows (arrRows o)
  | .accld _ | .accst _ => chkRows [(o.rowA, 64)]
  | _ => none

/-! ## CPY and CPYM (R287, R291, R292) -/

def wordAtI (ws : List Imm31) (i : Nat) : Imm31 := ws.getD i 0

/-- The flag of word 1 bit 26. -/
def postOf (ws : List Imm31) : Option (Nat × Nat) :=
  let w := wordAtI ws 0
  if w.getLsbD 26 then some ((w.extractLsb' 12 10).toNat, (w.extractLsb' 22 4).toNat) else none

/-- The bundle of a copy that binds a barrier or posts a flag takes a checkpoint (R353). -/
def cpyCkpt (o : OpCpy) (s : State) : State := if o.bar || (postOf o.ws).isSome then askCkpt s else s

def cpyCmd (o : OpCpy) (s : State) : Cmd :=
  let a := s.sl.tid o.ta.toNat
  let b := s.sl.tid o.tb.toNat
  { newCmd s .cpy a b o.tb o.strm (copyRows b) with
    res := o.res
    bar := if o.bar then some ((wordAtI o.ws 0).extractLsb' 0 12).toNat else none
    left := copyBytes b
    post := postOf o.ws
    follow := if o.follow then (followOp s (o.c.toFin) ((wordAtI o.ws 1).setWidth 32)).map fun f => { f with fid := s.fresh + 1 } else none
    fA := tileRec s.sl a }

/-- The checks of a copy between the endpoints `src` and `dst`. -/
def cpyChecks (reasons : List (Bool × Nat)) (cmd : Cmd) (src dst : Word) : Fail :=
  failReason reasons <|> chkRows (endRows src cmd.tA ++ endRows dst cmd.tB) <|>
  failIf (!cmd.res && !cmd.fA.isId) 0x0415 0

/-- CPY once its checks and its hold are behind it: the barrier's bytes, and the command. -/
def cpyIssue (o : OpCpy) (cmd : Cmd) (s : State) : State :=
  match cmd.bar with
  | none => issueCmd s o.d o.c.toNat cmd
  | some i =>
    if noRoom s s.cur o.c.toNat cmd then s.deliverP o.d true 1
    else
      match sendBar s (dieOf s.cur) i (.add cmd.left) .open with
      | none => s.deliverP o.d true 1
      | some s => issueCmd s o.d o.c.toNat cmd

def execCpy (o : OpCpy) (s : State) : Out :=
  let s := cpyCkpt o s
  let cmd := cpyCmd o s
  orTrap (cpyChecks (cpyReasons cmd.tA cmd.tB o.res o.strm cmd.dst) cmd cmd.src cmd.dst <|>
      (match cmd.follow with
        | some f => followChecks s f
        | none => none)) s fun _ =>
    if o.res then
      holdFor id cmd.fA.const s fun _ => .next (cpyIssue o cmd (s.deliverP 7 false 1))
    else .next (cpyIssue o cmd s)

/-- Core 0 of a cluster in role mode, and receivers among cores 1 to 6. -/
def cpymAllowed (s : State) (recv : BitVec 8) : Bool :=
  s.cur % 8 == 0 && (s.cluster (clusterOf s.cur)).role.isSome && !recv.getLsbD 0 && !recv.getLsbD 7

def cpymReasons (s : State) (a b : TidEnt) (dst : Word) (recv : BitVec 8) : List (Bool × Nat) :=
  [(!(a.v && b.v), 1),
   (!sameShape a b, 2),
   (a.fmt != b.fmt, 3),
   (!endSp dst, 4),
   (decide (65535 < copyRows b), 5),
   (!cpymAllowed s recv, 6)]

/-- The write pointers of both slots of a receiver start anew (R119). -/
def followBoth (s : State) (n id : Nat) (cs : List Nat) : State :=
  cs.foldl (fun s c => s.modCore c fun k => { k with
    slot0 := followCmd k.slot0 n id
    slot1 := followCmd k.slot1 n id }) s

def execCpym (o : OpCpym) (s : State) : Out :=
  let s := askCkpt s
  let a := s.sl.tid o.ta.toNat
  let b := s.sl.tid o.tb.toNat
  let cmd := { newCmd s (.cpym o.recv) a b o.tb true (copyRows b) with fA := tileRec s.sl a }
  orTrap (cpyChecks (cpymReasons s a b cmd.dst o.recv) cmd cmd.src cmd.dst) s fun _ =>
    if noRoom s s.cur o.c.toNat cmd then .next (s.deliverP o.d true 1)
    else
      let s := modChan s s.cur o.c.toNat fun ch => { ch with q := ch.q ++ [cmd] }
      .next (((followBoth s o.c.toNat cmd.id (receivers s.cur o.recv)).nextFresh).deliverP o.d false 1)

/-! ## GATH and SCAT (R293) -/

def tokReasons (t : TidEnt) (gath : Bool) (dst : Word) : List (Bool × Nat) :=
  [(!t.v, 1),
   (gath && !ownSp dst, 4),
   (decide (4096 < shpAt t 0), 5),
   (t.fmt != 15 || t.ndim != 1, 7)]

def tokenSlot (kind : CmdKind) (gath : Bool) (o : OpGath) (s : State) : Out :=
  let t := s.sl.tid o.tb.toNat
  let cmd := { newCmd s kind .invalid t o.tb gath (if gath then 0 else shpAt t 0) with desc := srcS s o.a }
  orTrap (failReason (tokReasons t gath cmd.dst)) s fun _ => .next (issueCmd s o.d o.c.toNat cmd)

def execGath (o : OpGath) (s : State) : Out := tokenSlot .gath true o s
def execScat (o : OpGath) (s : State) : Out := tokenSlot .scat false o s

/-! ## PUBL and the waits (R294 to R296) -/

/-- Whether a row lies in the core's own scratchpad. -/
def ownRow (c : Nat) (r : ShRow) : Bool := r.parts.all fun p => decide (spadRow c 0 ≤ p.pa) && decide (p.pa < spadRow c 8192)

/-- PUBL: the rows of the completed commands on a tile are published once what the step has done before has performed; those
of the own scratchpad, which R86 orders by bundles, in the bundle's cycle (R118, R289). -/
def execPubl (o : OpT) (s : State) : Out :=
  orTrap (chkTid s o.t) s fun _ =>
    let s := publishOp s
    let l := s.me.shrows.filter fun r => r.whole && r.slot == s.me.ctx && r.task == s.sl.task && r.tid == o.t
    let ids := (l.map ShRow.cmd).eraseDups
    if l.isEmpty then .next s
    else if s.passes s.gate || l.all (ownRow s.cur) then .next (publishRows s s.cur fun r => ids.contains r.cmd)
    else .next (s.modMe fun k => { k with
      pubs := k.pubs ++ [⟨k.ctx, k.useq, ids⟩]
      useq := k.useq + 1 })

/-- Posts of a core's completed commands that are still on their way arrive (R405). -/
def landPosts (s : State) (c : Nat) : State :=
  let mine (p : Post) : Bool := p.gate.core == c && p.gate.seq == 0
  if s.cores.any fun k => k.2.rposts.any mine then s.mapCores fun _ k =>
    let l := (k.rposts.filter mine).map fun p => (p.flag, p.count)
    applyPosts { k with
      posts := l ++ k.posts
      rposts := k.rposts.filter fun p => !mine p } l.length
  else s

/-- CWAIT: an empty channel has completed its commands, with their posts and the bytes of their barriers (R295, R405). -/
def execCwait (o : OpCwait) (s : State) : Out :=
  let n := o.c.toNat
  let ch := chanOf s s.cur n
  let limit := (opndS s o.b).toNat % 2 ^ 32
  let d := dieOf s.cur
  let t := if ch.q.isEmpty && !ch.fault then landPosts (landBars s d) s.cur else s
  let bytes (a : Arrival) : Bool := match a with
    | .barr .. => true
    | _ => false
  match waitTest s limit (ch.fault || (ch.q.isEmpty && !((t.die d).arrivals.any bytes))) with
  | none => .next (s.hold .wait limit)
  | some late =>
    if ch.fault then .next ((modChan s s.cur n fun ch => { ch with fault := false }).deliverP o.d true 1)
    else .next (t.deliverP o.d late 1)

def execCwaitWp (o : OpCwaitWp) (s : State) : Out :=
  let n := o.c.toNat
  let ch := chanOf s s.cur n
  if (srcS s o.a).toNat % 65536 ≤ (vget s.sl.wp n 0).toNat ∨ ch.q.isEmpty ∨ ch.fault then .next s
  else .next (s.freezeAt 2 (.wp n ((srcS s o.a).toNat % 65536)))

end Sys2Proof.Machine
end

