-- ==== Sys2Proof/Machine/Sync.lean ====
section
/-!
DEFINITION. Sync.lean: regions, acquire, release and fences, counting flags, SYNC, barriers, the monitor and triggers (R148 to
R150, R162 to R165, R299 to R307, R321).
-/
namespace Sys2Proof.Machine

/-- opnd(B)[31:0] as a timeout (R280). -/
def timeoutOf (s : State) (b : Opnd) : Nat := (opndS s b).toNat % 2 ^ 32

/-- A release operation, then what follows it. -/
def afterRelease (s : State) (k : State → Out) : Out := k (publishOp s)

/-! ## BIND (R150, R299) -/

def Region.meets (r : Region) (asn : BitVec 4) (base n : Nat) : Bool :=
  r.asn == asn && decide (r.base.toNat < base + n) && decide (base < r.base.toNat + r.nrows.toNat)

/-- BIND. DESIGN CHOICE (log 106): a new binding stands behind those that the table holds. -/
def execBind (o : OpBind) (s : State) : Out :=
  let base := (srcS s o.a).extractLsb' 8 44
  let n := (srcS s o.b).setWidth 32
  let asn := s.sl.asn
  if n = 0 then
    let it (r : Region) : Bool := r.asn == asn && r.base == base
    if s.regions.any it then
      let t : State := { s with regions := s.regions.filter fun r => !it r }
      .next (t.deliverP o.d false 1)
    else .next (s.deliverP o.d true 1)
  else if (s.regions.any fun r => r.meets asn base.toNat n.toNat) || decide (4096 ≤ s.regions.length) then
    .next (s.deliverP o.d true 1)
  else
    let r : Region := ⟨asn, o.obj.extractLsb' 14 3, o.obj.extractLsb' 0 14, n, base⟩
    let t : State := { s with regions := s.regions ++ [r] }
    .next (t.deliverP o.d false 1)

/-! ## ACQ, REL, FENCE (R148, R300, R301, R321) -/

/-- The tie that an ACQ makes: none where it needs a fifth. -/
def acqTie (s : State) (e : SyncObj) : Option State :=
  match s.sl.attach with
  | none => some s
  | some b =>
    let ties := (actGet s b).ties
    if e.lav && (actGet s e.lact).st == .opened && e.lact != b && !ties.contains e.lact then
      if 4 ≤ ties.length then none else some (modAct s b fun x => { x with ties := x.ties ++ [e.lact] })
    else some s

def execAcq (o : OpAcq) (s : State) : Out :=
  let obj := (srcS s o.a).toNat % 2 ^ 17
  let s := landOwn s s.cur s.me.ctx (· == obj)
  let e := tget (s.die (obj / 16384)).sync (obj % 16384) ⟨0, 0, false⟩
  let limit := timeoutOf s o.b
  let m := (sReg s.sl o.d.r).toNat
  match waitTest s limit (o.d.r == 0 || decide (0 ≤ sextN (e.ver.toNat + 2 ^ 64 - m) 32)) with
  | none => .next (s.hold .wait limit)
  | some late =>
    match acqTie s e with
    | none => .next (s.deliverP o.t true 1)
    | some s =>
      let s := s.deliverP o.t late 1
      .next (if late then s else s.deliverSN o.d.r o.d.n (e.ver.setWidth 64) 40)

/-- The release record of the slot with one more REL (R318, R320). -/
def recordRel (sl : Slot) (obj : BitVec 17) : Slot :=
  if sl.attach.isNone || (sl.released.any fun e => e.1 == obj) then sl
  else { sl with released := sl.released ++ [(obj, 0)] }

def execRel (o : OpA) (s : State) : Out :=
  let obj : BitVec 17 := (srcS s o.a).setWidth 17
  let sl := s.sl
  if sl.attach.isSome && decide (2 ≤ sl.released.length) && !(sl.released.any fun e => e.1 == obj) then
    .next (s.trap 0x0501 4 2)
  else
    let s := publishOp s
    let d := obj.toNat / 16384
    let s := s.modSl fun sl => recordRel sl obj
    .next (s.modDie d fun x => { x with
      arrivals := x.arrivals ++
        [.rel d (obj.toNat % 16384) (sl.attach.getD 0) sl.attach.isSome s.cur s.me.ctx s.me.useq] })

/-- FENCE above core scope publishes what is withheld, and later loads of the slot perform after it (R115, log 28). -/
def execFence (s : State) : Out :=
  if s.ctx.scope = .core then .next s
  else .next ((publishOp s).modMe fun k => { k with
    withheld := k.withheld.map fun h => if h.slot == k.ctx && h.closed then { h with fenced := true } else h })

/-! ## Counting flags (R162, R302) -/

/-- A post or a taking of the segment's own (R354). -/
def noteFlag (s : State) (f n : Nat) (taken : Bool) : State :=
  if s.sl.sup then s else s.modMe fun k => { k with fjournal := k.fjournal ++ [(k.ctx, f, n, taken)] }

def execFwait (o : OpFwait) (s : State) : Out :=
  let f := o.f.toNat
  let n := (srcS s o.a).toNat % 65536
  let have_ := (vget s.me.flags f 0).toNat
  let limit := timeoutOf s o.b
  match waitTest s limit (decide (n ≤ have_)) with
  | none => .next (s.hold .wait limit)
  | some true => .next (s.deliverP o.d true 1)
  | some false =>
    let s := s.modMe fun k => { k with flags := vset k.flags f (BitVec.ofNat 16 (have_ - n)) }
    .next ((noteFlag s f n true).deliverP o.d false 1)

/-- FPOST: the post takes part in the next cycle, unless an earlier post of the step to that flag is still on its way (R162). -/
def execFpost (o : OpFpost) (s : State) : Out :=
  let n := (srcS s o.a).toNat % 65536
  let f := o.f.toNat
  let s' := if s.me.rposts.any fun p => p.ofStep s.cur s.me.ctx f then sendPost s s.cur ⟨f, n, s.gate⟩
    else s.modMe fun k => { k with posts := k.posts ++ [(f, n)] }
  .next (noteFlag s' f n false)

def execFpostr (o : OpFpostr) (s : State) : Out :=
  let n := (srcS s o.a).toNat % 65536
  let c := (opndS s o.b).toNat % 1024
  let s := publishOp s
  .next (sendPost s c ⟨o.f.toNat, n, s.gate⟩)

/-! ## SYNC (R303) -/

/-- Whether a result keeps a core from issuing in its next cycle. -/
def lateSoon (k : Core) : Bool := k.inflight.any fun e =>
  decide (e.delay ≤ 1) && (e.remote || e.acc.any fun a => a.late || (match a.st with
    | .pending => a.kind.returns
    | .fault _ => true
    | .done => false))

/-- The mask of a core that is held at a SYNC and not yet released: nothing else keeps it from issuing. -/
def syncMask (k : Core) : Option (BitVec 8) :=
  match k.hold with
  | some ⟨.sync m false, _, _, _⟩ => if k.freeze.isNone && k.trapping.isNone && !lateSoon k then some m else none
  | _ => none

/-- The cores of a cluster held at a SYNC, as a mask. -/
def syncHeld (s : State) (cl : Nat) : BitVec 8 :=
  (List.range 8).foldl (fun acc i => if (syncMask (s.core (8 * cl + i))).isSome then acc ||| (1 <<< i) else acc) 0

/-- Every held core whose mask lies within the held set is released. -/
def syncRelease (s : State) (cl : Nat) : State :=
  let h := syncHeld s cl
  (List.range 8).foldl (fun s i =>
    match syncMask (s.core (8 * cl + i)) with
    | some m => if m &&& ~~~h = 0 then
        s.modCore (8 * cl + i) fun k => { k with hold := k.hold.map fun x => { x with kind := .sync m true } } else s
    | none => s) s

def execSync (o : OpPab) (s : State) : Out :=
  let mask : BitVec 8 := (srcS s o.a).setWidth 8 ||| (1 <<< (s.cur % 8))
  let limit := timeoutOf s o.b
  let released := match s.me.hold with
    | some ⟨.sync _ true, _, _, _⟩ => true
    | _ => false
  if released then .next ((askCkpt s).deliverP o.d false 1)
  else
    let t := syncRelease (s.hold (.sync mask false) limit) (clusterOf s.cur)
    let free := (syncMask t.me).isNone
    if !free && decide (limit ≤ waited s.me) then .next ((askCkpt s).deliverP o.d true 1) else .next t

/-! ## Barriers (R163, R164, R304) -/

def barName (x : Word) : Nat × Nat := ((x.extractLsb' 12 3).toNat, (x.extractLsb' 0 12).toNat)

/-- An arrival with bytes at the barrier that opnd(A) names. -/
def arriveSlot (d : BitVec 3) (a : Src) (bytes : Nat) (s : State) : Out :=
  let (die, i) := barName (srcS s a)
  afterRelease s fun s =>
    match sendBar s die i (.arrive bytes) s.gate with
    | none => .next (s.deliverP d true 1)
    | some s => .next (s.deliverP d false 1)

def execBarr (o : OpPa) (s : State) : Out := arriveSlot o.d o.a 0 s
def execBarrx (o : OpPab) (s : State) : Out := arriveSlot o.d o.a ((opndS s o.b).toNat % 2 ^ 56) s

/-- BWAIT: a wait that has ended without its phase has ended poisoned (R164). -/
def execBwait (o : OpPab) (s : State) : Out :=
  let (die, i) := barName (srcS s o.a)
  let b := barAt s die i
  let passed := b.phase != (srcS s o.a).extractLsb' 16 16
  let limit := timeoutOf s o.b
  match waitTest s limit (passed || b.poison) with
  | none => .next (s.hold .wait limit)
  | some late => .next ((s.deliverP o.d late 1).deliverP (o.d + 1) (!passed && !late) 1)

def execRearm (o : OpPab) (s : State) : Out :=
  let (die, i) := barName (srcS s o.a)
  match sendBar s die i (.rearm ((opndS s o.b).setWidth 16)) .open with
  | none => .next (s.deliverP o.d true 1)
  | some s => .next (s.deliverP o.d false 1)

/-! ## MWAIT (R305) -/

def execMwait (o : OpPb) (s : State) : Out :=
  let k := s.me
  let limit := timeoutOf s o.b
  match waitTest s limit (k.monitor.isNone || k.monitorHit) with
  | none => .next (s.hold .wait limit)
  | some true => .next (s.deliverP o.d true 1)
  | some false => .next ((s.modMe fun k => { k with
      monitor := none
      monitorHit := false }).deliverP o.d false 1)

/-! ## Trigger counters (R165, R306, R307) -/

def tctrName (x : Word) : Nat × Nat := ((x.extractLsb' 8 3).toNat, (x.extractLsb' 0 8).toNat)
def tctrAt (s : State) (d i : Nat) : BitVec 32 := tget (s.die d).tctr i 0

/-- The counter takes a value: the operations at or below it become eligible, in the order of their TRIG. -/
def setTctr (s : State) (d i : Nat) (v : BitVec 32) : State :=
  s.modDie d fun x =>
    let due (o : TrigOp) : Bool := o.ctr == i && decide (o.thr.toNat ≤ v.toNat)
    { x with
      tctr := tput x.tctr i v
      tops := x.tops.filter fun o => !due o
      tdue := x.tdue ++ x.tops.filter due }

/-- What a TRIG's image may be (R306). -/
inductive TrigImg where
  | cpy (o : OpCpy)
  | ready
  | post
  | other

def trigImg (i : Instr) : TrigImg :=
  match i with
  | .cpy o => if !o.follow && !o.bar && o.ws.isEmpty then .cpy o else .other
  | .cready _ => .ready
  | .fpostr _ => .post
  | _ => .other

/-- The registers that a CREADY or an FPOSTR reads. -/
def trigArgs (s : State) (i : Instr) : Word × Word :=
  match i with
  | .cready o => (srcS s o.a, 0)
  | .fpostr o => (srcS s o.a, opndS s o.b)
  | _ => (0, 0)

/-- An operation joins the queue of its counter's die; a full queue sets the predicate. That of a compensation task does not
belong to its activity's launch (R137). DESIGN CHOICE (log 93): a step of a launch that has been torn down queues its own as
before, and it fires. -/
def queueTrig (o : OpTrig) (i : Instr) (cmd : Option Cmd) (s : State) : State :=
  let (d, k) := tctrName (srcS s o.a)
  if 1024 ≤ (s.die d).tops.length + (s.die d).tdue.length then s.deliverP o.d true 1
  else
    let (x, y) := trigArgs s i
    let op : TrigOp := ⟨k, (srcS s o.b).setWidth 32, i, s.cur, s.me.ctx, s.sl.task,
      (s.sl.task.filter fun t => (s.task t).kind != .comp).map fun t => (s.task t).launch,
      cmd, x, y, s.ctx.scope, s.sl.asn, s.sl.sup⟩
    (setTctr (s.modDie d fun x => { x with tops := x.tops ++ [op] }) d k (tctrAt s d k)).deliverP o.d false 1

/-- TRIG: a CPY's checks and its hold are those of a CPY in the TRIG's bundle (log 16). -/
def execTrig (o : OpTrig) (s : State) : Out :=
  let s := askCkpt s
  match decodeSlot (o.w.setWidth 32) [] with
  | .error _ => orTrap (failReason [(true, 8)]) s fun _ => .next s
  | .ok i =>
    match trigImg i with
    | .other => orTrap (failReason [(true, 8)]) s fun _ => .next s
    | .cpy c =>
      let cmd := cpyCmd c s
      orTrap (cpyChecks (cpyReasons cmd.tA cmd.tB c.res c.strm cmd.dst) cmd cmd.src cmd.dst) s fun _ =>
        if c.res then
          holdFor id cmd.fA.const s fun _ => .next (queueTrig o i (some cmd) (s.deliverP 7 false 1))
        else .next (queueTrig o i (some cmd) s)
    | _ => .next (queueTrig o i none s)

def execTcntAdd (o : OpAB) (s : State) : Out :=
  let (d, k) := tctrName (srcS s o.a)
  let v := (tctrAt s d k).toNat + (opndS s o.b).toNat % 2 ^ 32
  .next (setTctr (askCkpt s) d k (BitVec.ofNat 32 (min v (2 ^ 32 - 1))))

def execTcntSet (o : OpAB) (s : State) : Out :=
  let (d, k) := tctrName (srcS s o.a)
  .next (setTctr (askCkpt s) d k ((opndS s o.b).setWidth 32))

end Sys2Proof.Machine
end

