-- ==== Sys2Proof/Machine/Tasks.lean ====
section
/-!
DEFINITION. Tasks.lean: addresses that the instructions of majors 0x78 to 0x7D take from registers, the task instructions and
residency advice (R17, R121, R147, R308 to R316).
-/
namespace Sys2Proof.Machine

/-! ## Addresses (R308) -/

/-- An address translated and checked before the bundle issues; the core freezes while its walk or its page is outstanding.
`n` bytes from it are what the instruction reaches, for the level that control space asks for (R7). Traps and freezes act on
`base`, what follows on `s`. -/
def withAddr (ks : List Kind) (va : Addr) (n : Nat) (base s : State) (k : State → Nat → Out) : Out :=
  let c := base.cur
  let asn := base.sl.asn
  let rs := ks.map fun x => (x, look base c asn base.sl.sup x va)
  match rs.find? fun r => match r.2 with
    | .ok _ _ _ => false
    | _ => true with
  | some (_, .fault f) => .next ((seeRefusal base asn va).trap f (va.setWidth 64) 2)
  | some (x, r) => .next ((lookFor base c none asn va x r).freezeAt 5 (.page va))
  | none =>
    match rs with
    | (_, .ok pa _ t) :: _ =>
      if ks.any fun x => ctlBytes base base.sl.sup x pa.toNat n then .next base.privilege else k (fillTlb s (clusterOf c) (dieOf c) t) pa.toNat
    | _ => k s 0

/-- Translates a range; poison in it is consumed where it is read. -/
def withRange (ks : List Kind) (va : Addr) (n : Nat) (base s : State) (k : State → Pieces → Out) : Out :=
  let n1 := min n (256 - va.toNat % 256)
  let bad (l : Pieces) : Option Nat := if ks.contains .rd then (l.find? fun e => base.poisoned e.1).map fun e => lineOf e.1 else none
  let done (s : State) (l : Pieces) : Out := match bad l with
    | some p => .next (base.consume p)
    | none => k s l
  withAddr ks va n1 base s fun s p1 =>
    if n1 = n then done s [(p1, n)]
    else withAddr ks (va + BitVec.ofNat 52 n1) (n - n1) base s fun s p2 => done s [(p1, n1), (p2, n - n1)]

/-- The result just put on its way is a remote one: its reply is still to come (R16, R308). -/
def markRemote (k : Core) (n : Nat) : Core :=
  { k with inflight := k.inflight.take n ++ (k.inflight.drop n).map fun e => { e with remote := true } }

/-- A remote predicate (R308). -/
def State.remoteP (s : State) (d : BitVec 3) (x : Bool) : State :=
  (s.deliverP d x 40).modMe fun k => markRemote k s.me.inflight.length
/-- A remote scalar result; it enters no latch. -/
def State.remoteS (s : State) (d : BitVec 5) (x : Word) : State :=
  (s.deliverSN d false x 40).modMe fun k => markRemote k s.me.inflight.length

/-- The executing step's task record, and its launch. -/
def curTask (s : State) : Nat := s.sl.task.getD 0
def curLaunch (s : State) : Nat := (s.task (curTask s)).launch
/-- Whether the executing step is a compensation task at task level. -/
def inComp (s : State) : Bool := (s.task (curTask s)).kind == .comp && !s.sl.sup

/-! ## TLAUNCH, TSPAWN, TDEP, TEND (R310 to R313) -/

def execTlaunch (o : OpPa) (s : State) : Out :=
  let va : Addr := (srcS s o.a).setWidth 52 &&& 0xFFFFFFFFFFF80
  withAddr [.rd, .wr] va 128 s s fun s' pa =>
    if devTop ≤ pa then .next (s.trap xAccess (va.setWidth 64) 2)
    else
      afterRelease s' fun t =>
        if 256 ≤ t.tlaunch.length then .next (t.deliverP o.d true 1)
        else
          let asn := if t.sl.sup then none else some t.sl.asn
          let t : State := { t with tlaunch := t.tlaunch ++ [(BitVec.ofNat 52 pa, asn, t.gate)] }
          .next (t.deliverP o.d false 1)

/-- A spawned task is refused at the WAITING limit of R125 and where the pool has no free record (R375). -/
def spawnRefused (s : State) (l d : Nat) : Bool := decide (4096 ≤ waitingOf s l d) || decide (poolSize s d ≤ poolUsed s d)

/-- TSPAWN. DESIGN CHOICE (log 93): a step of a launch that has been torn down creates its task as before. -/
def execTspawn (o : OpPss) (s : State) : Out :=
  let wid := srcS s o.a
  let e : Addr := (srcS s o.b).setWidth 52
  afterRelease s fun s =>
    let k := curLaunch s
    let l := s.launch k
    let d := dieOf s.cur
    if spawnRefused s k d then .next (s.deliverP o.d true 1)
    else
      let t := newKey s.tasks
      let x : Task := { Task.none with
        launch := k
        kind := .spawned
        die := d
        wid := wid
        entry := if srcS s o.b = 0 then opbEntry l else e
        prio := opbPrio l
        pinned := opbPin l
        gate := s.gate }
      let s := readyTask { s with tasks := tput s.tasks t x } t
      .next (s.deliverP o.d false 1)

/-- The walker-created record that TDEP may name. -/
def tdepTarget (s : State) (wid : Word) : Option Nat :=
  ((s.tasks.find? fun e => e.2.launch == curLaunch s && e.2.kind == .walked && e.2.wid == wid).map Prod.fst).filter fun t =>
    let x := s.task t
    x.st == .waiting && t != curTask s && x.ctr != 0xFFFF && decide ((s.task (curTask s)).added.length < 8)

def execTdep (o : OpPa) (s : State) : Out :=
  let wid := srcS s o.a
  afterRelease s fun s =>
    match tdepTarget s wid with
    | none => .next (s.remoteP o.d true)
    | some t =>
      let s := s.modTask t fun x => { x with ctr := x.ctr + 1 }
      let s := s.modTask (curTask s) fun x => { x with added := x.added ++ [t] }
      .next (s.remoteP o.d false)

/-- TEND: the step leaves its slot as soon as what it waits for is done. -/
def execTend (s : State) : Out :=
  if s.sl.sup || inComp s then .next (s.trap 0x0502 0 2)
  else .next (s.leaveBy (.final .done 0))

/-! ## Residency advice (R147, R315, R316) -/

/-- TILE and BYTES of a tensor identifier entry. -/
def tileNo (t : TidEnt) : Nat := tileIndex t.ndim.toNat (orgAt t) (shpAt t) (gttExt t.gtt)
def tidBytes (t : TidEnt) : Nat := cdiv ((List.range t.ndim.toNat).foldl (fun acc d => acc * shpAt t d) 1 * eltW t) 8

def matchesTid (t : TidEnt) (x : Resid) : Bool := residMatch x t.gti.toNat (tileNo t) (tidBytes t)

/-- The index that a new entry takes: a match, the lowest free one, the valid one written earliest. -/
def residPlace (l : Tab Resid) (cap : Nat) (t : TidEnt) : Nat :=
  match l.find? fun e => matchesTid t e.2 with
  | some e => e.1
  | none =>
    let valid := l.filter fun e => e.2.v
    match (List.range cap).find? fun i => !(valid.any fun e => e.1 == i) with
    | some i => i
    | none =>
      (valid.foldl (fun (acc : Nat × Nat) e => if e.2.stamp < acc.2 then (e.1, e.2.stamp) else acc)
        (0, (valid.head?.map fun e => e.2.stamp).getD 0 + 1)).1

def execResadv (o : OpResadv) (s : State) : Out :=
  let t := s.sl.tid o.ta.toNat
  orTrap (chkTid s o.ta) s fun _ =>
    let b := srcS s o.b
    let stg := b.getLsbD 63
    let loc : BitVec 23 := if stg then (b.extractLsb' 0 19).setWidth 23 else (b.extractLsb' 0 13).setWidth 23
    let e : Resid := ⟨true, stg, t.gti, BitVec.ofNat 40 (tileNo t), loc, BitVec.ofNat 24 (tidBytes t),
      o.obj.extractLsb' 14 3, o.obj.extractLsb' 0 14, (sReg s.sl o.d).setWidth 32, s.fresh⟩
    let s := s.nextFresh
    .next (if stg then s.modDie (dieOf s.cur) fun x => { x with resid := tput x.resid (residPlace x.resid 4096 t) e }
           else s.modMe fun k => { k with resid := tput k.resid (residPlace k.resid 512 t) e })

def execResdrop (o : OpT) (s : State) : Out :=
  let t := s.sl.tid o.t.toNat
  orTrap (chkTid s o.t) s fun _ =>
    let drop (l : Tab Resid) : Tab Resid := l.map fun e => if matchesTid t e.2 then (e.1, { e.2 with v := false }) else e
    .next ((s.modMe fun k => { k with resid := drop k.resid }).modDie (dieOf s.cur) fun x => { x with resid := drop x.resid })

def execReschk (o : OpReschk) (s : State) : Out :=
  let t := s.sl.tid o.ta.toNat
  orTrap (chkTid s o.ta) s fun _ =>
    let hit (l : Tab Resid) : Option Resid := (l.find? fun e => matchesTid t e.2).map Prod.snd
    let stale := match hit s.me.resid <|> hit (s.die (dieOf s.cur)).resid with
      | none => true
      | some x => !residCurrent s x
    .next (s.remoteP o.d stale)

end Sys2Proof.Machine
end

