-- ==== Sys2Proof/Machine/Activity.lean ====
section
/-!
DEFINITION. Activity.lean: long activities: the compensation stacks, the activity instructions, and the long-activity unit's
abandonments (R154, R155, R317 to R326, R375).
-/
namespace Sys2Proof.Machine

/-- The master code of the long-activity unit (R157, log 18). -/
def lauMaster : Nat := schedMaster 0

/-! ## Compensation stacks (R155, R375) -/

def segEntries (s : State) (d : Nat) : Nat := (s.die d).csseg.toNat % 4096 * 16384
def segAddr (s : State) (d i : Nat) : Nat := ((s.die d).csseg.toNat / 2 ^ 20 * 2 ^ 20 + 64 * i) % 2 ^ 52

/-- Whether the access tables allow the unit an access to an entry (R156). -/
def stackOk (s : State) (k : Kind) (d i : Nat) : Bool := accOk s lauMaster k (segAddr s d i)

/-- An entry as stored. DESIGN CHOICE (log 18): one that the access tables keep from the unit reads as zero. -/
def stackN (s : State) (e : Nat × Nat) (hi lo : Nat) : Nat :=
  if stackOk s .rd e.1 e.2 then bitsN (rdN s.mem (segAddr s e.1 e.2) 64) hi lo else 0

/-- The next older entry. -/
def linkOf (s : State) (e : Nat × Nat) : Option (Nat × Nat) :=
  if stackN s e 470 470 = 1 then some (stackN s e 450 448, stackN s e 469 451) else none
def isSave (s : State) (e : Nat × Nat) : Bool := stackN s e 472 471 == 1
/-- The released objects of an entry, each with the order number of its REL. -/
def objsOf (s : State) (e : Nat × Nat) : List (Nat × Nat) :=
  let o := tget (s.die e.1).comps e.2 (0, 0)
  (if stackN s e 491 491 = 1 then [(stackN s e 490 474, o.1)] else []) ++
  (if stackN s e 509 509 = 1 then [(stackN s e 508 492, o.2)] else [])

/-- The chain of entries from one on, newest first. -/
def chainFrom (s : State) : Nat → Option (Nat × Nat) → List (Nat × Nat)
  | 0, _ | _, none => []
  | n + 1, some e => e :: chainFrom s n (linkOf s e)

def usedEntries (s : State) : Nat := (List.range 8).foldl (fun acc d => acc + (s.die d).comps.length) 0
def actChain (s : State) (a : BitVec 12) : List (Nat × Nat) := chainFrom s (usedEntries s) (actGet s a).top

/-- The lowest index that is not in use (log 18); none in a full segment. -/
def freeEntry (s : State) (d : Nat) : Option Nat :=
  let used := (s.die d).comps.map Prod.fst
  let n := (used.zipIdx.takeWhile fun e => e.1 == e.2).length
  if n < segEntries s d then some n else none

/-- Pushes an entry on a die's segment and links it; none in a full segment, or where the access tables deny the write
(log 18). -/
def pushEntry (s : State) (d : Nat) (a : BitVec 12) (kind arg entry : Nat) (objs : List (BitVec 17 × Nat)) : Option State :=
  match (freeEntry s d).filter (stackOk s .wr d) with
  | none => none
  | some i =>
    let link := match (actGet s a).top with
      | some (ld, li) => ld * 2 ^ 448 + li * 2 ^ 451 + 2 ^ 470
      | none => 0
    let o (n pos : Nat) : Nat := match objs[n]? with
      | some e => e.1.toNat * 2 ^ pos + 2 ^ (pos + 17)
      | none => 0
    let v := arg + entry * 2 ^ 384 + a.toNat * 2 ^ 436 + link + kind * 2 ^ 471 + o 0 474 + o 1 492
    let ord (n : Nat) : Nat := (objs[n]?.map Prod.snd).getD 0
    let s := engineWrite s lauMaster false ⟨segAddr s d i, 64, v, 2 ^ 512 - 1⟩
    let s := s.modDie d fun x => { x with comps := tput x.comps i (ord 0, ord 1) }
    some (modAct s a fun x => { x with top := some (d, i) })

/-- Pops an activity's newest entry. -/
def popEntry (s : State) (a : BitVec 12) : State :=
  match (actGet s a).top with
  | none => s
  | some e =>
    let l := linkOf s e
    let s := s.modDie e.1 fun x => { x with comps := tdel x.comps e.2 }
    modAct s a fun x => { x with top := l }

/-! ## Committing (R322) -/

/-- What ACOMMIT does after its checks. -/
def commitAct (s : State) (a : BitVec 12) : State :=
  let s := (actChain s a).foldl (fun s e => s.modDie e.1 fun x => { x with comps := tdel x.comps e.2 }) s
  let s := { s with acts := tmap s.acts fun _ x => { x with ties := x.ties.filter (· != a) } }
  let s := s.mapDies fun _ d =>
    { d with sync := tmap d.sync fun _ o => if o.lact = a then { o with lav := false } else o }
  let drop (sl : Slot) : Slot := if sl.attach = some a then { sl with attach := none } else sl
  let s := s.mapCores fun _ k =>
    { k with
      slot0 := drop k.slot0
      slot1 := drop k.slot1 }
  let s : State := { s with launches := tmap s.launches fun _ l => if l.act = some a then { l with act := none } else l }
  modAct s a fun _ => .free

/-! ## Checks (R318) -/

def actIx (x : Word) : BitVec 12 := x.setWidth 12

/-- The failing reason of the activity trap. `owner` and `own` say whether reasons 2 and 5 are checked. -/
def actReason (s : State) (a : BitVec 12) (owner own : Bool) : Fail :=
  let x := actGet s a
  let r (b : Bool) (n : Nat) : Fail := failIf b 0x0501 n
  r (owner && x.st != .free && x.lid != (s.launch (curLaunch s)).lid) 2 <|> r (x.st == .free) 3 <|>
  r (own && s.sl.attach.any (· != a)) 5

/-- The compensation-task trap, then what follows. -/
def notInComp (s : State) (k : Unit → Out) : Out := orTrap (failIf (inComp s) 0x0502 0) s k

/-! ## The instructions (R319 to R323, R326) -/

def attachSlot (s : State) (a : BitVec 12) : State := s.modSl fun sl => { sl with attach := some a }

/-- The activity that an ABEGIN returns, and the state. -/
def beginAct (s : State) : Option (BitVec 12 × State) :=
  let k := curLaunch s
  let l := s.launch k
  match (if opbLong l then l.act.filter fun a => (actGet s a).st != .free else none) with
  | some a => some (a, s)
  | none =>
    match (List.range 4096).find? fun i => (actGet s (BitVec.ofNat 12 i)).st == .free with
    | none => none
    | some i =>
      let a : BitVec 12 := BitVec.ofNat 12 i
      let s := modAct s a fun _ => ⟨.opened, l.lid, k, none, 0, []⟩
      some (a, if opbLong l then s.modLaunch k fun x => { x with act := some a } else s)

/-- ABEGIN. DESIGN CHOICE (log 93): a step of a launch that has been torn down opens its activity as before, and it stays open. -/
def execAbegin (o : OpD) (s : State) : Out :=
  notInComp s fun _ =>
    match beginAct s with
    | none => .next (s.remoteS o.d (BitVec.allOnes 64))
    | some (a, s) => .next ((attachSlot s a).remoteS o.d (a.setWidth 64))

/-- RELs of the slot still on their way have taken effect before its record is used (log 18). -/
def landSlot (s : State) : State := landOwn s s.cur s.me.ctx fun _ => true

def execApush (o : OpApush) (s : State) : Out :=
  let a := actIx (srcS s o.a)
  let x := srcS s o.b
  notInComp s fun _ =>
    orTrap (actReason s a true true <|> failIf (decide (8192 ≤ x.toNat)) 0x0205 x.toNat) s fun _ =>
      readRow s x.toNat fun row =>
        afterRelease s fun s =>
          let s := landSlot s
          if (actGet s a).st ≠ .opened then .next (s.remoteP o.d true)
          else
            match pushEntry s (dieOf s.cur) a 0 (row.toNat % 2 ^ 384) o.entry.toNat s.sl.released with
            | none => .next (s.remoteP o.d true)
            | some s =>
              .next ((s.modSl fun sl => { sl with
                released := []
                attach := some a }).remoteP o.d false)

def execAsave (o : OpDa) (s : State) : Out :=
  let a := actIx (srcS s o.a)
  notInComp s fun _ =>
    orTrap (actReason s a true true) s fun _ =>
      afterRelease s fun s =>
        let s := landSlot s
        if (actGet s a).st ≠ .opened then .next (s.remoteS o.d (BitVec.allOnes 64))
        else
          match pushEntry s (dieOf s.cur) a 1 0 0 [] with
          | none => .next (s.remoteS o.d (BitVec.allOnes 64))
          | some s =>
            let s := modAct s a fun x => { x with nsave := x.nsave + 1 }
            let s := s.modSl fun sl => { sl with
              released := []
              attach := some a }
            .next (s.remoteS o.d ((actGet s a).nsave.setWidth 64))

/-- Whether an activity to which `a` is tied is still live. -/
def tiedLive (s : State) (a : BitVec 12) : Bool := (actGet s a).ties.any fun t => (actGet s t).st != .free

def execAcommit (o : OpPa) (s : State) : Out :=
  let a := actIx (srcS s o.a)
  notInComp s fun _ =>
    orTrap (actReason s a true false) s fun _ =>
      afterRelease s fun s =>
        if tiedLive s a || (actGet s a).st != .opened then .next (s.remoteP o.d true)
        else .next ((commitAct (landSlot s) a).remoteP o.d false)

def execAabandon (o : OpPss) (s : State) : Out :=
  let x := srcS s o.a
  let a := actIx x
  let save : BitVec 16 := x.extractLsb' 12 16
  let w := srcS s o.b
  notInComp s fun _ =>
    orTrap (actReason s a true false) s fun _ =>
      let go (s : State) : Out :=
        afterRelease s fun s =>
          let s := landSlot s
          if (actGet s a).st ≠ .opened ∨ (actGet s a).nsave < save then .next (s.remoteP o.d true)
          else
            .next ((startAbandon s a save (if w = 0 then none else some (w.setWidth 52)) s.sl.asn (dieOf s.cur) s.gate).remoteP o.d false)
      if w = 0 then go s else withAddr [.wr] (w.setWidth 52) 8 s s fun s _ => go s

/-- The activity of the executing compensation task. -/
def compAct (s : State) : BitVec 12 := ((s.task (curTask s)).comp.map fun e => e.1).getD 0

/-- CEND: success ends the step; failure makes the activity FAILED and traps. -/
def execCend (o : OpA) (s : State) : Out :=
  let isComp := (s.task (curTask s)).kind == .comp
  if !isComp && !s.sl.sup then .next (s.trap 0x0502 0 2)
  else if (srcS s o.a).getLsbD 0 then
    let a := compAct s
    let s := modAct s a fun x => { x with st := .failed }
    let mark (b : Abandon) : Abandon := if b.task = some (curTask s) then { b with failed := some a, tfail := true } else b
    let s : State := { s with abandons := s.abandons.map mark }
    let s := s.modSl fun sl => { sl with cfail := true }
    .next (s.trap 0x0503 (a.setWidth 64) 2)
  else .next ((askCkpt s).leaveBy (.final .done 0))

/-- Whether the activity is the one whose failure an abandonment awaits. -/
def failedAt (b : Abandon) (a : BitVec 12) : Bool := b.failed == some a

def execAresume (o : OpSS) (s : State) : Out :=
  if !s.sl.sup then .next s.privilege
  else
    let a := actIx (srcS s o.a)
    orTrap (actReason s a false false) s fun _ =>
      if (actGet s a).st ≠ .failed then .next s
      else
        let s := modAct s a fun x => { x with st := .abandoning }
        let s := if (srcS s o.b).getLsbD 0 then popEntry s a else s
        let resume (b : Abandon) : Abandon := if failedAt b a then { b with failed := none } else b
        .next { s with abandons := s.abandons.map resume }

/-- The 64-bit status word of an abandonment, translated again at its write (R323). What is left of the abandonment where the
host has still to grant the page, which is asked for (R364). -/
def writeStatus (s : State) (b : Abandon) (v : Nat) : State × Option Abandon :=
  match b.status with
  | none => (s, none)
  | some w =>
    match xlateU s (128 * b.die) lauMaster b.asn false .wr w with
    | .ok pa _ _ => (engineWrite s lauMaster false ⟨pa.toNat, 8, v, 2 ^ 64 - 1⟩, none)
    | .fault _ => ((seeRefusal s b.asn w).recordD 0 3 1 0 lauMaster 0x51 w 0, none)
    | .ask => (askPage s b.asn w .wr, some { b with
        set := []
        owed := some v })

def execAdiscard (o : OpA) (s : State) : Out :=
  if !s.sl.sup then .next s.privilege
  else
    let a := actIx (srcS s o.a)
    orTrap (actReason s a false false) s fun _ =>
      if (actGet s a).st ≠ .failed then .next s
      else
        let s := commitAct s a
        let (s, owed) := match s.abandons.find? fun b => b.act == a && b.owed.isNone with
          | some b => writeStatus s b 4
          | none => (s, none)
        let leave (b : Abandon) : Abandon :=
          if b.set.contains a then
            { b with
              set := b.set.filter (· != a)
              failed := if failedAt b a then none else b.failed
              dropped := b.dropped || b.act == a }
          else b
        .next { s with abandons := s.abandons.map leave ++ owed.toList }

/-! ## The long-activity unit (R323 to R326) -/

/-- Whether a member of an abandonment's set has been undone as far as it goes. -/
def undone (s : State) (b : Abandon) (a : BitVec 12) : Bool :=
  let x := actGet s a
  match x.top with
  | none => true
  | some e => a == b.act && b.save != 0 && isSave s e && x.nsave == b.save

/-- The heads: each member not undone, with its newest entry. -/
def heads (s : State) (b : Abandon) : List (BitVec 12 × (Nat × Nat)) :=
  b.set.filterMap fun a => if undone s b a then none else (actGet s a).top.map fun e => (a, e)

/-- Whether `a` is tied, directly or through other ties, to `c`. -/
def tiedTo (s : State) (a c : BitVec 12) : Bool :=
  let step (l : List (BitVec 12)) : List (BitVec 12) := (l ++ l.foldl (fun acc x => acc ++ (actGet s x).ties) []).eraseDups
  ((List.range s.acts.length).foldl (fun l _ => step l) (actGet s a).ties).contains c

/-- The head of the highest activity index. -/
def highest (l : List (BitVec 12 × (Nat × Nat))) : Option (BitVec 12 × (Nat × Nat)) :=
  l.foldl (fun acc h => match acc with
    | none => some h
    | some g => if g.1 < h.1 then some h else some g) none

/-- The choice of R324 among the heads. -/
def chooseHead (s : State) (b : Abandon) (hs : List (BitVec 12 × (Nat × Nat))) : Option (BitVec 12 × (Nat × Nat)) :=
  let rest := b.set.foldl (fun acc a => acc ++ actChain s a) []
  let blocked (e : Nat × Nat) : Bool := (objsOf s e).any fun o =>
    rest.any fun f => f != e && (objsOf s f).any fun p => p.1 == o.1 && decide (o.2 < p.2)
  let free := hs.filter fun h => !blocked h.2
  let el := if free.isEmpty then hs else free
  let best := el.filter fun h => !(el.any fun g => g.1 != h.1 && tiedTo s g.1 h.1 && !tiedTo s h.1 g.1)
  highest (if best.isEmpty then el else best)

/-- The end of an abandonment. -/
def endAbandon (s : State) (b : Abandon) : State × Option Abandon :=
  let s := (b.set.filter (· != b.act)).foldl commitAct s
  if b.dropped then (s, none)
  else
    let s := if b.save = 0 then commitAct s b.act else modAct s b.act fun x => { x with st := .opened }
    writeStatus s b 1

/-- One action of the unit on an abandonment: none where it waits. -/
def abandonStep (s : State) (b : Abandon) : Option (State × Option Abandon) :=
  match b.task, b.owed with
  | _, some v => (match writeStatus s b v with
    | (s, none) => some (s, none)
    | (_, some _) => none)
  | some t, none =>
    let x := s.task t
    if !x.st.final then none
    else
      let a := (x.comp.map fun e => e.1).getD 0
      let b' := { b with task := none, tfail := false }
      if b.tfail || !b.set.contains a then some (s, some b')
      else if x.st == .done then some (popEntry s a, some b')
      else
        let s := (modAct s a fun y => { y with st := .failed }).recordD 0 3 2 0 lauMaster 0x50 0 0
        some (s, some { b' with failed := some a })
  | none, none =>
    if b.failed.isSome || !s.passes b.gate then none
    else
      let hs := heads s b
      if hs.isEmpty then some (endAbandon s b)
      else
        match highest (hs.filter fun h => isSave s h.2) with
        | some (a, _) => some (popEntry (modAct s a fun x => { x with nsave := x.nsave - 1 }) a, some b)
        | none => none

/-- The first abandonment that can act, with its place. -/
def abandonFirst (s : State) : List Abandon → List Abandon → State
  | _, [] => s
  | done, b :: r =>
    match abandonStep s b with
    | none => abandonFirst s (done ++ [b]) r
    | some (s, some b) => { s with abandons := done ++ b :: r }
    | some (s, none) => { s with abandons := done ++ r }

def execAbandonment (s : State) : Out := .next (abandonFirst s [] s.abandons)

/-- The compensation task of an entry becomes ready on the entry's die. -/
def startComp (s : State) (a : BitVec 12) (e : Nat × Nat) : State × Nat :=
  let t := newKey s.tasks
  let x : Task := { Task.none with
    launch := (actGet s a).launch
    kind := .comp
    die := e.1
    entry := BitVec.ofNat 52 (stackN s e 435 384)
    prio := 3
    pinned := true
    comp := some (a, e.1, e.2) }
  (readyTask { s with tasks := tput s.tasks t x } t, t)

/-- One compensation task at a time on the whole module. -/
def compRunning (s : State) : Bool := s.abandons.any fun b => b.task.isSome

def compFirst (s : State) : List Abandon → List Abandon → State
  | _, [] => s
  | done, b :: r =>
    let hs := heads s b
    if b.failed.isNone && s.passes b.gate && !(hs.any fun h => isSave s h.2) then
      match chooseHead s b hs with
      | none => compFirst s (done ++ [b]) r
      | some (a, e) =>
        let (s, t) := startComp s a e
        { s with abandons := done ++ { b with task := some t } :: r }
    else compFirst s (done ++ [b]) r

def execCompensationTaskRun (s : State) : Out := .next (if compRunning s then s else compFirst s [] s.abandons)

end Sys2Proof.Machine
end

