-- ==== Sys2Proof/Machine/Branch.lean ====
section
/-!
DEFINITION. Branch.lean: branches, calls, hardware loops, the modulo sequencer and the markers (R195 to R209).
-/
namespace Sys2Proof.Machine

/-! ## Branches and calls (R195, R196) -/

/-- A taken branch: the target, and the empty cycle that follows the bundle. -/
def State.jump (s : State) (t : Addr) : State :=
  { s with eff := { s.eff with
      redirect := some t
      bubble := true
      noEnd := true } }

/-- A relative target counts words from the bundle; an absolute one is the immediate, sign-extended to 64 bits. -/
def target {w : Nat} (s : State) : Tgt w → Addr
  | .rel o => s.ctx.baddr + ((o.signExtend 50).setWidth 52 <<< 2)
  | .abs ws => (immS ws).setWidth 52

def execBr (o : OpBr) (s : State) : Out := .next (if guardOn s o.g then s.jump (target s o.t) else s)

/-- opnd(A) cc 0. -/
def brcW (cc : BrC) (a : Word) : Bool :=
  match cc with
  | .eqz => a == 0
  | .nez => a != 0
  | .ltz => a.slt 0
  | .gez => BitVec.sle 0 a
  | .gtz => BitVec.slt 0 a
  | .lez => a.sle 0

def execBrc (o : OpBrc) (s : State) : Out :=
  .next (if brcW o.cc (srcS s o.a) then s.jump (target s (.rel o.o)) else s)

def execCall (o : OpCall) (s : State) : Out :=
  let s := if o.d.n then s else s.deliverSN o.d.r false (s.ctx.next.setWidth 64) 1
  .next (s.jump (target s o.t))

def execJmpr (o : OpJmpr) (s : State) : Out := .next (if guardOn s o.g then s.jump ((srcS s o.a).setWidth 52) else s)
def execRet (o : OpA) (s : State) : Out := .next (s.jump ((srcS s o.a).setWidth 52))

/-! ## Loops (R197 to R204) -/

/-- The end bundle that an offset names. -/
def loopEnd (s : State) (o : BitVec 11) : Addr := s.ctx.baddr + BitVec.ofNat 52 (4 * o.toNat)

/-- What needs words of other bundles: it waits for their translations, and a fault is taken at its own bundle. -/
def withFetch {α : Type} (x : Fetched α) (s : State) (k : α → Out) : Out :=
  match x with
  | .ok a => k a
  | .bad e => .next (s.trap e.1 (e.2.setWidth 64) 2)
  | .wait va =>
    let sl := s.sl
    .next ((lookFor s s.cur none sl.asn va .ex (look s s.cur sl.asn sl.sup .ex va)).freezeAt 0 (.page va))

/-- A body that is skipped: the bundle after the end bundle issues in cycle c + 2. -/
def skipBody (s : State) (stop : Addr) : Out :=
  withFetch (fetchGo s s.cur 8 stop) s fun (ws, ts) =>
    .next ((fillAll s s.cur ts).jump (stop + BitVec.ofNat 52 (4 * ws.length)))

def pushLevel (s : State) (l : Level) : State :=
  { (s.modSl fun sl => { sl with
      loops := sl.loops ++ [l]
      prol := 0 }) with
    eff := { s.eff with noEnd := true } }

def execLoop (o : OpLoop) (s : State) : Out :=
  if o.o.toNat < s.ctx.words ∨ 4 ≤ s.sl.loops.length then .next (s.illegal 0x0006)
  else
    let t := (opndS s o.b).toInt
    if t ≤ 0 then skipBody s (loopEnd s o.o)
    else .next (pushLevel s ⟨s.ctx.next, loopEnd s o.o, BitVec.ofInt 32 (min t (2 ^ 32 - 1)), 0, false, none⟩)

/-- MLOOP: the level counts passes, and the body is loaded in the cycle after the bundle (R201). -/
def execMloop (o : OpMloop) (s : State) : Out :=
  if o.o.toNat < s.ctx.words ∨ 4 ≤ s.sl.loops.length then .next (s.illegal 0x0006)
  else
    withFetch (bodyOf s s.cur s.ctx.next (loopEnd s o.o)) s fun r =>
      match r with
      | none => .next (s.illegal 0x0006)
      | some (body, ts) =>
        let ii := o.ii.toNat
        if body.length % ii ≠ 0 then .next (s.illegal 0x0006)
        else
          let t := (opndS s o.b).toInt
          if t ≤ 0 then skipBody s (loopEnd s o.o)
          else
            let n := body.length / ii
            let l : Level := ⟨s.ctx.next, loopEnd s o.o, BitVec.ofInt 32 (min (t + n - 1) (2 ^ 32 - 1)), o.ii, true, some body⟩
            let s := pushLevel (fillAll s s.cur ts) l
            .next { s with eff := { s.eff with bubble := true } }

/-- LBRK pops the innermost level before the end handling of its bundle (R200). -/
def execLbrk (g : Guard) (s : State) : Out :=
  .next (if guardOn s g then s.modSl fun sl => { sl with loops := sl.loops.dropLast } else s)

/-! ## Markers (R206 to R209) -/

/-- PPT: taken only with a request pending, at task level, outside every loop. -/
def execPpt (s : State) : Out :=
  if s.me.preempt && !s.sl.sup && s.sl.loops.isEmpty then
    .next ((s.modMe fun k => { k with preempt := false }).leaveBy (.preempt s.ctx.next))
  else .next s

/-- CKPT: the checkpoint is taken at the end of its bundle, at either level (R207, R353; log 90). -/
def execCkpt (s : State) : Out := .next { s with eff := { s.eff with ckpt := true } }

/-- Every partner that marked this core learns the identifier it passes. -/
def tellPartners (s : State) (id : BitVec 12) : State :=
  if s.cores.any fun e => e.2.marks.contains s.cur then
    s.mapCores fun i k => if clusterOf i = clusterOf s.cur ∧ k.marks.contains s.cur then
      { k with rdzSeen := k.rdzSeen ++ [(s.cur, id)] } else k
  else s

/-- Whether a core replays: its STATUS says so, or a partner still marks it (R209). -/
def replaying (s : State) : Bool := s.sl.replay || s.cores.any fun e => e.2.marks.contains s.cur

/-- RDZ: marks of cores that have passed this identifier clear; while one is left the core is held, unless it replays
itself. -/
def execRdz (id : BitVec 12) (s : State) : Out :=
  let s := s.modMe fun k => { k with marks := k.marks.filter fun m => !k.rdzSeen.contains (m, id) }
  if s.me.marks.isEmpty || replaying s then .next (tellPartners s id) else .next (s.freezeAt 4 .rdz)

end Sys2Proof.Machine
end

