-- ==== Sys2Proof/Machine/CachePage.lean ====
section
/-!
DEFINITION. CachePage.lean: block tables, scores, grace counters and hand-over of pages (R152, R153, R166, R332 to R335).
-/
namespace Sys2Proof.Machine

/-! ## Sequence descriptors (R152, R308) -/

/-- A descriptor as read, with its physical address. -/
structure Seq where
  dpa : Addr
  table : Nat
  nlb : Nat
  score : Nat
  grace : Nat

/-- Reads the descriptor that opnd(A) names. -/
def withSeq (a : Word) (base s : State) (k : State → Seq → Out) : Out :=
  withRange [.rd] (a.setWidth 52) 64 base s fun s l =>
    let d := rdPieces s l
    k s ⟨BitVec.ofNat 52 ((l.headD (0, 0)).1), bitsN d 51 0, bitsN d 159 128, bitsN d 243 192, bitsN d 307 256⟩

def entryVa (q : Seq) (b : Nat) : Addr := BitVec.ofNat 52 (q.table + 4 * b)
def graceVa (q : Seq) (p : Nat) : Addr := BitVec.ofNat 52 (q.grace + 4 * p)

/-- Issues the access of such an instruction at its home slice, with its minor and its data: it performs once what the step has
done before has (R308), and its predicate is remote. A word that may be cut at a line performs as one. -/
def pageAccess (s : State) (minor : Nat) (e : InFl) (va : Addr) (l : Pieces) (data : Row) : Out :=
  match issueAcc s e { accAt .atomic va with
      word := 0x7C000000 ||| BitVec.ofNat 32 minor
      data := data
      pa := BitVec.ofNat 52 (l.headD (0, 0)).1 } with
  | (s, none) => .next s
  | (s, some p) => .next (s.consume p)

/-- The predicate that such an access sets, due 40 cycles after issue. -/
def pageP (s : State) (d : BitVec 3) : InFl :=
  { mkIn s 40 .pred (d.setWidth 5) .bs true 0 (BitVec.allOnes 128) with remote := true }

/-! ## BTSET, BTLOOK, BTINV (R333) -/

def execBtset (o : OpPss) (s : State) : Out :=
  let x := srcS s o.b
  let b := x.toNat % 2 ^ 32
  afterRelease s fun s' =>
    withSeq (srcS s o.a) s s' fun s' q =>
      if q.nlb ≤ b then .next (s'.remoteP o.d true)
      else
        withRange [.wr] (entryVa q b) 4 s s' fun s' l =>
          pageAccess s' 0 (pageP s o.d) (entryVa q b) l (pageData x none q.dpa 0 0)

/-- A looked-up entry takes its place as the most recently used of the cluster's 256 (R153). -/
def useBtb (s : State) (cl : Nat) (d : Addr) (b : Nat) (p : BitVec 24) : State :=
  s.modCluster cl fun k => { k with btb := (⟨d, b, p, 0⟩ :: k.btb.filter fun e => !(e.desc == d && e.block == b)).take 256 }

/-- BTLOOK; the reserved bits of an entry read as zero (R6, R152). -/
def execBtlook (o : OpDab) (s : State) : Out :=
  let b := (srcS s o.b).toNat % 2 ^ 32
  let cl := clusterOf s.cur
  withSeq (srcS s o.a) s s fun s' q =>
    if q.nlb ≤ b then .next (s'.remoteS o.d 0)
    else
      match (s'.cluster cl).btb.find? fun e => e.desc == q.dpa && e.block == b with
      | some e => .next ((useBtb s' cl q.dpa b e.pbn).remoteS o.d (BitVec.ofNat 64 (btWord e.pbn.toNat true)))
      | none =>
        withRange [.rd] (entryVa q b) 4 s s' fun s' l =>
          let x := rdPieces s' l
          let s' := if x.testBit 31 then useBtb s' cl q.dpa b (BitVec.ofNat 24 x) else s'
          .next (s'.remoteS o.d (BitVec.ofNat 64 (btWord x (x.testBit 31))))

/-- BTINV: it issues once no cluster's buffer holds an entry of the descriptor. -/
def execBtinv (o : OpA) (s : State) : Out :=
  withAddr [.rd] ((srcS s o.a).setWidth 52) 64 s s fun s' pa =>
    let d := BitVec.ofNat 52 pa
    if wakes s' s.cur s.me.ctx (.btinv d) then .next s' else .next (s.freezeAt 6 (.btinv d))

/-! ## SACC (R333) -/

/-- The lanes of SACC, one after another: each score is translated before the bundle issues. -/
def saccLanes (base : State) (q : Seq) (t0 : Nat) : List Nat → List (Nat × Pieces) → State → (State → List (Nat × Pieces) → Out) → Out
  | [], acc, s, k => k s acc.reverse
  | i :: r, acc, s, k =>
    if t0 + i < 16 * q.nlb then
      withRange [.rd, .wr] (BitVec.ofNat 52 (q.score + 4 * (t0 + i))) 4 base s fun s l => saccLanes base q t0 r ((i, l) :: acc) s k
    else saccLanes base q t0 r acc s k

/-- One line of the score table after another is updated. `vas` gives the address of a lane's score. -/
def saccLines (s : State) (va : Nat → Addr) (v : Row) : List (List (Nat × Pieces)) → Out
  | [] => .next s
  | g :: r =>
    let i := (g.headD (0, [])).1
    let m : LaneMask := g.foldl (fun acc e => acc ||| 1 <<< (2 * e.1)) 0
    match issueAcc s { noResult s with lmask := m } { accAt .atomic (va i) with
        word := 0x7C000003
        data := v
        pa := BitVec.ofNat 52 ((g.headD (0, [])).2.headD (0, 0)).1 } with
    | (s, none) => saccLines s va v r
    | (s, some p) => .next (s.consume p)

/-- SACC: each line that its scores touch is updated as one atomic. -/
def execSacc (o : OpDab) (s : State) : Out :=
  let t0 := (sReg s.sl o.d).toNat
  let v := srcVT s .f32 .rne o.b
  afterRelease s fun s' =>
    withSeq (srcS s o.a) s s' fun s' q =>
      saccLanes s q t0 (List.range 64) [] s' fun s' l =>
        let va (i : Nat) : Addr := BitVec.ofNat 52 (q.score + 4 * (t0 + i))
        saccLines s' va v (l.splitBy fun x y => (va x.1).toNat / 256 == (va y.1).toNat / 256)

/-! ## GRACE and HANDOVER (R166, R334, R335) -/

def execGrace (o : OpPss) (s : State) : Out :=
  let x := srcS s o.b
  afterRelease s fun s' =>
    withSeq (srcS s o.a) s s' fun s' q =>
      let va := graceVa q (x.toNat % 2 ^ 24)
      withRange [.rd, .wr] va 4 s s' fun s' l => pageAccess s' 4 (pageP s o.d) va l (pageData x none q.dpa 0 0)

/-- The notice address of HANDOVER: none where D is 0. -/
def noticeOf (s : State) (d : BitVec 3) : Option Addr := if d = 0 then none else some ((sReg s.sl (d.setWidth 5)).setWidth 52)

def withNotice (n : Option Addr) (base s : State) (k : State → Out) : Out :=
  match n with
  | none => k s
  | some a => withAddr [.wr] a 8 base s fun s _ => k s

/-- HANDOVER: the counter that its entry now names is translated with the other addresses; the entry is read again where it
changes, at its home slice. -/
def execHandover (o : OpPss) (s : State) : Out :=
  let x := srcS s o.b
  let b := x.toNat % 2 ^ 32
  let notice := noticeOf s o.d
  afterRelease s fun s' =>
    withNotice notice s s' fun s' =>
    withSeq (srcS s o.a) s s' fun s' q =>
      if q.nlb ≤ b then .next (s'.remoteP o.d true)
      else
        withRange [.rd, .wr] (entryVa q b) 4 s s' fun s' l =>
          let e := rdPieces s' l
          let go (s' : State) (ctr : Nat) : Out :=
            pageAccess s' 5 (pageP s o.d) (entryVa q b) l (pageData x notice q.dpa q.grace ctr)
          if !e.testBit 31 then go s' 0
          else withRange [.rd] (graceVa q (e % 2 ^ 24)) 4 s s' fun s' g => go s' (g.headD (0, 0)).1

end Sys2Proof.Machine
end

