-- ==== Sys2Proof/Machine/System.lean ====
section
/-!
DEFINITION. System.lean: TRAP, EBREAK, RFT, SIGNAL, the sticky records and ERRLD (R77, R158, R336 to R339).
-/
namespace Sys2Proof.Machine

def execTrap (code : BitVec 12) (s : State) : Out :=
  .next (s.trap (0x1000 + code.setWidth 16) (BitVec.ofNat 64 s.ctx.words) 2)

def execEbreak (s : State) : Out := .next (s.trap 0x0011 (BitVec.ofNat 64 s.ctx.words) 2)

/-- RFT: the frame gives the step back (R337, R347) at once, or, where accesses of the handler or pages of the frame that the host
has still to grant stand open, as soon as they do no more (log 28). -/
def execRft (s : State) : Out :=
  if !s.sl.sup then .next s.privilege
  else if pendingAcc s.me || (frameAsk s s.cur .rd).isSome then
    let s := s.modMe fun k => { k with returning := true }
    .next { s with sig := .gone }
  else .next { returnTrap s s.cur with sig := .gone }

/-- SIGNAL: it comes to its receiver once what its step has done before has performed (R308, R338). -/
def execSignal (o : OpPss) (s : State) : Out :=
  let c := (srcS s o.a).toNat % 1024
  let code : BitVec 16 := (srcS s o.b).setWidth 16
  afterRelease s fun s =>
    if 8 ≤ (s.core c).signals.length then .next (s.deliverP o.d true 1)
    else
      let e : BitVec 16 × BitVec 10 × Gate := (code, BitVec.ofNat 10 s.cur, s.gate)
      .next ((s.modCore c fun k => { k with signals := k.signals ++ [e] }).deliverP o.d false 1)

def execXread (o : OpXread) (s : State) : Out := .next (s.deliverSN o.d false (vget s.sl.sticky o.n.toNat 0) 1)
def execXclr (n : BitVec 3) (s : State) : Out := .next (s.modSl fun sl => { sl with sticky := vset sl.sticky n.toNat 0 })

def execErrld (o : OpDa) (s : State) : Out :=
  if !s.sl.sup then .next s.privilege
  else
    let x := (srcS s o.a).toNat
    .next (s.remoteS o.d (errRecWord (vget (bankOf s (bitsN x 9 7) (bitsN x 3 2)).recs (bitsN x 6 4) .empty) (bitsN x 1 0)))

end Sys2Proof.Machine
end

