-- ==== Sys2Proof/Machine/Coherence.lean ====
section
/-!
DEFINITION. Coherence.lean: the home protocol: directories, the transactions of a home, and what a home or a cluster does as
each message arrives (R20, R92, R386 to R391).
-/
namespace Sys2Proof.Machine

/-! ## Arrival (R388) -/

def MsgKind.fromHome : MsgKind → Bool
  | .data | .grant | .fwds | .fwdm | .inv | .binv | .putack => true
  | _ => false

/-- Messages whose order is kept: one home slice, one cluster, one direction; a DataF has none. -/
def sameLane (a b : Msg) : Bool :=
  a.kind != .dataf && b.kind != .dataf && a.kind.fromHome == b.kind.fromHome && a.cl == b.cl &&
  homeDie a.pa.toNat == homeDie b.pa.toNat && homeSlice a.pa.toNat == homeSlice b.pa.toNat

/-- A forward or an Inv between data and grant is held. -/
def heldBack (s : State) (m : Msg) : Bool :=
  (m.kind == .fwds || m.kind == .fwdm || m.kind == .inv || m.kind == .binv) &&
  (s.cluster m.cl).reqs.any fun r => r.pa == m.pa && ((r.data == .got && r.grant.isNone) || (r.data == .no && r.grant.isSome))

/-- The hold of R20 keeps a line from other parties. -/
def atomicHeld (s : State) (m : Msg) : Bool :=
  (m.kind == .fwds || m.kind == .fwdm || m.kind == .inv || m.kind == .binv) &&
  (copies s m.cl m.pa.toNat).any fun e => e.2.hold != 0

/-- The message at place `k`, if it is of that kind and may arrive now, and the state without it. -/
def arriving (s : State) (kind : MsgKind) (k : Nat) : Option (Msg × State) :=
  match s.msgs[k]? with
  | none => none
  | some m =>
    if m.kind ≠ kind ∨ (s.msgs.take k).any (sameLane m) ∨ heldBack s m ∨ atomicHeld s m then none
    else some (m, { s with msgs := s.msgs.eraseIdx k })

/-- What an arriving message does. -/
def onArrival (kind : MsgKind) (k : Nat) (s : State) (f : Msg → State → State) : Out :=
  match arriving s kind k with
  | none => .next s
  | some (m, s) => .next (f m s)

/-! ## Directories (R92) -/

def dirOf (s : State) (pa : Nat) : List DirEnt := tget (s.die (homeDie pa)).dir (l2Key pa) []
def setDir (s : State) (pa : Nat) (l : List DirEnt) : State :=
  s.modDie (homeDie pa) fun d => { d with dir := if l.isEmpty then tdel d.dir (l2Key pa) else tput d.dir (l2Key pa) l }
def dirFind (s : State) (pa : Addr) : Option DirEnt := (dirOf s pa.toNat).find? fun e => e.pa == pa
def dirPut (s : State) (e : DirEnt) : State :=
  let l := dirOf s e.pa.toNat
  setDir s e.pa.toNat (if l.any fun x => x.pa == e.pa then l.map fun x => if x.pa = e.pa then e else x else l ++ [e])
def dirFree (s : State) (pa : Addr) : State := setDir s pa.toNat ((dirOf s pa.toNat).filter fun e => e.pa != pa)

def bit128 (c : Nat) : BitVec 128 := 1 <<< c
def sharersOf (e : DirEnt) : List Nat := (List.range 128).filter fun c => e.sharers.getLsbD c

/-- A home's message to a cluster. -/
def homeSends (s : State) (k : MsgKind) (pa : Addr) (cl req core : Nat) (st : Moesi) (atomic : Bool) : State :=
  sendMsg s ⟨k, pa, cl, req, core, st, 0, atomic⟩
/-- Data with a granted state, read from L2 or the stack. -/
def sendData (s : State) (m : Msg) (st : Moesi) : State :=
  homeSends (l2Use s m.pa.toNat) .data m.pa m.req m.req m.core st m.atomic
/-- A cluster's answer to a home. -/
def answer (s : State) (k : MsgKind) (m : Msg) (dirty : BitVec 4) : State :=
  sendMsg s ⟨k, m.pa, m.cl, m.req, m.core, .i, dirty, false⟩

/-! ## Serving a request (R387) -/

/-- An entry for a requester that is to be its only holder. -/
def soleEntry (s : State) (m : Msg) (st : Moesi) (stamp : Nat) : State := dirPut s ⟨m.pa, st, m.req, bit128 m.req, stamp⟩

/-- A GetS where no owner is left. -/
def serveShared (s : State) (m : Msg) (e : DirEnt) : State :=
  if e.sharers = 0 then sendData (soleEntry s m .e e.stamp) m .e
  else sendData (dirPut s { e with
    st := .s
    sharers := e.sharers ||| bit128 m.req }) m .s

/-- The last message of a GetM: its entry, then Data or Grant. -/
def finishGetm (s : State) (t : Txn) : State :=
  let stamp := (dirFind s t.pa).elim s.fresh fun e => e.stamp
  let s := soleEntry { s with home := s.home.filter (· != t) } t.req .m stamp
  if t.full then sendData s t.req .m
  else sendMsg s ⟨.grant, t.pa, t.req.req, t.req.req, t.req.core, .m, t.req.dirty, t.req.atomic⟩

/-- A GetM that meets an entry: forward, invalidations, and the wait for their answers. -/
def serveGetm (s : State) (m : Msg) (e : DirEnt) : State :=
  let owned := e.st != .s
  let fwd := if owned && e.owner != m.req then some e.owner else none
  let invs := (sharersOf e).filter fun c => c != m.req && fwd != some c
  let holds := e.sharers.getLsbD m.req && m.st != .i
  -- the requester without the line has silently dropped it: it needs data (log 21)
  let full := fwd.isNone && !holds
  let s := match fwd with
    | some o => homeSends s .fwdm m.pa o m.req m.core .i m.atomic
    | none => s
  let s := invs.foldl (fun s c => homeSends s .inv m.pa c m.req m.core .i false) s
  let t : Txn := ⟨m.pa, m, false, fwd, invs, full⟩
  let s : State := { s with home := s.home ++ [t] }
  if fwd.isNone && invs.isEmpty then finishGetm s t else s

/-- A GetS or GetM that meets no entry, with a free one in the set. -/
def serveNew (s : State) (m : Msg) : State :=
  let st : Moesi := if m.kind = .getm then .m else .e
  sendData (soleEntry s m st s.fresh).nextFresh m st

def wbOf (s : State) (cl : Nat) (pa : Addr) : Option WbLine := (s.cluster cl).wbuf.find? fun w => w.pa == pa

/-- A PutM. -/
def servePutm (s : State) (m : Msg) : State :=
  let ack (s : State) : State := homeSends s .putack m.pa m.cl m.cl m.core .i false
  match dirFind s m.pa with
  | none => ack s
  | some e =>
    if e.st = .s ∨ e.owner ≠ m.cl then ack s
    else
      let left := e.sharers &&& ~~~(bit128 m.cl)
      let s := writeBack s m.pa.toNat ((wbOf s m.cl m.pa).elim m.dirty fun w => m.dirty &&& w.dirty)
      ack (if e.st = .o ∧ left ≠ 0 then dirPut s { e with
        st := .s
        sharers := left } else dirFree s m.pa)

def homeBusy (s : State) (pa : Addr) : Bool := s.home.any fun t => t.pa == pa || t.req.pa == pa

/-- The entry of a full set that leaves: the earliest allocated. -/
def dirVictim (s : State) (pa : Nat) : Option DirEnt :=
  (dirOf s pa).foldl (fun (acc : Option DirEnt) e => match acc with
    | none => some e
    | some b => if e.stamp < b.stamp then some e else some b) none

/-- Serves a request, or starts what it must wait for; none where it cannot be served yet. -/
def tryServe (s : State) (m : Msg) : Option State :=
  if homeBusy s m.pa then none
  else if m.kind = .putm then some (servePutm s m)
  else
    match dirFind s m.pa with
    | some e =>
      if m.kind = .getm then some (serveGetm s m e)
      else if e.st = .s then some (serveShared s m e)
      else
        let s := homeSends s .fwds m.pa e.owner m.req m.core .i false
        some { s with home := s.home ++ [⟨m.pa, m, false, some e.owner, [], false⟩] }
    | none =>
      if (dirOf s m.pa.toNat).length < 16 then some (serveNew s m)
      else
        match dirVictim s m.pa.toNat with
        | none => none
        | some v =>
          -- a transaction on that line ends first (R388)
          let l := sharersOf v
          if homeBusy s v.pa then none
          else if l.isEmpty then some (serveNew (dirFree s v.pa) m)
          else
            let s := l.foldl (fun s c => homeSends s .binv v.pa c m.req m.core .i false) s
            some { s with home := s.home ++ [⟨v.pa, m, true, none, l, false⟩] }

/-- Requests waiting at the homes, in order of arrival, one line's never out of order (R20, R388). -/
def serveWaiting : List Msg → List Addr → State → State
  | [], _, s => s
  | m :: r, lines, s =>
    if lines.contains m.pa then serveWaiting r lines { s with homeq := s.homeq ++ [m] }
    else
      match tryServe s m with
      | some s => serveWaiting r lines s
      | none => serveWaiting r (m.pa :: lines) { s with homeq := s.homeq ++ [m] }

def homeRetry (s : State) : State := serveWaiting s.homeq [] { s with homeq := [] }

/-- A request reaches its home. -/
def requestArrives (m : Msg) (s : State) : State :=
  if s.homeq.any fun x => x.pa == m.pa then { s with homeq := s.homeq ++ [m] }
  else
    match tryServe s m with
    | some s => s
    | none => { s with homeq := s.homeq ++ [m] }

/-- GETS. -/
def execGets (k : Nat) (s : State) : Out := onArrival .gets k s requestArrives
/-- GETM. -/
def execGetm (k : Nat) (s : State) : Out := onArrival .getm k s requestArrives
/-- PUTM. -/
def execPutm (k : Nat) (s : State) : Out := onArrival .putm k s requestArrives

/-! ## Answers that reach a home -/

def txnOf (s : State) (pa : Addr) (evict : Bool) (p : Txn → Bool) : Option Txn :=
  s.home.find? fun t => t.pa == pa && t.evict == evict && p t

/-- A GetM that waits for nothing more sends its last message. -/
def advanceGetm (s : State) (t t' : Txn) : State :=
  let s : State := { s with home := s.home.map fun x => if x = t then t' else x }
  if t'.fwd.isNone && t'.invs.isEmpty then homeRetry (finishGetm s t') else s

def fwdAcked (m : Msg) (s : State) : State :=
  match txnOf s m.pa false fun t => t.fwd == some m.cl with
  | none => s
  | some t =>
    if t.req.kind = .getm then advanceGetm s t { t with
      fwd := none
      req := { t.req with dirty := 15 } }
    else
      let s : State := { s with home := s.home.filter (· != t) }
      homeRetry (match dirFind s m.pa with
        | none => s
        | some e => dirPut s { e with
          st := if e.st = .e then .s else .o
          sharers := e.sharers ||| bit128 t.req.req })

/-- The owner no longer held the line: the entry is served as one without an owner (R388). -/
def fwdNacked (m : Msg) (s : State) : State :=
  match txnOf s m.pa false fun t => t.fwd == some m.cl with
  | none => s
  | some t =>
    match dirFind s m.pa with
    | none => s
    | some e =>
      let e : DirEnt := { e with
        st := .s
        sharers := e.sharers &&& ~~~(bit128 m.cl) }
      let s := dirPut s e
      if t.req.kind = .getm then
        advanceGetm s t { t with
          fwd := none
          full := !(e.sharers.getLsbD t.req.req && t.req.st != .i) }
      else homeRetry (serveShared { s with home := s.home.filter (· != t) } t.req e)

def invAcked (m : Msg) (s : State) : State :=
  match txnOf s m.pa false fun t => t.invs.contains m.cl with
  | none => s
  | some t => advanceGetm s t { t with invs := t.invs.filter (· != m.cl) }

/-- A sharer is back-invalidated; after the last one the entry is free, and its request proceeds (R92). -/
def binvAcked (m : Msg) (s : State) : State :=
  match txnOf s m.pa true fun t => t.invs.contains m.cl with
  | none => s
  | some t =>
    let s := if m.dirty = 0 then s else writeBack s m.pa.toNat m.dirty
    let t' : Txn := { t with invs := t.invs.filter (· != m.cl) }
    if t'.invs.isEmpty then
      let s := dirFree { s with home := s.home.filter (· != t) } m.pa
      homeRetry ((tryServe s t.req).getD { s with homeq := t.req :: s.homeq })
    else { s with home := s.home.map fun x => if x = t then t' else x }

/-- FWDACK. -/
def execFwdack (k : Nat) (s : State) : Out := onArrival .fwdack k s fwdAcked
/-- FWDNACK. -/
def execFwdnack (k : Nat) (s : State) : Out := onArrival .fwdnack k s fwdNacked
/-- INVACK. -/
def execInvack (k : Nat) (s : State) : Out := onArrival .invack k s invAcked
/-- BACK. -/
def execBack (k : Nat) (s : State) : Out := onArrival .back k s binvAcked

/-! ## Messages that reach a cluster -/

/-- What the cores of a cluster wait for is there: their accesses and published stores perform as far as they can. Poison is
left to the cycle of the core that reads it. -/
def retryCluster (s : State) (cl : Nat) : State :=
  (clCores cl).foldl (fun s c => match retry s c with
    | (t, none) => t
    | (_, some _) => s) s

/-- A request learns of a message. When it is complete its line enters the L1 and what waits for it performs; of a line that an
Inv keeps invalid the waiting loads take the data first (R388). -/
def withReq (m : Msg) (cl : Nat) (s : State) (f : Req → Req) : State :=
  match reqFor s cl m.pa.toNat with
  | none => s
  | some r =>
    let r' := f r
    let s := modReq s cl r r'
    if !r'.done then s
    else if r'.gone then
      let s := retryCluster s cl
      -- stores that wait may have joined the request
      completeReq s cl ((reqFor s cl m.pa.toNat).getD r')
    else retryCluster (completeReq s cl r') cl

/-- DATA. -/
def execData (k : Nat) (s : State) : Out :=
  onArrival .data k s fun m s => withReq m m.cl s fun r => { r with
    data := .got
    grant := some m.st }
/-- GRANT: where the owner has forwarded the line, the data and their dirty sectors are still to come with the DataF. -/
def execGrant (k : Nat) (s : State) : Out :=
  onArrival .grant k s fun m s => withReq m m.cl s fun r => { r with
    data := if r.data = .own ∧ m.dirty ≠ 0 then .no else r.data
    grant := some m.st }
/-- DATAF: to a GetS it is the grant of a shared copy too; to a GetM it brings the sectors that are dirty. -/
def execDataf (k : Nat) (s : State) : Out :=
  onArrival .dataf k s fun m s => withReq m m.req s fun r => { r with
    data := .got
    dirty := if r.excl then r.dirty ||| m.dirty else r.dirty
    grant := if r.excl then r.grant else some .s }

def setWb (s : State) (cl : Nat) (w w' : WbLine) : State :=
  s.modCluster cl fun x => { x with wbuf := x.wbuf.map fun y => if y = w then w' else y }

/-- Forwarded data. -/
def forwardData (s : State) (m : Msg) (dirty : BitVec 4) : State :=
  answer (sendMsg s ⟨.dataf, m.pa, m.cl, m.req, m.core, .i, dirty, m.atomic⟩) .fwdack m 0

def keepShared (st : Moesi) : Moesi := match st with
  | .m => .o | .e => .s | x => x

/-- FWDS: the owner sends the line and keeps a copy, or answers from its write-back buffer. -/
def execFwds (k : Nat) (s : State) : Out :=
  onArrival .fwds k s fun m s =>
    let l := copies s m.cl m.pa.toNat
    if l.isEmpty then
      match wbOf s m.cl m.pa with
      | some w => if w.st = .i then answer s .fwdnack m 0 else forwardData (setWb s m.cl w { w with st := keepShared w.st }) m w.dirty
      | none => answer s .fwdnack m 0
    else
      let d := copiesDirty s m.cl m.pa.toNat
      forwardData (l.foldl (fun s e => putL1 s e.1 m.pa.toNat { e.2 with st := keepShared e.2.st }) s) m d

/-- A cluster's own copy is no longer good for the request that it has under way. -/
def loseOwn (s : State) (cl : Nat) (pa : Addr) (reads : Bool) : State :=
  s.modCluster cl fun x => { x with reqs := x.reqs.map fun r =>
    if r.pa = pa then { r with
      data := if r.data = .own then .no else r.data
      gone := r.gone || (reads && !r.excl) } else r }

/-- FWDM: the owner sends the line and invalidates it. -/
def execFwdm (k : Nat) (s : State) : Out :=
  onArrival .fwdm k s fun m s =>
    let s := loseOwn s m.cl m.pa false
    if (copies s m.cl m.pa.toNat).isEmpty then
      match wbOf s m.cl m.pa with
      | some w => if w.st = .i then answer s .fwdnack m 0 else forwardData (setWb s m.cl w { w with st := .i }) m w.dirty
      | none => answer s .fwdnack m 0
    else forwardData (dropCopies s m.cl m.pa.toNat) m (copiesDirty s m.cl m.pa.toNat)

/-- INV. -/
def execInv (k : Nat) (s : State) : Out :=
  onArrival .inv k s fun m s =>
    let s := loseOwn s m.cl m.pa true
    let s := match wbOf s m.cl m.pa with
      | some w => setWb s m.cl w { w with st := .i }
      | none => s
    answer (dropCopies s m.cl m.pa.toNat) .invack m 0

/-- BINV: the dirty sectors of an M or O copy go back with the answer; the cluster's monitors on the line wake (R107). -/
def execBinv (k : Nat) (s : State) : Out :=
  onArrival .binv k s fun m s =>
    let s := loseOwn s m.cl m.pa true
    let d := copiesDirty s m.cl m.pa.toNat
    let (s, d) := match wbOf s m.cl m.pa with
      | some w => (setWb s m.cl w { w with st := .i }, if w.st = .i then d else d ||| w.dirty)
      | none => (s, d)
    let s := (clCores m.cl).foldl (fun s c => wake s c m.pa.toNat) s
    answer (dropCopies s m.cl m.pa.toNat) .back m d

/-- PUTACK: the line leaves the write-back buffer. -/
def execPutack (k : Nat) (s : State) : Out :=
  onArrival .putack k s fun m s => s.modCluster m.cl fun x =>
    { x with wbuf := match x.wbuf.findIdx? fun w => w.pa == m.pa with
      | some i => x.wbuf.eraseIdx i
      | none => x.wbuf }

/-- ATOMIC_HOLD_EXPIRY: holds that have run their 64 cycles end (R20). -/
def execAtomicHoldExpiry (c : CoreId) (s : State) : Out :=
  .next (retryCluster (s.modCore c.val fun k => { k with
    l1 := k.l1.map fun (e : Nat × L1Line) => if e.2.hold = 1 then (e.1, { e.2 with hold := 0 }) else e }) (clusterOf c.val))

end Sys2Proof.Machine
end

