-- ==== Sys2Proof/Machine/Collective.lean ====
section
/-!
DEFINITION. Collective.lean: plans, collective tiles and the collective engines (R8, R65, R122, R151, R327 to R331).
-/
namespace Sys2Proof.Machine

/-! ## Plans (R328) -/

/-- A member of a plan: a die of this device, or of a peer. -/
structure Member where
  peer : Option Nat
  die : Nat
deriving DecidableEq, Repr

def memberOf (x : Nat) : Member := ⟨if x.testBit 6 then none else some (x % 64), bitsN x 9 7⟩
def planMembers (l : List Nat) : List Member := l.map memberOf
def Member.isLocal (m : Member) : Bool := m.peer.isNone
def localDies (l : List Nat) : List Nat := ((planMembers l).filter Member.isLocal).map Member.die

/-- The dies on the way from one die to another: column first, then row (R8). -/
def diePath (a b : Nat) : List Nat :=
  let lo := min (a % 4) (b % 4)
  let hi := max (a % 4) (b % 4)
  ((List.range 4).filter fun c => decide (lo ≤ c) && decide (c ≤ hi)).map (fun c => 4 * (a / 4) + c) ++
  (if a / 4 = b / 4 then [] else [4 * (b / 4) + b % 4])

/-- Buffer slots that a plan reserves in the switch of a die: 4 for each pair of this device's members on whose path it
lies. -/
def switchUse (d : Nat) : List Nat → Nat
  | [] => 0
  | a :: r => (r.filter fun b => (diePath a b).contains d).length * 4 + switchUse d r

def switchUsed (s : State) (d : Nat) : Nat := s.plans.foldl (fun acc p => acc + switchUse d (localDies p.2)) 0

/-- Whether a firing under the plan is in flight on some die. -/
def planBusy (s : State) (p : Nat) : Bool :=
  s.dies.any fun d => d.2.firings.any fun e => (tget d.2.tiles e ⟨false, false, 0, 0, 0, 0, 0, 0, 0, 0, 0, false, .open⟩).plan.toNat == p

/-- The scratchpad-range trap over opnd(B), then the row. -/
def imageRow (s : State) (x : Word) (k : Row → Out) : Out :=
  orTrap (failIf (decide (8192 ≤ x.toNat)) 0x0205 x.toNat) s fun _ => readRow s x.toNat k

/-- Buffer slots that a plan reserves at an Azpol port: 4 for each peer member to which it leads (log 31). -/
def portUse (s : State) (q : Nat) (l : List Nat) : Nat :=
  4 * ((planMembers l).filter fun m => m.peer.any fun p => (peerPorts s p).contains q).length

def portUsed (s : State) (q : Nat) : Nat := s.plans.foldl (fun acc p => acc + portUse s q p.2) 0

def planRefused (s : State) (p n : Nat) (l : List Nat) : Bool :=
  decide (32 < n) || (tget s.plans p []) != [] || (localDies l).isEmpty ||
  ((List.range 8).any fun d => decide (4096 < switchUsed s d + switchUse d (localDies l))) ||
  (List.range 18).any fun q => decide (4096 < portUsed s q + portUse s q l)

/-- Plans whose release waits for a firing are released once it has ended (R328). -/
def releasePlans (s : State) : State :=
  let go := s.planOut.filter fun e => !planBusy s e.1
  { s with
    plans := go.foldl (fun t e => tdel t e.1) s.plans
    planOut := s.planOut.filter fun e => planBusy s e.1 }

def execCplan (o : OpPss) (s : State) : Out :=
  let p := (srcS s o.a).toNat % 4096
  imageRow s (srcS s o.b) fun row =>
    let n := laneN row 0 16
    let l := (List.range (min n 32)).map fun i => laneN row (i + 1) 16 % 1024
    if n = 0 then
      let t := releasePlans { s with planOut := s.planOut ++ [(p, s.cur, s.me.ctx)] }
      .next (t.remoteP o.d false)
    else if planRefused s p n l then .next (s.remoteP o.d true)
    else
      let t : State := { s with plans := tput s.plans p l }
      .next (t.remoteP o.d false)

/-! ## Tiles (R151, R329) -/

def Tile.none : Tile := ⟨false, false, 0, 0, 0, 0, 0, 0, 0, 0, 0, false, .open⟩
def tileAt (s : State) (d e : Nat) : Tile := tget (s.die d).tiles e .none
def setTile (s : State) (d e : Nat) (t : Tile) : State := s.modDie d fun x => { x with tiles := tput x.tiles e t }

/-- An image of R151; RDY reads 0. -/
def tileImage (s : State) (v : Nat) : Tile where
  v := v.testBit 0
  rdy := false
  op := BitVec.ofNat 3 (bitsN v 4 2)
  type := BitVec.ofNat 3 (bitsN v 7 5)
  pdie := BitVec.ofNat 8 (bitsN v 15 8)
  bytes := BitVec.ofNat 22 (bitsN v 37 16)
  soff := BitVec.ofNat 21 (bitsN v 58 38)
  pdev := BitVec.ofNat 64 (bitsN v 127 64)
  raddr := BitVec.ofNat 52 (bitsN v 179 128)
  plan := BitVec.ofNat 12 (bitsN v 203 192)
  asn := s.sl.asn
  sup := s.sl.sup
  gate := .open

/-- The masks of a plan's members other than a die. -/
def dieMask (l : List Nat) (d : Nat) : Nat := (List.range 8).foldl (fun acc i => if i ≠ d ∧ (localDies l).contains i then acc + 2 ^ i else acc) 0
def devMask (l : List Nat) : Nat :=
  (List.range 64).foldl (fun acc i => if (planMembers l).any fun m => m.peer == some i then acc + 2 ^ i else acc) 0

def tileRefused (s : State) (d e : Nat) (t : Tile) : Bool :=
  let l := tget s.plans t.plan.toNat []
  let b := t.bytes.toNat
  decide (4 < t.op.toNat) || decide (4 < t.type.toNat) || (t.op == 4 && decide (t.type.toNat < 3)) ||
  b == 0 || b % 256 != 0 || decide (2 ^ 21 < b) || decide (2 ^ 21 < t.soff.toNat + b) ||
  (t.op == 3 && b % (256 * l.length) != 0) || l.isEmpty ||
  t.pdie.toNat != dieMask l d || t.pdev.toNat != devMask l || (tileAt s d e).rdy

def execCtile (o : OpPss) (s : State) : Out :=
  let e := (srcS s o.a).toNat % 1024
  let d := dieOf s.cur
  imageRow s (srcS s o.b) fun row =>
    let t := tileImage s (row.toNat % 2 ^ 256)
    if tileRefused s d e t then .next (s.deliverP o.d true 1) else .next ((setTile s d e t).deliverP o.d false 1)

/-! ## CREADY and CWAITC (R330, R331) -/

/-- A CREADY by a step of address space `asn`, behind the accesses of `g`: the state, and whether it is refused. -/
def creadyOp (s : State) (d e : Nat) (asn : BitVec 4) (sup : Bool) (g : Gate) : State × Bool :=
  let t := tileAt s d e
  if !t.v || t.rdy || decide (64 ≤ (s.die d).firings.length) then (s, true)
  else
    ((setTile s d e { t with
        rdy := true
        asn := asn
        sup := sup
        gate := g }).modDie d fun x => { x with
      cflt := sdel x.cflt e
      firings := x.firings ++ [e] }, false)

def execCready (o : OpPa) (s : State) : Out :=
  let e := (srcS s o.a).toNat % 1024
  afterRelease s fun s =>
    let (t, no) := creadyOp s (dieOf s.cur) e s.sl.asn s.sl.sup s.gate
    .next (t.deliverP o.d no 1)

def execCwaitc (o : OpPss) (s : State) : Out :=
  let e := (srcS s o.a).toNat % 1024
  let d := dieOf s.cur
  let limit := (srcS s o.b).toNat % 2 ^ 32
  match waitTest s limit (!(tileAt s d e).rdy) with
  | none => .next (s.hold .wait limit)
  | some late => .next ((s.deliverP o.d late 1).deliverP (o.d + 1) ((s.die d).cflt.contains e) 1)

/-! ## The engines (R117, R118, R330) -/

/-- The next firing of a die that has not been read, and that comes after what its step has done before (R308). -/
def nextFiring (s : State) (d : Nat) : Option Nat :=
  (s.die d).firings.find? fun e => !(s.fired.any fun f => f.die == d && f.entry == e) && s.passes (tileAt s d e).gate

/-- The engine reads its tile and sends it. -/
def execCollectiveFiring (d : DieId) (s : State) : Out :=
  match nextFiring s d.val with
  | none => .next s
  | some e =>
    let t := tileAt s d.val e
    let a := csramBase d.val + t.soff.toNat
    let bad := (List.range (t.bytes.toNat / 256)).filter fun i => s.poisoned (a + 256 * i)
    .next { s with fired := s.fired ++ [⟨d.val, e, rdN s.mem a t.bytes.toNat, bad⟩] }

/-- Width of an element, and its format where it floats. -/
def collW (ty : Nat) : Nat := match ty with
  | 0 => 64 | 1 => 32 | 2 => 16 | 3 => 64 | _ => 32
def collFF (ty : Nat) : Option FF := match ty with
  | 0 => some .f64 | 1 => some .f32 | 2 => some .bf16 | _ => none

/-- One element of the result from the members' elements, in plan order. -/
def collElt (op ty : Nat) (xs : List Nat) : Nat × List Cause :=
  let w := collW ty
  match collFF ty, xs with
  | _, [] => (0, [])
  | some ff, x :: r =>
    if op = 0 then
      r.foldl (fun acc y =>
        let (v, k1) := addFV .rne (decodeF ff acc.1) (decodeF ff y)
        let (c, k2) := encodeF ff .rne v
        (c, acc.2 ++ [k1, k2])) (x, [])
    else
      let f := if op = 1 then maxFV else minFV
      ((encodeF ff .rne (r.foldl (fun acc y => f acc (decodeF ff y)) (decodeF ff x))).1, [])
  | none, x :: r =>
    let l := (x :: r).map fun y => sextN y w
    let v := match op with
      | 0 => l.foldl (· + ·) 0
      | 1 => l.foldl max (sextN x w)
      | 2 => l.foldl min (sextN x w)
      | _ => satI (l.foldl (· + ·) 0) (-2 ^ (w - 1)) (2 ^ (w - 1) - 1)
    (wrapN v w, [])

/-- The result of member i, and its causes. -/
def collResult (t : Tile) (tiles : List Nat) (i : Nat) : Nat × List Cause :=
  let b := t.bytes.toNat
  if t.op = 3 then
    let p := b / tiles.length
    (tiles.foldr (fun x acc => (acc <<< (8 * p)) + x >>> (8 * p * i) % 2 ^ (8 * p)) 0, [])
  else
    let w := collW t.type.toNat
    let es := (List.range (8 * b / w)).map fun k => collElt t.op.toNat t.type.toNat (tiles.map fun x => x >>> (w * k) % 2 ^ w)
    (es.foldr (fun e acc => (acc <<< w) + e.1) 0, es.foldl (fun acc e => acc ++ e.2) [])

/-- Poisoned lines of member i's result. -/
def collBad (t : Tile) (bads : List (List Nat)) (i : Nat) : List Nat :=
  if t.op = 3 then
    let p := t.bytes.toNat / 256 / bads.length
    bads.zipIdx.foldl (fun acc e =>
      acc ++ (e.1.filter fun k => decide (p * i ≤ k) && decide (k < p * i + p)).map fun k => p * e.2 + (k - p * i)) []
  else bads.foldl (· ++ ·) []

/-- What the translation of a result's lines comes to: physical addresses, a fault, a page that the host has still to grant. -/
inductive ResLines where
  | ok (l : List Nat)
  | bad
  | ask (asn : BitVec 4) (va : Addr)
deriving DecidableEq, Repr

/-- The result's lines translated at its member. -/
def resultLines (s : State) (d : Nat) (t : Tile) : ResLines :=
  (List.range (t.bytes.toNat / 256)).foldl (fun acc i =>
    let va := t.raddr + BitVec.ofNat 52 (256 * i)
    match acc, xlateU s (128 * d) (collMaster d) t.asn t.sup .wr va with
    | .bad, _ => .bad
    | _, .fault _ => .bad
    | .ask asn a, _ => .ask asn a
    | .ok l, .ok pa _ _ => .ok (l ++ [lineOf pa.toNat])
    | .ok _, .ask => .ask t.asn va) (.ok [])

/-- Whether the tables allow an engine every granule of a range, which they know by 64 KiB (R156). -/
def rangeOk (s : State) (m : Nat) (k : Kind) (a n : Nat) : Bool :=
  (List.range (cdiv (a % 65536 + n) 65536)).all fun i => accOk s m k (if i = 0 then a else (a / 65536 + i) * 65536)

/-- Whether the firing of an entry fails at a member: its result or its staging cannot be reached, or a peer's route is down. -/
def firingFails (s : State) (e : Nat) (l : List Nat) : Bool :=
  (planMembers l).any fun m => match m.peer with
    | some p => !peerOk s p
    | none =>
      let t := tileAt s m.die e
      t.v && t.rdy && (resultLines s m.die t == .bad || !rangeOk s (collMaster m.die) .rd (csramBase m.die + t.soff.toNat) t.bytes.toNat)

/-- The firing of an entry is over at a die. -/
def dropFiring (s : State) (d e : Nat) (fault : Bool) : State :=
  let s := setTile s d e { tileAt s d e with rdy := false }
  let s := s.modDie d fun x => { x with
    firings := x.firings.filter (· != e)
    cflt := if fault then sput x.cflt e else x.cflt }
  let s : State := { s with fired := s.fired.filter fun f => !(f.die == d && f.entry == e) }
  releasePlans (if fault then s.recordD d 3 1 0 (collMaster d) 0x30 (tileAt s d e).raddr 0 else s)

/-- Members of this device whose entry is ready under the plan. -/
def readyMembers (s : State) (e p : Nat) (l : List Nat) : List Nat :=
  (localDies l).eraseDups.filter fun d => (tileAt s d e).rdy && (tileAt s d e).plan.toNat == p

/-- Whether a plan has the peer whose own failure a happening brings. -/
def peerFails (l : List Nat) (p : Option (Fin 64)) : Bool := p.any fun p => (planMembers l).any fun m => m.peer == some p.val

/-- A failed firing of a die publishes nothing at any member; the failure of a peer's firing, which that device finds, is brought
by the happening. -/
def execCollectiveFault (x : CollIn) (s : State) : Out :=
  let d := x.die.val
  let plan (e : Nat) : List Nat := tget s.plans (tileAt s d e).plan.toNat []
  match s.fired.find? fun f => f.die == d && (firingFails s f.entry (plan f.entry) || peerFails (plan f.entry) x.peer) with
  | none => .next s
  | some f =>
    .next ((readyMembers s f.entry (tileAt s d f.entry).plan.toNat (plan f.entry)).foldl (fun s m => dropFiring s m f.entry true) s)

def firedAt (s : State) (d e : Nat) : Option Firing := s.fired.find? fun f => f.die == d && f.entry == e

/-- The members' firings in plan order, a peer's tile from what has arrived; none while one is missing. -/
def gatherTiles (s : State) (e : Nat) : List Member → List Nat → Option (List (Nat × List Nat))
  | [], [] => some []
  | [], _ :: _ => none
  | m :: r, ps =>
    match m.peer, ps with
    | some _, x :: ps => (gatherTiles s e r ps).map fun l => (x, []) :: l
    | some _, [] => none
    | none, ps =>
      match firedAt s m.die e with
      | some f => (gatherTiles s e r ps).map fun l => (f.data, f.bad) :: l
      | none => none

/-- A plan under which every member has fired the entry, with its tiles. -/
def completePlan (s : State) (e : Nat) (peers : List Nat) : Option (List Member × List (Nat × List Nat)) :=
  s.plans.findSome? fun p =>
    let ms := planMembers p.2
    if (readyMembers s e p.1 p.2).length = (localDies p.2).eraseDups.length && !firingFails s e p.2 then
      (gatherTiles s e ms peers).map fun l => (ms, l)
    else none

/-- One member's result is written and published; its firing ends. -/
def publishResult (s : State) (e : Nat) (tiles : List (Nat × List Nat)) (m : Member) (i : Nat) : State :=
  if !m.isLocal then s
  else
    let t := tileAt s m.die e
    let (v, ks) := collResult t (tiles.map Prod.fst) i
    let bad := collBad t (tiles.map Prod.snd) i
    let s := match resultLines s m.die t with
      | .ok l => l.zipIdx.foldl (fun s x => engineWrite s (collMaster m.die) (bad.contains x.2)
          ⟨x.1, 256, v >>> (2048 * x.2) % 2 ^ 2048, 2 ^ 2048 - 1⟩) s
      | _ => s
    let s := if ks.any (· ≠ 0) then s.recordD m.die 3 1 0 (collMaster m.die) 0x31 t.raddr 0 else s
    dropFiring s m.die e false

/-- A page of a member's result that the host has still to grant. -/
def memberAsks (s : State) (e : Nat) (m : Member) : Option (BitVec 4 × Addr) :=
  match m.isLocal, resultLines s m.die (tileAt s m.die e) with
  | true, .ask asn va => some (asn, va)
  | _, _ => none

/-- Every member has fired: the result is published everywhere in one event, once the pages that it needs are there. -/
def execCollectiveComplete (e : Fin 1024) (peers : List Nat) (s : State) : Out :=
  match completePlan s e.val peers with
  | none => .next s
  | some (ms, tiles) =>
    match ms.findSome? (memberAsks s e.val) with
    | some (asn, va) => .next (askPage s asn va .wr)
    | none => .next (ms.zipIdx.foldl (fun s m => publishResult s e.val tiles m.1 m.2) s)

end Sys2Proof.Machine
end

