-- ==== Sys2Proof/Machine/Host.lean ====
section
/-!
DEFINITION. Host.lean: what reaches the module from outside: register writes over the host links and by other masters, BAR2,
peers, boot, reset, the mailbox, address translation services, links, power (R84, R87, R100, R123, R136, R156, R351, R358,
R361 to R375).
-/
namespace Sys2Proof.Machine

def State.answers (s : State) (r : Reply) : Out := .next { s with reply := r }

/-- A denied or unreachable access of a master from outside (R156, R362). -/
def deny (s : State) (m pa : Nat) : Out :=
  (s.recordD 0 3 1 0 m 0x23 (BitVec.ofNat 52 pa) 0).answers .abort

def ctlBase : Nat := 3 * 2 ^ 48

/-- The addresses at which an access of `n` bytes enters a line. -/
def linesIn (pa n : Nat) : List Nat :=
  (List.range (cdiv (pa % 256 + n) 256)).map fun i => if i = 0 then pa else lineOf pa + 256 * i

/-- The first line of an access that a target's table denies its master (R156). -/
def deniedAt (s : State) (m : Nat) (k : Kind) (pa n : Nat) : Option Nat := (linesIn pa n).find? fun a => !accOk s m k a

/-- The link of a host master. -/
def linkOf? (m : Nat) : Option Nat := if mKind m = 4 then some (m % 0x2000) else none

/-- Whether a host link's traffic falls into the range of one of its streams that is not secure (R366). -/
def linkRefuses (s : State) (m : Nat) (sp : IdeSpace) (off n : Nat) : Bool :=
  (linkOf? m).any fun l => ideRefuses s (some l) sp off n

/-- An access of `n` bytes to control space: before READY only a read of BOOTSTAT is answered (R367), an IDE stream that is
not secure refuses it (R366), and the access table of the target decides it (R372). -/
def ctlAccess (s : State) (m : Nat) (k : Kind) (off n : Nat) (f : State → Out) : Out :=
  if s.boot ≠ .ready ∧ !(k == .rd && decide (0x4000 ≤ off) && decide (off + n ≤ 0x4008)) then s.answers .abort
  else if linkRefuses s m .bar0 off n then s.answers .abort
  else
    match deniedAt s m k (ctlBase + off) n with
    | some a => deny s m a
    | none => f s

/-- A register write of 64 bits. -/
def regWrite (s : State) (m off : Nat) (f : State → State) : Out :=
  ctlAccess s m .wr off 8 fun s => (f s).answers .done

def extBytes : ExtOp → Nat
  | .read n => n
  | .write n _ => n
  | .fetchAdd w _ | .swap w _ | .cas w _ _ => if w then 8 else 4
def extKind : ExtOp → Kind
  | .read _ => .rd
  | _ => .wr

/-- What an AtomicOp stores over what it reads (R361). -/
def extNew (op : ExtOp) (old : Nat) : Nat :=
  match op with
  | .fetchAdd _ v => old + v.toNat
  | .swap _ v => v.toNat
  | .cas w x new => if old = x.toNat % 2 ^ (if w then 64 else 32) then new.toNat else old
  | .read _ | .write _ _ => old

/-- An access performed in control space. -/
def ctlPerform (s : State) (m off : Nat) (op : ExtOp) : Out :=
  let n := extBytes op
  let write (v : Nat) : State := ctlWriteN s m off n v (cdiv (off % 8 + n) 8)
  match op with
  | .read _ => s.answers (.data (s.rdPA (ctlBase + off) n))
  | .write _ v => (write v).answers .done
  | op =>
    let old := s.rdPA (ctlBase + off) n
    (write (extNew op old % 2 ^ (8 * n))).answers (.data old)

/-! ## Rings (R123, R136, R367) -/

def ringOff (q k : Nat) : Nat := 0x100000 + 32 * q + 8 * k
def hostLink (l : Nat) : Nat := 0x8000 + l

def execLqtailDoorbell (q : Fin 256) (v : Word) (s : State) : Out :=
  regWrite s (hostLink 0) (ringOff q.val 2) fun s => s.modRing q.val fun r => ringTail r v
def execLqEnable (q : Fin 256) (en : Bool) (s : State) : Out :=
  regWrite s (hostLink 0) (ringOff q.val 3) fun s => ringEn s q.val en
def execRingReset (q : Fin 256) (s : State) : Out := regWrite s (hostLink 0) (ringOff q.val 3) fun s => resetRing s q.val
def execLqctlErrClear (q : Fin 256) (s : State) : Out :=
  regWrite s (hostLink 0) (ringOff q.val 3) fun s => s.modRing q.val fun r => { r with err := false }

/-! ## Registers by any master (R100, R136, R351, R372 to R375) -/

/-- REGISTER_WRITE, and the other accesses that a register takes: reads and AtomicOps. -/
def execRegisterWrite (m : Master) (off : BitVec 26) (op : ExtOp) (s : State) : Out :=
  if 2 ^ 26 < off.toNat + extBytes op then .next s
  else ctlAccess s (Master.code m) (extKind op) off.toNat (extBytes op) fun s => ctlPerform s (Master.code m) off.toNat op
def execLqkill (m : Master) (lid : BitVec 16) (s : State) : Out :=
  regWrite s (Master.code m) 0x3108 fun s => if supWriter (Master.code m) .lqkill then killLid s lid else s
def execTbivc (m : Master) (v : Word) (s : State) : Out := regWrite s (Master.code m) 0x3100 fun s => tbivcWrite s v
def execTbivcOvrClear (m : Master) (s : State) : Out := regWrite s (Master.code m) 0x3100 fun s => { s with tbivcOvr := false }
def execPreemptRequest (m : Master) (c : CoreId) (s : State) : Out :=
  regWrite s (Master.code m) (0x1400000 + 8 * c.val) fun s =>
    if supWriter (Master.code m) (.preempt c.val) then preemptSet s c.val else s
def execErrorRecordFree (m : Master) (d : DieId) (b : Fin 4) (r : Fin 8) (s : State) : Out :=
  regWrite s (Master.code m) (0x1C00000 + 1024 * d.val + 256 * b.val + 32 * r.val) fun s => errFree s d.val b.val r.val
def execErrorOvfClear (m : Master) (d : DieId) (b : Fin 4) (r : Fin 8) (s : State) : Out :=
  regWrite s (Master.code m) (0x1C00000 + 1024 * d.val + 256 * b.val + 32 * r.val) fun s => errOvfClear s d.val b.val r.val
def execCssegWrite (m : Master) (d : DieId) (v : Word) (s : State) : Out :=
  regWrite s (Master.code m) (0x3200 + 8 * d.val) fun s =>
    if supWriter (Master.code m) (.csseg d.val) then cssegWriteR s d.val v else s
def execTrpoolWrite (m : Master) (d : DieId) (v : Word) (s : State) : Out :=
  regWrite s (Master.code m) (0x3300 + 8 * d.val) fun s =>
    if supWriter (Master.code m) (.trpool d.val) then trpoolWriteR s d.val v else s
def execDevidWrite (m : Master) (v : Word) (s : State) : Out := regWrite s (Master.code m) 0x6200 fun s => devidWriteR s (Master.code m) v

/-- Drops a page's grants by the host together with its cached translations (R100, R364). -/
def dropPages (s : State) (vpn : BitVec 36) (asn : BitVec 4) (size : BitVec 2) : State :=
  let s := dropTlb s (tbivcHits vpn asn size)
  let page (p : BitVec 4 × BitVec 36 × BitVec 64 × Bool × Bool × Bool) : Bool :=
    tbivcHits vpn asn size ⟨p.1, BitVec.ofNat 52 (p.2.1.toNat * 65536), 16, 0, false, false, false, false, 0⟩
  { s with hostPages := s.hostPages.filter fun p => !page p }

/-- TBIVC_COMPLETE: the matching entries drop; BUSY clears once no walk begun before the write is left. -/
def execTbivcComplete (s : State) : Out :=
  match s.tbivc with
  | none => .next s
  | some (vpn, asn, size) =>
    let s := dropPages s vpn asn size
    .next (if s.dies.any fun d => d.2.walks.any fun w => !w.fresh then s else { s with tbivc := none })

/-- An entry of an access table written: its reserved bits stay zero (R156). -/
def setAccess (s : State) (t i : Nat) (e : AccEnt) : State :=
  let writable : AccEnt := 0xF + 0xFFFFFFFF <<< 16 + 0xFFFFFFFFF <<< 64 + 0xFFFFFFFFF <<< 128
  { s with access := tput s.access t (tput (tget s.access t []) i (e &&& writable)) }

/-- ACCESS_TABLE_WRITE: the tables lie in the management controller's own space (R156). -/
def execAccessTableWrite (m : Master) (t : Fin 64) (i : Fin 64) (e : BitVec 192) (s : State) : Out :=
  if isMgmt (Master.code m) then .next (setAccess s t.val i.val e) else deny s (Master.code m) 0

/-! ## The sync window (R363) -/

def syncOff (d i : Nat) : Nat := 0x200000 + 8 * (16384 * d + i)

def execHostSyncAcquire (l : Fin 2) (d : DieId) (i : Fin 16384) (s : State) : Out :=
  ctlAccess s (hostLink l.val) .rd (syncOff d.val i.val) 8 fun s => s.answers (.data (objVer s d.val i.val).toNat)
def execHostSyncRelease (l : Fin 2) (d : DieId) (i : Fin 16384) (s : State) : Out :=
  regWrite s (hostLink l.val) (syncOff d.val i.val) fun s => release s d.val i.val 0 false

/-! ## BAR2 and peers (R361, R362, R369) -/

/-- Bytes read, cut at lines. -/
def extRead (s : State) (pa : Nat) : Nat → Nat → Nat
  | 0, _ => 0
  | f + 1, n =>
    if n = 0 then 0
    else
      let k := min n (256 - pa % 256)
      s.rdPA pa k + extRead s (pa + k) f (n - k) <<< (8 * k)

/-- Bytes written, cut at lines. -/
def extWrite (m pa : Nat) : Nat → Nat → Nat → State → State
  | 0, _, _, s => s
  | f + 1, n, v, s =>
    if n = 0 then s
    else
      let k := min n (256 - pa % 256)
      extWrite m (pa + k) f (n - k) (v >>> (8 * k)) (engineWrite s m false ⟨pa, k, v % 2 ^ (8 * k), 2 ^ (8 * k) - 1⟩)

/-- An access performed. -/
def extPerform (s : State) (m pa : Nat) (op : ExtOp) : Out :=
  match op with
  | .read n => s.answers (.data (extRead s pa (n + 1) n))
  | .write n v => (extWrite m pa (n + 1) n v s).answers .done
  | op =>
    let n := extBytes op
    let a := pa / n * n
    let old := s.rdPA a n
    (engineWrite s m false ⟨a, n, extNew op old % 2 ^ (8 * n), 2 ^ (8 * n) - 1⟩).answers (.data old)

/-- BAR2_ACCESS. -/
def execBar2Access (l : Fin 2) (op : ExtOp) (off : BitVec 40) (s : State) : Out :=
  let m := hostLink l.val
  let pa := s.apbase.toNat + off.toNat
  let n := extBytes op
  if 2 ^ s.bar2 < off.toNat + n then .next s
  else if s.boot ≠ .ready || linkRefuses s m .bar2 off.toNat n then s.answers .abort
  else if devTop < pa + n then
    (s.recordD 0 2 1 0 m 0x62 (BitVec.ofNat 52 pa) 0).answers
      (match op with
        | .write _ _ => .done
        | _ => .data (2 ^ (8 * n) - 1))
  else
    match deniedAt s m (extKind op) pa n with
    | some a => deny s m a
    | none => extPerform s m pa op

/-- PEER_REQUEST. -/
def execPeerRequest (p : Fin 64) (op : ExtOp) (pa : Addr) (s : State) : Out :=
  let m := 0xA000 + p.val
  let n := extBytes op
  if s.boot ≠ .ready then s.answers .abort
  else
    match (linesIn pa.toNat n).find? fun a => !engineReach s a || !accOk s m (extKind op) a with
    | some a => deny s m a
    | none => extPerform s m pa.toNat op

/-! ## Boot, reset and the mailbox (R84, R366 to R368, R375) -/

/-- A measurement slot extended by a digest. -/
def extendMeas (b : BootIn) (i : Nat) (s : State) : State :=
  { s with meas := vset s.meas i (Config.sha256 (vget s.meas i 0 ++ vget b.digests i 0)) }

/-- A register that firmware writes at boot, as master kind 6, decided by the access table of control space (R372). -/
def bootWrite (s : State) (off : Nat) (f : State → State) : State :=
  if accOk s 0xC000 .wr (ctlBase + off) then f s else s.recordD 0 3 1 0 0xC000 0x23 (BitVec.ofNat 52 (ctlBase + off)) 0

/-- What a step of the boot sequence does when it completes. -/
def bootDo (b : BootIn) (n : Nat) (s : State) : State :=
  match n with
  | 2 => extendMeas b 1 (extendMeas b 0 s)
  | 3 =>
    let s := b.access.foldl (fun s e => setAccess s e.1.val e.2.1.val e.2.2) s
    extendMeas b 2 (bootWrite s 0x6200 fun s => { s with devid := b.devid.setWidth 64 })
  | 4 =>
    extendMeas b 3 ((List.range 8).foldl (fun s d =>
      let s := bootWrite s (0x3200 + 8 * d) fun s => s.modDie d fun x => { x with csseg := areaWord 32 (vget b.cssegs d 0).toNat }
      bootWrite s (0x3300 + 8 * d) fun s => s.modDie d fun x => { x with trpool := areaWord 64 (vget b.trpools d 0).toNat }) s)
  | _ => s

/-- The ECODEs with which a step can stop the sequence: the signature at step 1, stack and link training at step 3, the
configuration at step 4 (R367). -/
def bootCodes : Nat → List Nat
  | 1 => [1]
  | 3 => [2, 3]
  | 4 => [4]
  | _ => []

/-- One step of the boot sequence, which the management controller runs: it completes, or stops the sequence (R367). -/
def bootStep (s : State) : State :=
  match s.boot with
  | .running n b =>
    match b.fail.filter fun e => e.1 == n && (bootCodes n).contains e.2 with
    | some (_, code) => { s with boot := .failed n code }
    | none => { bootDo b n s with boot := if n < 5 then .running (n + 1) b else .ready }
  | _ => s

def outsideTop : Nat := 8 * 2 ^ 48
/-- What keeps its contents without the module's power: host and peer memory. -/
def outsideCells (m : List Host.Cell) : List Host.Cell := m.filter fun c => decide (outsideTop ≤ c.1)

/-- A state with the model's own counters of another. -/
def keepOwn (s t : State) : State := { t with
  agenda := s.agenda
  tick := s.tick
  fresh := s.fresh
  msixSent := s.msixSent }

/-- POWER_ON: memories are zero (R84), and the boot sequence starts. -/
def execPowerOn (b : BootIn) (s : State) : Out :=
  if s.boot ≠ .off ∧ s.power ≠ .d3cold then .next s
  else .next (keepOwn s { State.reset with
    mem := outsideCells s.mem
    boot := .running 1 b })

/-- RESET: caches empty without write-back, so a line has what its stack held; memories and staging shares stay; the boot
sequence starts. -/
def execReset (b : BootIn) (s : State) : Out :=
  if s.power = .d3cold then .next s
  else
    let mem := s.stack.foldl (fun m e => wrN m (256 * e.1) 256 e.2.toNat) s.mem
    let t : State := { State.reset with
      mem := mem
      poison := s.poison
      dies := (s.dies.filter fun d => d.2.staging != 0).map fun d => (d.1, { Die.reset with staging := d.2.staging })
      boot := .running 1 b }
    .next (keepOwn s t)

/-- The key programming of an IDE stream: it is secure, with one more range (R366). -/
def secureStream (s : State) (l st : Nat) (sp : IdeSpace) (lo hi : Nat) : State :=
  let e : IdeStream := ⟨l, st, sp, lo, hi, true⟩
  let up (x : IdeStream) : IdeStream := if x.link = l ∧ x.stream = st then { x with secure := true } else x
  let old := s.ide.map up
  { s with ide := if old.contains e then old else old ++ [e] }

/-- The answer of the mailbox (R361, R368); a secured request is answered as the request it carries. -/
def doeAnswer (l : Nat) (s : State) : DoeReq → Out
  | .discovery => s.answers (.data (Config.doeReply .discovery))
  | .version => s.answers (.versions [(1, 2), (1, 3)])
  | .algorithms => s.answers (.algorithms [.rsassa3072, .sha256, .aes256gcm, .secp384r1])
  | .measurement i => if 1 ≤ i ∧ i ≤ 4 then s.answers (.data (vget s.meas (i - 1) 0).toNat) else s.answers .abort
  | .ideKey st sp lo hi => (secureStream s l st.val sp lo.toNat hi.toNat).answers .done
  | .secured r => doeAnswer l s r
  | .other => s.answers .abort

/-- SPDM_REQUEST. -/
def execSpdmRequest (l : Fin 2) (r : DoeReq) (s : State) : Out :=
  if s.power = .d3cold then .next s else doeAnswer l.val s r

/-- Whether a stream of a link is secure (R366). -/
def streamSecure (s : State) (l st : Nat) : Bool := s.ide.any fun e => e.link == l && e.stream == st && e.secure

/-- IDE_INTEGRITY_FAILURE. -/
def execIdeIntegrityFailure (l : Fin 2) (st : Fin 8) (s : State) : Out :=
  if !streamSecure s l.val st.val then .next s
  else
    let fall (x : IdeStream) : IdeStream := if x.link = l.val ∧ x.stream = st.val then { x with secure := false } else x
    let t : State := { s with ide := s.ide.map fall }
    .next ((t.msix 3).recordD 0 2 3 0 (hostLink l.val) 0x63 0 0)

/-! ## Notices of freed pages (R334, R335) -/

/-- Notices that wait are tried again. -/
def flushNotices (s : State) : State :=
  (List.range 8).foldl (fun s d =>
    let l := (s.die d).notices
    if l.isEmpty then s else l.foldl (fun s r => writeNotice s d r) (s.modDie d fun x => { x with notices := [] })) s

/-! ## Address translation services (R364) -/

/-- Cores whose accesses wait for pages: those that can perform now do. -/
def settlePages (s : State) : State :=
  s.cores.foldl (fun s k => if pendingAcc k.2 then settleDue s k.1 else s) s

/-- Whether an address lies in a page. -/
def inPage (vpn : BitVec 36) (va : Addr) : Bool := va.extractLsb' 16 36 == vpn

/-- What a slot waits for, while its bundle is frozen. -/
def slotWake (k : Core) (b : Bool) : Option Wake := if b = k.ctx then k.freeze.map Freeze.wake else (k.slotOf b).out

def Wake.isPage (vpn : BitVec 36) : Wake → Bool
  | .page va => inPage vpn va
  | _ => false

/-- Whether a slot of a core, or a command, waits for a page. -/
def slotAsks (k : Core) (asn : BitVec 4) (vpn : BitVec 36) (b : Bool) : Bool :=
  (k.slotOf b).asn == asn && ((slotWake k b).any (Wake.isPage vpn) ||
    (flightOf k b).any fun e => e.acc.any fun a => a.st == .pending && inPage vpn a.va)
def cmdAsks (asn : BitVec 4) (vpn : BitVec 36) (c : Cmd) : Bool := c.asn == asn && c.ask.any (inPage vpn)

/-- The fault of a page goes to a slot that waits for it: to each of its accesses there, and to its frozen bundle. -/
def failSlot (s : State) (c : Nat) (b : Bool) (vpn : BitVec 36) (f : BitVec 16) : State :=
  let go := (flightOf (s.core c) b).foldl (fun (acc : State × List InFl) e =>
    match e.acc with
    | some a =>
      if a.st == .pending && inPage vpn a.va then
        match faultAcc acc.1 c b e a f with
        | (s, .left x, _) => (s, acc.2 ++ [x])
        | (s, _, _) => (s, acc.2)
      else (acc.1, acc.2 ++ [e])
    | none => (acc.1, acc.2 ++ [e])) (s, [])
  go.1.modCore c fun k =>
    let k := setFlight k b go.2
    if (slotWake k b).any (Wake.isPage vpn) then k.setSlotOf b { k.slotOf b with wfault := some (vpn, f) } else k

/-- The fault in which the look-up of a page has ended, for every party of the cores that waits for it (R98, R99). -/
def giveFault (s : State) (cores : List Nat) (asn : BitVec 4) (vpn : BitVec 36) (f : BitVec 16) : State :=
  cores.foldl (fun s c =>
    let s := [false, true].foldl (fun s b => if slotAsks (s.core c) asn vpn b then failSlot s c b vpn f else s) s
    if (s.core c).chans.any fun ch => ch.q.any (cmdAsks asn vpn) then
      s.modCore c fun k => { k with chans := k.chans.map fun (ch : Chan) => { ch with
        q := ch.q.map fun x => if cmdAsks asn vpn x then { x with askf := some f } else x } }
    else s) s

/-- Whether a party of a core waits for a page. -/
def coreAsks (k : Core) (asn : BitVec 4) (vpn : BitVec 36) : Bool :=
  slotAsks k asn vpn false || slotAsks k asn vpn true || k.chans.any fun ch => ch.q.any (cmdAsks asn vpn)

/-- A page that the host does not grant: the parties that wait for it fault, and where there is none of them the refusal stands
until the one that waits has seen it (R98, R364). -/
def failPage (s : State) (asn : BitVec 4) (vpn : BitVec 36) : State :=
  let l := (s.cores.filter fun k => coreAsks k.2 asn vpn).map Prod.fst
  if l.isEmpty then { s with denied := (asn, vpn) :: s.denied.filter (· != (asn, vpn)) }
  else giveFault s l asn vpn xNotPresent

/-- ATS_INVALIDATION: it completes once no walk of its pages is under way, with their translations gone. -/
def execAtsInvalidation (asn : Fin 16) (vpn : BitVec 36) (size : BitVec 2) (s : State) : Out :=
  let a : BitVec 4 := BitVec.ofFin asn
  let walks := s.dies.any fun d => d.2.walks.any fun w =>
    tbivcHits vpn a size ⟨w.asn, BitVec.ofNat 52 (w.vpn.toNat * 65536), 16, 0, false, false, false, false, 0⟩
  if walks then .next s else (dropPages s vpn a size).answers .done

/-- A page granted by the host: what the buffers held of it from the host goes (R364). -/
def grantPage (s : State) (asn : BitVec 4) (vpn : BitVec 36) (hpa : BitVec 64) (rd wr ex : Bool) : State :=
  let old (e : Tlb) : Bool := e.asn == asn && e.size == 16 && e.va.extractLsb' 16 36 == vpn && e.pa.toNat / 2 ^ 48 == 8
  { dropTlb s old with hostPages := (asn, vpn, hpa, rd, wr, ex) :: s.hostPages.filter fun p => !(p.1 == asn && p.2.1 == vpn) }

/-- ATS_RESPONSE: the answer to the oldest translation request. A first answer that does not grant the access leads to a page
request, a second one to page-not-present. -/
def execAtsResponse (r : AtsAns) (s : State) : Out :=
  match s.ats with
  | [] => .next s
  | q :: rest =>
    let s : State := { s with ats := rest }
    let no (s : State) : State := if q.again then failPage s q.asn q.vpn else requestPage s q
    match r with
    | .grant hpa rd wr ex =>
      if 2 ^ 50 ≤ hpa.toNat then .next (flushNotices (failPage s q.asn q.vpn))
      else if !(match q.kind with
          | .rd => rd
          | .wr => wr
          | .ex => ex) then .next (flushNotices (no s))
      else .next (flushNotices (settlePages (grantPage s q.asn q.vpn hpa rd wr ex)))
    | .refuse => .next (flushNotices (no s))

/-- The page request number `n` of those outstanding on a link, with those before and after it. -/
def pickPri (l : Nat) : Nat → List PageReq → List PageReq → Option (PageReq × List PageReq)
  | _, _, [] => none
  | n, done, r :: rest =>
    if r.link ≠ l then pickPri l n (done ++ [r]) rest
    else
      match n with
      | 0 => some (r, done ++ rest)
      | k + 1 => pickPri l k (done ++ [r]) rest

/-- PRI_RESPONSE: the answer to one of the page requests outstanding on a link; those beyond 512 wait their turn. -/
def execPriResponse (a : PriAns) (s : State) : Out :=
  match pickPri a.l.val a.n.val [] s.pri with
  | none => .next s
  | some (r, rest) =>
    let s : State := { s with pri := rest }
    .next (if a.ok then { s with ats := s.ats ++ [{ r with again := true }] } else flushNotices (failPage s r.asn r.vpn))

/-! ## Power (R370, R371) -/

def powerCap (s : State) : Nat := max 800 (s.powercap.toNat % 4096)

/-- POWER_STEP_DOWN: `watts` is the average over 1 ms, `hot` a junction at 100 °C. -/
def execPowerStepDown (watts : Nat) (hot : Bool) (s : State) : Out :=
  if s.power = .p0 ∧ s.pstate < 2 ∧ (powerCap s < watts ∨ hot) then .next { s with pstate := s.pstate + 1 } else .next s
/-- POWER_STEP_UP: both conditions have been clear for 10 ms. -/
def execPowerStepUp (s : State) : Out := if s.power = .p0 then .next { s with pstate := s.pstate - 1 } else .next s
/-- JUNCTION_LIMIT (R357, R359). -/
def execJunctionLimit (d : DieId) (s : State) : Out :=
  .next (fatalDump (s.recordD d.val 2 3 0 (Config.freeMaster s.fresh).toNat 0x71 0 0) d.val 0 0x8071 none [])
def execD3hotEntry (s : State) : Out := if s.power = .p0 then .next { s with power := .d3hot } else .next s
def execD0Return (s : State) : Out := if s.power = .d3hot then .next { s with power := .p0 } else .next s
/-- POWER_REMOVAL: contents are lost. -/
def execPowerRemoval (s : State) : Out :=
  .next (keepOwn s { State.reset with
    mem := outsideCells s.mem
    power := .d3cold })

/-! ## Ports and messages (R358, R362, R365) -/

/-- LANE_STEP_DOWN: the next lower rate; a port at 112 Gb/s has none. -/
def execLaneStepDown (p : Fin 18) (s : State) : Out :=
  let next := match s.ports[p.val] with
    | 448 => 336 | 336 => 224 | 224 => 112 | _ => 0
  if next = 0 then .next s
  else
    let t : State := { s with ports := vset s.ports p.val next }
    .next ((t.msix 2).recordD 0 2 1 (BitVec.ofNat 4 p.val) (Config.freeMaster s.fresh).toNat 0x60 0 0)
/-- PORT_DOWN: a port at 112 Gb/s that cannot hold it. -/
def execPortDown (p : Fin 18) (s : State) : Out :=
  if s.ports[p.val] ≠ 112 then .next s
  else
    let t : State := { s with ports := vset s.ports p.val 0 }
    .next ((t.msix 2).recordD 0 2 3 (BitVec.ofNat 4 p.val) (Config.freeMaster s.fresh).toNat 0x61 0 0)

/-- A function sends the pending messages that nothing masks any more (R365). -/
def msixFlush (s : State) (l : Nat) : State :=
  let f := vget s.msixFns l ⟨false, false, [], []⟩
  let go := f.pending.filter f.sends
  modMsix { s with msixSent := s.msixSent ++ go.map fun v => (l, v) } l fun f => { f with
    pending := f.pending.filter fun v => !go.contains v }

/-- MSIX_VECTOR_UNMASK, and the other writes to a function's MSI-X structures. -/
def execMsixVectorUnmask (x : MsixAccess) (s : State) : Out :=
  let set (f : MsixFn) : MsixFn := match x.w with
    | .vector v true => { f with opened := sdel f.opened v.val }
    | .vector v false => { f with opened := sput f.opened v.val }
    | .control on masked => { f with
        on := on
        masked := masked }
  .next (msixFlush (modMsix s x.l.val set) x.l.val)

/-- BAR2_RESIZE: 1 GiB to 1 TiB. -/
def execBar2Resize (n : Fin 11) (s : State) : Out := .next { s with bar2 := 30 + n.val }

/-! ## What happens while the module does not run (R367, R370, R371) -/

/-- Happenings that come from outside, and those of the links and the supply. -/
def fromOutside : Instr → Bool
  | .lqtailDoorbell .. | .lqEnable .. | .ringReset .. | .lqctlErrClear .. | .registerWrite .. | .lqkill .. | .tbivc ..
  | .tbivcOvrClear .. | .preemptRequest .. | .errorRecordFree .. | .errorOvfClear .. | .accessTableWrite .. | .cssegWrite ..
  | .trpoolWrite .. | .devidWrite .. | .hostSyncAcquire .. | .hostSyncRelease .. | .bar2Access .. | .peerRequest ..
  | .powerOn .. | .reset .. | .spdmRequest .. | .ideIntegrityFailure .. | .junctionLimit .. | .d3hotEntry | .d0Return
  | .powerRemoval | .laneStepDown .. | .portDown .. | .msixVectorUnmask .. | .bar2Resize .. => true
  | _ => false

/-- Whether the module's units run: boot has completed and the clock is not stopped. -/
def awake (s : State) : Bool := s.boot == .ready && s.power == .p0

end Sys2Proof.Machine
end

