-- ==== Sys2Proof/Machine/Engines.lean ====
section
/-!
DEFINITION. Engines.lean: the happenings of a core, its array and its channels, of triggers, flags, barriers and objects on
their way, of the walkers, and errors (R16, R34, R68, R94, R99, R148, R162, R163, R165, R242 to R251, R260, R280, R288, R290,
R305, R338 to R343, R350, R354 to R359). A happening that is not due changes nothing (log 3); one that is part of a core's
cycle asks for that cycle.
-/
namespace Sys2Proof.Machine

/-- The core's next move is a cycle of its own. -/
def asksCycle (s : State) (c : Nat) (due : Bool) (hc : c < 1024) : Out :=
  .next (if due then { s with agenda := s.agenda ++ [.issue ⟨c, hc⟩] } else s)

/-! ## Results and freezes (R16, R34, R68, R350) -/

/-- A remote result whose reply has come; that of a CPLAN which releases a plan comes once the plan is released (R328). -/
def replyBack (s : State) (c : Nat) (b : Bool) (e : InFl) : InFl :=
  if s.planOut.any fun p => p.2 == (c, b) then e else { e with remote := false }

/-- The remote results of both slots of a core. -/
def repliesBack (s : State) (c : Nat) : State :=
  s.modCore c fun k => { k with
    inflight := k.inflight.map (replyBack s c k.ctx)
    slot0 := { k.slot0 with parked := k.slot0.parked.map (replyBack s c false) }
    slot1 := { k.slot1 with parked := k.slot1.parked.map (replyBack s c true) } }

/-- RESULT_DELIVER: remote replies are back, and what is due lands. -/
def execResultDeliver (c : CoreId) (s : State) : Out := .next ((repliesBack s c.val).modCore c.val landReady)

/-- FREEZE_START: a value is late at its due cycle. -/
def execFreezeStart (c : CoreId) (s : State) : Out :=
  let k := s.core c.val
  if dueLate k && k.freeze.isNone && k.slot.task.isSome then .next (s.modCore c.val fun k => { k with freeze := some ⟨(lateCode k).1, 0, (lateCode k).2⟩ })
  else .next s

/-- The descriptor whose entries a core's BTINV waits to see dropped. -/
def btinvOf : Option Wake → Option Addr
  | some (.btinv d) => some d
  | _ => none

/-- FREEZE_RELEASE: the values of accesses that have performed are back, and remote replies; every buffer drops the descriptor of
a BTINV that waits (R333). -/
def execFreezeRelease (c : CoreId) (s : State) : Out :=
  let k := s.core c.val
  let descs := [k.freeze.map Freeze.wake, k.slot0.out, k.slot1.out].filterMap btinvOf
  let s := repliesBack (if descs.isEmpty then s else dropBtb s fun e => descs.contains e.desc) c.val
  let back (e : InFl) : InFl :=
    { e with acc := e.acc.map fun a => if a.st == .done then { a with late := false } else a }
  let slot (x : Slot) : Slot := if x.parked.isEmpty then x else { x with parked := x.parked.map back }
  .next (s.modCore c.val fun k =>
    let k := { k with
      inflight := k.inflight.map back
      slot0 := slot k.slot0
      slot1 := slot k.slot1 }
    let k := landReady k
    if k.freeze.any (fun f => f.wake == .access || f.wake == .remote) && !dueLate k then { k with freeze := none } else k)

/-- SLOT_RESUME: the slot in use is empty, and the other's step is ready. -/
def execSlotResume (c : CoreId) (s : State) : Out :=
  let k := s.core c.val
  if k.slot.task.isNone && slotReady s c.val !k.ctx then .next (s.setCore c.val (landReady (runSlot k !k.ctx))) else .next s

/-- STALL_WATCHDOG. -/
def execStallWatchdog (c : CoreId) (s : State) : Out :=
  match (s.core c.val).freeze with
  | some f => .next (if 2 ^ 20 ≤ f.cycles then watchdog s c.val f.code else s)
  | none => .next s

/-! ## Waits and holds (R260, R280) -/

def held (s : State) (c : Nat) (factor late : Bool) : Bool :=
  (s.core c).hold.any fun h => (h.kind == .factor) == factor && (!late || decide (h.limit ≤ h.waited))

/-- WAIT_COMPLETE. -/
def execWaitComplete (c : CoreId) (s : State) : Out := asksCycle s c.val (held s c.val false false) c.isLt
/-- WAIT_TIMEOUT. -/
def execWaitTimeout (c : CoreId) (s : State) : Out := asksCycle s c.val (held s c.val false true) c.isLt
/-- FACTOR_HOLD_RELEASE. -/
def execFactorHoldRelease (c : CoreId) (s : State) : Out := asksCycle s c.val (held s c.val true false) c.isLt
/-- FACTOR_HOLD_EXPIRY. -/
def execFactorHoldExpiry (c : CoreId) (s : State) : Out := asksCycle s c.val (held s c.val true true) c.isLt

/-- MONITOR_WAKE (R305): also a spurious event. -/
def execMonitorWake (c : CoreId) (s : State) : Out :=
  .next (if (s.core c.val).monitor.isSome then s.modCore c.val fun k => { k with monitorHit := true } else s)

/-! ## Traps (R248, R338, R342, R343, R354, R356) -/

/-- TRAP_ENTRY: a trap whose entry has waited for its accesses. -/
def execTrapEntry (c : CoreId) (s : State) : Out :=
  match (s.core c.val).trapping with
  | some t => .next (trapWait s c.val t)
  | none => .next s

/-- DUE_CYCLE_FAULT. -/
def execDueCycleFault (c : CoreId) (s : State) : Out :=
  let k := s.core c.val
  match k.slot.task, k.trapping, dueFault k with
  | some _, none, some (f, a) => .next (takeTrap s c.val f (a.setWidth 64))
  | _, _, _ => .next s

/-- Whether a core stands at a bundle at which it takes an interrupt: a step runs on it, and nothing keeps its trap (R338). -/
def atBundle (k : Core) : Bool :=
  k.slot.task.isSome && k.trapping.isNone && k.slot.ending.isNone && !k.slot.sup && !k.slot.bubble && (dueFault k).isNone &&
  !dueLate k && !syncReleased k

/-- SIGNAL_INTERRUPT: the trap of the oldest signal that has come; a mismatch that waits goes first. -/
def execSignalInterrupt (c : CoreId) (s : State) : Out :=
  let k := s.core c.val
  .next (if atBundle k && k.signals.any fun e => s.passes e.2.2 then (dueInterrupt s c.val).getD s else s)
/-- ASSAY_MISMATCH: the trap of the oldest mismatch whose wait is over. -/
def execAssayMismatch (c : CoreId) (s : State) : Out :=
  let k := s.core c.val
  .next (if atBundle k && k.assay.any fun a => a.1 == 0 then (dueInterrupt s c.val).getD s else s)

/-- POISON_CONSUMPTION: a late value turns out to be poisoned. -/
def execPoisonConsumption (c : CoreId) (pa : Addr) (s : State) : Out :=
  let k := s.core c.val
  let hit := k.inflight.any fun e => e.acc.any fun a => a.st == .done && a.late && lineOf a.pa.toNat == lineOf pa.toNat
  .next (if k.slot.task.isSome && s.poisoned pa.toNat && hit then rollback s c.val (lineOf pa.toNat) else s)

/-- JOURNAL_FULL_CHECKPOINT. -/
def execJournalFullCheckpoint (c : CoreId) (s : State) : Out :=
  let k := s.core c.val
  .next (if k.jfull && k.slot.task.isSome then ckptBefore s c.val else s)

/-! ## The array (R242, R243) and follow-ons (R249) -/

def arrayRuns (s : State) (c : Nat) (p : MOp → Bool) : Bool := ((s.core c).mq.head?).any p

/-- MATRIX_OP_START. -/
def execMatrixOpStart (c : CoreId) (s : State) : Out :=
  asksCycle s c.val (arrayRuns s c.val fun o => o.run.isNone && o.wait == 0) c.isLt
/-- MATRIX_CHUNK_END. -/
def execMatrixChunkEnd (c : CoreId) (s : State) : Out :=
  asksCycle s c.val (arrayRuns s c.val fun o => o.kind.chunked && o.run.any fun r => r + 1 == chunkEnd o o.next) c.isLt
/-- MATRIX_OP_END. -/
def execMatrixOpEnd (c : CoreId) (s : State) : Out :=
  asksCycle s c.val (arrayRuns s c.val fun o => o.run.any fun r => r + 1 == o.occ) c.isLt
/-- FOLLOW_ON_ARRIVAL. -/
def execFollowOnArrival (c : CoreId) (n : Fin 4) (s : State) : Out := .next (followArrive s c.val n.val)

/-! ## Channels (R288, R290) -/

/-- COPY_START. -/
def execCopyStart (c : CoreId) (n : Fin 4) (s : State) : Out := .next (startCmd s c.val n.val)
/-- COPY_ROW. -/
def execCopyRow (c : CoreId) (n : Fin 4) (s : State) : Out := .next (rowStep s c.val n.val)
/-- COPY_COMPLETE. -/
def execCopyComplete (c : CoreId) (n : Fin 4) (s : State) : Out := .next (finishCmd s c.val n.val)
/-- COPY_FAULT. -/
def execCopyFault (c : CoreId) (n : Fin 4) (s : State) : Out := .next (faultCmd s c.val n.val)

/-! ## Triggers, flags, barriers, objects (R148, R162, R163, R165, R306) -/

/-- A triggered CPY enters its channel, or stays queued while that is full. It does not see the stores that open segments of its
core withhold now (R117). -/
def fireCopy (s : State) (o : TrigOp) (n : Nat) (cmd : Cmd) : Option State :=
  let cmd : Cmd := { cmd with
    id := s.fresh + 1
    after := (s.core o.core).useq
    blind := ((s.core o.core).withheld.filter fun h => !h.closed).map Held.seq }
  if noRoom s o.core n cmd then none
  else
    let same := ((s.core o.core).slotOf o.slot).task == o.task
    let s := (modChan s o.core n fun ch => { ch with q := ch.q ++ [cmd] }).nextFresh
    some (if same then s.modCore o.core fun k => k.setSlotOf o.slot (followCmd (k.slotOf o.slot) n cmd.id) else s)

/-- The accesses of the party that issued a TRIG, as they stand: none once its step has left the slot. -/
def partyGate (s : State) (o : TrigOp) : Gate :=
  let k := s.core o.core
  ⟨o.core, o.slot, if (k.slotOf o.slot).task == o.task then k.useq else 0⟩

/-- The release of a triggered CREADY or FPOSTR: what the party withholds is published, as if it had issued it now (R306). -/
def partyRelease (s : State) (o : TrigOp) : State :=
  let sl := (s.core o.core).slotOf o.slot
  if sl.task == o.task && !sl.sup then publishHeld s o.core o.slot else s

/-- What a triggered operation does; none where it must stay queued. -/
def fireOp (s : State) (o : TrigOp) : Option State :=
  match o.img, o.cmd with
  | .cpy x, some cmd => fireCopy s o x.c.toNat cmd
  | .cready _, _ =>
    if 64 ≤ (s.die (dieOf o.core)).firings.length then none
    else some (creadyOp (partyRelease s o) (dieOf o.core) (o.opA.toNat % 1024) o.asn o.sup (partyGate s o)).1
  | .fpostr x, _ =>
    some (sendPost (partyRelease s o) (o.opB.toNat % 1024) ⟨x.f.toNat, o.opA.toNat % 65536, partyGate s o⟩)
  | _, _ => some s

/-- TRIGGER_FIRE: the oldest eligible operation of the counter. -/
def execTriggerFire (d : DieId) (k : Fin 256) (s : State) : Out :=
  match (s.die d.val).tdue.find? fun o => o.ctr == k.val with
  | none => .next s
  | some o => .next ((fireOp (s.modDie d.val fun x => { x with tdue := x.tdue.erase o }) o).getD s)

/-- FLAG_POST_ARRIVAL: the posts on their way to the flag take part in the core's next cycle, but for those before which an
access of their own party has still to perform (R302). -/
def execFlagPostArrival (c : CoreId) (f : Fin 16) (s : State) : Out :=
  let here (p : Post) : Bool := p.flag == f.val && s.passes p.gate
  .next (s.modCore c.val fun k => { k with
    posts := k.posts ++ (k.rposts.filter here).map fun p => (p.flag, p.count)
    rposts := k.rposts.filter fun p => !here p })

/-- The first arrival for a barrier that nothing holds back: those of one barrier come in their order (R163). -/
def nextBar (s : State) (d : Nat) : Option Arrival :=
  let l := (s.die d).arrivals
  l.find? fun a => a.bar.isSome && a.passes s && ((l.find? fun x => x.bar == a.bar) == some a)

/-- BARRIER_OP_ARRIVAL: bytes landed, or lost to a fault, or an operation of a core. -/
def execBarrierOpArrival (d : DieId) (s : State) : Out :=
  match nextBar s d.val with
  | some a => .next (landBar s d.val a)
  | none => .next s

def Arrival.isRel : Arrival → Bool
  | .rel .. => true
  | _ => false

/-- RELEASE_ARRIVAL: the oldest release that no earlier access of its party holds back (R300). -/
def execReleaseArrival (d : DieId) (s : State) : Out :=
  match (s.die d.val).arrivals.find? fun a => a.isRel && a.passes s with
  | some (.rel e i lact lav core b q) =>
    .next (landRel (s.modDie d.val fun x => { x with arrivals := x.arrivals.erase (.rel e i lact lav core b q) }) e i lact lav core b)
  | _ => .next s

/-! ## Walkers (R99, R100) -/

/-- PAGE_WALK: a free walker of the 64 takes the oldest miss. -/
def execPageWalk (d : DieId) (s : State) : Out :=
  .next (s.modDie d.val fun x =>
    match x.missq with
    | w :: rest => if x.walks.length < 64 then { x with
        missq := rest
        walks := x.walks ++ [{ w with fresh := true }] } else x
    | [] => x)

/-- Every waiting core's accesses that can perform now do. -/
def settleCores (s : State) (l : List Nat) : State :=
  l.foldl settleDue s

/-- WALK_COMPLETE: a walk begun before a TBIVC write is done again; another's result goes to its requesters. -/
def execWalkComplete (d : DieId) (k : Nat) (s : State) : Out :=
  match (s.die d.val).walks[k]? with
  | none => .next s
  | some w =>
    if !w.fresh then
      .next (s.modDie d.val fun x => { x with walks := x.walks.modify k fun w => { w with fresh := true } })
    else
      let va : Addr := BitVec.ofNat 52 (w.vpn.toNat * 65536)
      let res := walk s d.val w.asn va
      let s := s.modDie d.val fun x => { x with walks := x.walks.eraseIdx k }
      match res with
      | .leaf e =>
        .next (settleCores ((w.cores ++ w.chans.map Prod.fst).foldl (fun s c => fillTlb s (clusterOf c) d.val e) s) w.cores)
      | .ask => .next (settleCores s w.cores)
      | .fault f => .next (settleCores (giveFault s (w.cores ++ w.chans.map Prod.fst).eraseDups w.asn w.vpn f) w.cores)

/-! ## Errors (R94, R357, R359) -/

/-- Whether a memory of bank `b` of die `d` may hold the line: stacks, L2 and staging; scratchpads and L1s; engine SRAM. -/
def eccOk (s : State) (d b pa : Nat) : Bool :=
  match targetOf s pa with
  | .dev => (b == 0 && homeDie pa == d) || b == 1
  | .staging e _ _ => b == 0 && e == d
  | .spad c _ => b == 1 && dieOf c == d
  | .csram e _ => b == 3 && e == d
  | _ => false

/-- CORRECTED_ERROR. -/
def execCorrectedError (d : DieId) (b : Fin 4) (unit : BitVec 4) (pa : Addr) (s : State) : Out :=
  if eccOk s d.val b.val pa.toNat then .next (s.recordD d.val b.val 1 unit (Config.freeMaster s.fresh).toNat 0x01 pa (Config.freeSynd s.fresh)) else .next s

/-- UNCORRECTABLE_ERROR: the row or line is poisoned. -/
def execUncorrectableError (d : DieId) (b : Fin 4) (unit : BitVec 4) (pa : Addr) (s : State) : Out :=
  if eccOk s d.val b.val pa.toNat then
    .next ((s.taint pa.toNat).recordD d.val b.val 2 unit (Config.freeMaster s.fresh).toNat 0x02 pa (Config.freeSynd s.fresh))
  else .next s

/-- FATAL_PATH: an uncorrectable error in a directory, a table or a walker's state, which keeps the sections `lost` of the dump
from being read. -/
def execFatalPath (d : DieId) (e : FatalIn) (s : State) : Out :=
  .next (fatalDump s d.val 0 (0x8000 + e.ecode.setWidth 16) none e.lost)

end Sys2Proof.Machine
end

