-- ==== Sys2Proof/Machine/Factors.lean ====
section
/-!
DEFINITION. Factors.lean: tile elementwise, record and reduction instructions at issue (R255 to R275). What the queued ones
then do stands in Array.lean.
-/
namespace Sys2Proof.Machine

/-! ## Shared checks (R256, R268, R275) -/

def tidE (s : State) (t : BitVec 6) : TidEnt := s.sl.tid t.toNat

/-- The row base of a tile: bits [12:0] of a fixed register. -/
def rowBase (s : State) (r : BitVec 5) : Nat := (sReg s.sl r).toNat % 8192

/-- Formats that tile instructions take: FP64, FP32, FP16, BF16. -/
def wideFmt (t : TidEnt) : Bool := decide (t.fmt.toNat ≤ 3)

/-- A queued factor operation: tiles, records, bases and layouts, as the bundle reads them (R256, R257, R277). -/
def tileOp (s : State) (i : Instr) (tA tB tD : TidEnt) (b : Word) : MOp :=
  let sl := s.sl
  { blankOp s i with
    rowA := rowBase s 28
    rowB := rowBase s 29
    rowD := rowBase s 27
    layS := (sReg sl 28).extractLsb' 16 2
    layD := (sReg sl 27).extractLsb' 16 2
    bval := b
    tA := tA
    tB := tB
    tD := tD
    fA := tileRec sl tA
    fB := tileRec sl tB }

def tileRows (t : TidEnt) : Nat := if t.fmt = 0 then 128 else 64
/-- Occupancy of an operation over the tiles. -/
def tileOcc (l : List TidEnt) : Nat := if l.any fun t => t.fmt == 0 then 128 else 64

/-- SATRNE where D is not narrower than the widest source: illegal (R268). -/
def badSat (rm : Rnd) (d : TidEnt) (srcs : List TidEnt) : Bool :=
  rm == .satrne && decide (srcs.foldl (fun m t => max m (fmtBits t.fmt.toNat)) 0 ≤ fmtBits d.fmt.toNat)

/-- The illegal-instruction trap comes before every other check (R184). -/
def orIllegal (b : Bool) (cause : BitVec 16) (s : State) (k : Unit → Out) : Out :=
  if b then .next (s.illegal cause) else k ()

/-- Enqueues a tile operation and writes D's record, its causes recorded. -/
def issueTile (o : MOp) (t : TidEnt) (r : FRec) (ks : List Cause) (s : State) : State :=
  mpcStep (((s.modSl fun sl => setTileRec sl t r).enqueue o).sticky ks)

/-! ## Records of the results (R261, R268) -/

/-- A slot value times a factor, rounded to FP64. -/
def mulSlotVal (x y : Word) : Word × List Cause :=
  let (p, k1) := mulFV (fv64 x) (fv64 y)
  let (c, k2) := encSlot p
  (c, [k1, k2])

def shiftTimes (y : Word) (x : ShiftSlot) : ShiftSlot × List Cause :=
  let (v, k1) := mulSlotVal x.val y
  let (m, k2) := mulSlotVal x.mul y
  ({ x with val := v, mul := m }, k1 ++ k2)

def two64 : Word := 0x4000000000000000

/-- TADD: A's scales, its shifts doubled. -/
def addRec (a : FRec) : FRec × List Cause :=
  let (rh, k1) := mapSlots a.rh (shiftTimes two64)
  let (ch, k2) := mapSlots a.ch (shiftTimes two64)
  (⟨a.rs, a.cs, rh, ch⟩, k1 ++ k2)

/-- TSUB: A's scales, identity shifts. -/
def subRec (a : FRec) : FRec := ⟨a.rs, a.cs, FRec.identity.rh, FRec.identity.ch⟩

/-- TSCALE: every row scale, VAL and MUL times s. -/
def scaleRec (y : Word) (a : FRec) : FRec × List Cause :=
  let (rs, k1) := mapSlots a.rs fun x => let (c, k) := mulSlotVal x.coef y; ({ x with coef := c }, k)
  let (rh, k2) := mapSlots a.rh (shiftTimes y)
  let (ch, k3) := mapSlots a.ch (shiftTimes y)
  (⟨rs, a.cs, rh, ch⟩, k1 ++ k2 ++ k3)

/-- The handles that a scale slot holds. -/
def slotHandles (x : ScaleSlot) : List Handle := (if x.h0v then [x.h0] else []) ++ (if x.h1v then [x.h1] else [])

def mulScale (a b : ScaleSlot) : ScaleSlot × List Cause :=
  let (c, k) := mulSlotVal a.coef b.coef
  match slotHandles a ++ slotHandles b with
  | [] => (⟨c, 0, false, 0, false⟩, k)
  | [h] => (⟨c, h, true, 0, false⟩, k)
  | h :: g :: _ => (⟨c, h, true, g, true⟩, k)

/-- TMUL with every shift identity: slots multiplied, handles joined. -/
def mulRec (a b : FRec) : FRec × List Cause :=
  let go (x y : Vector ScaleSlot 64) : Vector ScaleSlot 64 × List Cause :=
    (.zipWith (fun p q => (mulScale p q).1) x y, (x.toList.zip y.toList).foldl (fun acc e => acc ++ (mulScale e.1 e.2).2) [])
  let (rs, k1) := go a.rs b.rs
  let (cs, k2) := go a.cs b.cs
  (⟨rs, cs, FRec.identity.rh, FRec.identity.ch⟩, k1 ++ k2)

/-- No slot of the product would hold more than two handles. -/
def mulFits (a b : FRec) : Bool :=
  (a.rs.toList.zip b.rs.toList ++ a.cs.toList.zip b.cs.toList).all fun e =>
    decide ((slotHandles e.1).length + (slotHandles e.2).length ≤ 2)

/-! ## Tile elementwise instructions (R268, R269) -/

/-- Checks of a tile instruction that come before its hold; `rows` are its runs of rows. -/
def tileChecks (s : State) (ts : List (BitVec 6)) (badF badN : Bool) (rows : List (Nat × Nat)) : Fail :=
  chkFull s <|> ts.findSome? (chkTid s) <|> failIf badF 0x0410 0 <|> failIf badN 0x0411 0 <|> chkRows rows

/-- What the two-operand instructions share: the operation, its checks, and what follows them. -/
def tile2 (i : Instr) (o : OpT2) (neq : Bool) (s : State) (k : MOp → Out) : Out :=
  let a := tidE s o.ta
  let b := tidE s o.tb
  let d := tidE s o.td
  let op := { tileOp s i a b d 0 with occ := tileOcc [a, b, d] }
  orIllegal (a.v && b.v && d.v && badSat o.rm d [a, b]) 0x0003 s fun _ =>
    orTrap (tileChecks s [o.ta, o.tb, o.td] (!(wideFmt a && wideFmt b && wideFmt d)) (neq && op.fA != op.fB)
      [(op.rowA, tileRows a), (op.rowB, tileRows b), (op.rowD, tileRows d)]) s fun _ => k op

def execTadd (o : OpT2) (s : State) : Out :=
  tile2 (.tadd o) o true s fun op =>
    let (r, ks) := addRec op.fA
    .next (issueTile op op.tD r ks s)

def execTsub (o : OpT2) (s : State) : Out :=
  tile2 (.tsub o) o true s fun op => .next (issueTile op op.tD (subRec op.fA) [] s)

/-- TMUL: slot by slot while every shift is identity; else every factor of both is applied. -/
def execTmul (o : OpT2) (s : State) : Out :=
  tile2 (.tmul o) o false s fun op =>
    if op.fA.noShift && op.fB.noShift then
      factorHold (mulFits op.fA op.fB) s fun _ =>
        let (r, ks) := mulRec op.fA op.fB
        .next (heldOk (issueTile op op.tD r ks s))
    else
      factorHold (op.fA.const && op.fB.const) s fun _ => .next (heldOk (issueTile op op.tD .identity [] s))

def execTscale (o : OpTscale) (s : State) : Out :=
  let a := tidE s o.ta
  let d := tidE s o.td
  let y : Word := BitVec.ofNat 64 (opndSF s .f64 o.rm o.b)
  let op := { tileOp s (.tscale o) a .invalid d y with occ := tileOcc [a, d] }
  orIllegal (a.v && d.v && badSat o.rm d [a]) 0x0003 s fun _ =>
    orTrap (tileChecks s [o.ta, o.td] (!(wideFmt a && wideFmt d)) false
      [(op.rowA, tileRows a), (op.rowD, tileRows d)]) s fun _ =>
        let (r, ks) := scaleRec y op.fA
        .next (issueTile op d r ks s)

def execTrelu (o : OpT1) (s : State) : Out :=
  let a := tidE s o.ta
  let d := tidE s o.td
  let op := { tileOp s (.trelu o) a .invalid d 0 with occ := tileOcc [a, d] }
  orIllegal (a.v && d.v && badSat o.rm d [a]) 0x0003 s fun _ =>
    orTrap (tileChecks s [o.ta, o.td] (!(wideFmt a && wideFmt d)) false
      [(op.rowA, tileRows a), (op.rowD, tileRows d)]) s fun _ =>
        factorHold op.fA.const s fun _ => .next (heldOk (issueTile op d .identity [] s))

/-- A format that TCVT does not take in a layout. -/
def cvtBad (t : TidEnt) (lay : BitVec 2) : Bool :=
  decide (13 < t.fmt.toNat) ||
  (lay.getLsbD 0 && (fmtInt t.fmt.toNat).isSome && !(decide (10 ≤ t.fmt.toNat) && decide (t.fmt.toNat ≤ 12)))

def execTcvt (o : OpT1) (s : State) : Out :=
  let a := tidE s o.ta
  let d := tidE s o.td
  let op := tileOp s (.tcvt o) a .invalid d 0
  let na := cvtRows a.fmt.toNat op.layS
  let nd := cvtRows d.fmt.toNat op.layD
  let op := { op with occ := na + nd }
  orIllegal (a.v && d.v && badSat o.rm d [a]) 0x0003 s fun _ =>
    orTrap (tileChecks s [o.ta, o.td] (cvtBad a op.layS || cvtBad d op.layD) false [(op.rowA, na), (op.rowD, nd)]) s fun _ =>
      .next (issueTile op d op.fA [] s)

/-! ## TEXPD (R263) -/

def one64 : Word := 0x3FF0000000000000
def negOne64 : Word := 0xBFF0000000000000

/-- The scale handle that a shift handle becomes; none where it must fold first. -/
def mapShift (x : ShiftSlot) : Option Handle :=
  let h (tr : Nat) : Handle := mkHandle (hEntry x.h) (hElem x.h) tr
  if (x.mul = one64 ∧ hTr x.h = 0) ∨ (x.mul = negOne64 ∧ hTr x.h = 1) then some (h 5)
  else if (x.mul = negOne64 ∧ hTr x.h = 0) ∨ (x.mul = one64 ∧ hTr x.h = 1) then some (h 6)
  else none

/-- What TEXPD waits for. -/
def texpdReady (r : FRec) : Bool :=
  r.rs.toList.all ScaleSlot.const && r.cs.toList.all ScaleSlot.const &&
  (r.rh.toList ++ r.ch.toList).all fun x => !x.hv || (mapShift x).isSome

/-- The scale slot that a shift slot becomes, over the anchor g. -/
def expSlot (g : FV) (x : ShiftSlot) : ScaleSlot × List Cause :=
  let (v, k1) := addFV .rne g (fv64 x.val)
  let (c, k2) := encSlot (expFV v)
  (match x.hv, mapShift x with
    | true, some h => ⟨c, h, true, 0, false⟩
    | _, _ => ⟨c, 0, false, 0, false⟩, [k1, k2])

/-- D's record, with the anchors of A's rows as they stand at issue: the record, its causes, a poisoned row read (log 15). -/
def texpdRec (s : State) (o : MOp) : FRec × List Cause × Option Nat :=
  let (rows, bad) := arrReads s s.cur o.rowA 64
  let arr := rows.toArray
  let g (i : Nat) : FV :=
    match texpdMax (texpdVals o i (arr.getD i 0)).1 with
    | .fin n m e => .fin n m e
    | _ => .zero
  let rs := (List.range 64).map fun i => expSlot (g i) (rhAt o.fA i)
  let cs := (List.range 64).map fun j => expSlot .zero (chAt o.fA j)
  (⟨.ofFn fun i => (rs.getD i.val (.one, [])).1, .ofFn fun j => (cs.getD j.val (.one, [])).1,
    FRec.identity.rh, FRec.identity.ch⟩,
   (rs ++ cs).foldl (fun acc e => acc ++ e.2) [], bad)

def texpdFmt (t : TidEnt) : Bool := wideFmt t && t.fmt != 0

def execTexpd (o : OpT1) (s : State) : Out :=
  let a := tidE s o.ta
  let d := tidE s o.td
  let op := { tileOp s (.texpd o) a .invalid d 0 with occ := 256 }
  orIllegal (a.v && d.v && badSat o.rm d [a]) 0x0003 s fun _ =>
    orTrap (tileChecks s [o.ta, o.td] (!(texpdFmt a && texpdFmt d)) false [(op.rowA, 64), (op.rowD, 64)]) s fun _ =>
      factorHold (texpdReady op.fA) s fun _ =>
        match texpdRec s op with
        | (_, _, some p) => .next (s.consume p)
        | (r, ks, none) => .next (heldOk (issueTile op d r ks s))

/-! ## Reductions (R264 to R267) and RESOLVE (R270) -/

/-- FXENT: no entry of that index in that state and operation. -/
def entBad (s : State) (x : Word) (p : Red → Bool) : Bool := decide (127 < x.toNat) || !p (s.sl.red x.toNat)

def reduceSlot (i : Instr) (o : OpRed) (s : State) : Out :=
  let a := tidE s o.ta
  let x := opndS s o.b
  let op := { tileOp s i a .invalid .invalid x with occ := tileOcc [a] }
  orTrap (chkFull s <|> chkTid s o.ta <|> failIf (!wideFmt a) 0x0410 0 <|>
      failIf (entBad s x fun r => r.state == .opened && r.op == o.op) 0x0413 0 <|> chkRows [(op.rowA, tileRows a)]) s fun _ =>
    factorHold op.fA.const s fun _ => .next (heldOk (mpcStep (s.enqueue op)))

def execRrow (o : OpRed) (s : State) : Out := reduceSlot (.rrow o) o s
def execRcol (o : OpRed) (s : State) : Out := reduceSlot (.rcol o) o s

def execRseal (o : OpB) (s : State) : Out :=
  let x := opndS s o.b
  orTrap (chkFull s <|> failIf (entBad s x fun r => r.state == .opened) 0x0413 0) s fun _ =>
    .next (mpcStep (s.enqueue { tileOp s (.rseal o) .invalid .invalid .invalid x with occ := 2 }))

def execRrtalloc (o : OpRrt) (s : State) : Out :=
  let n : BitVec 32 := (srcS s o.a).setWidth 32
  let eps := opndSF s .f64 .rne o.b
  match (List.range 128).find? fun i => (s.sl.red i).state == .free with
  | none => .next (mpcStep (s.deliverSN o.d.r o.d.n (BitVec.allOnes 64) 1))
  | some i =>
    .next (mpcStep ((s.modSl fun sl => sl.setRed i (newRed o.op n (BitVec.ofNat 64 eps))).deliverSN o.d.r o.d.n
      (BitVec.ofNat 64 i) 1))

/-- Whether a handle of the slot or a queued operation names the entry. -/
def entNamed (s : State) (x : Nat) : Bool :=
  (s.sl.factors.any fun e => recNames x e.2) ||
  s.me.mq.any fun o => o.slot == s.me.ctx && (o.kind == .rrow || o.kind == .rcol || o.kind == .rseal) && o.bval.toNat == x

def execRrtfree (o : OpB) (s : State) : Out :=
  let x := opndS s o.b
  orTrap (failIf (decide (127 < x.toNat)) 0x0413 0 <|> failIf (entNamed s x.toNat) 0x0414 0) s fun _ =>
    .next (mpcStep (s.modSl fun sl => sl.setRed x.toNat { sl.red x.toNat with state := .free }))

def execResolve (o : OpT) (s : State) : Out :=
  let a := tidE s o.t
  let op := { tileOp s (.resolve o) a .invalid .invalid 0 with occ := tileOcc [a] }
  orTrap (chkFull s <|> chkTid s o.t <|> failIf (!wideFmt a) 0x0410 0 <|> chkRows [(op.rowA, tileRows a)]) s fun _ =>
    factorHold op.fA.const s fun _ => .next (heldOk (issueTile op a .identity [] s))

/-! ## Record instructions (R272 to R274) -/

def modTileRec (s : State) (t : TidEnt) (f : FRec → FRec) : State := s.modSl fun sl => setTileRec sl t (f (tileRec sl t))

/-- Changes one slot of a kind: scale and shift kinds each with their own function. -/
def modKind (r : FRec) (k : FKind) (i : Nat) (f : ScaleSlot → ScaleSlot) (g : ShiftSlot → ShiftSlot) : FRec :=
  match k with
  | .rs => { r with rs := vset r.rs i (f (rsAt r i)) }
  | .cs => { r with cs := vset r.cs i (f (csAt r i)) }
  | .rh => { r with rh := vset r.rh i (g (rhAt r i)) }
  | .ch => { r with ch := vset r.ch i (g (chAt r i)) }

def execFset (o : OpFset) (s : State) : Out :=
  let v := BitVec.ofNat 64 (opndSF s .f64 .rne o.b)
  orTrap (chkTid s o.ta) s fun _ =>
    .next (mpcStep (modTileRec s (tidE s o.ta) fun r =>
      modKind r o.k o.slot.toNat
        (fun x => { x with coef := v, h0v := false, h1v := false })
        (fun x => { x with val := v, hv := false, mul := 0 })))

def execFclr (o : OpT) (s : State) : Out :=
  orTrap (chkTid s o.t) s fun _ => .next (mpcStep (modTileRec s (tidE s o.t) fun _ => .identity))

def execFcopy (o : OpTT) (s : State) : Out :=
  orTrap (chkTid s o.ta <|> chkTid s o.tb) s fun _ =>
    .next (mpcStep (modTileRec s (tidE s o.tb) fun _ => tileRec s.sl (tidE s o.ta)))

/-- FCOPY.acc: the record of accumulator s26[2:0]. -/
def execFcopyAcc (o : OpT) (s : State) : Out :=
  orTrap (chkTid s o.t) s fun _ =>
    .next (mpcStep (modTileRec s (tidE s o.t) fun _ => s.sl.frec (24 + (sReg s.sl 26).toNat % 8)))

/-- The slots that an FBIND writes, each with its handle term. -/
def bindTerms (o : OpFset) (h : Word) : List (Nat × Handle) :=
  let t : Handle := h.extractLsb' 0 17
  if h.getLsbD 17 then (List.range 64).map fun i => (i, mkHandle (hEntry t) ((hElem t + i) % 64) (hTr t))
  else [(o.slot.toNat, t)]

/-- Whether a slot of a record has room for one more handle. -/
def hasRoom (r : FRec) (k : FKind) (i : Nat) : Bool :=
  match k with
  | .rs => !((rsAt r i).h0v && (rsAt r i).h1v)
  | .cs => !((csAt r i).h0v && (csAt r i).h1v)
  | .rh => !(rhAt r i).hv
  | .ch => !(chAt r i).hv

/-- A term bound to an open entry. -/
def bindScale (h : Handle) (x : ScaleSlot) : ScaleSlot :=
  if x.h0v then { x with h1 := h, h1v := true } else { x with h0 := h, h0v := true }
def bindShift (h : Handle) (x : ShiftSlot) : ShiftSlot := { x with h := h, hv := true, mul := one64 }

/-- A term of a sealed entry, folded at once (R259). -/
def sealScale (e : Red) (h : Handle) (x : ScaleSlot) : ScaleSlot × List Cause :=
  let (c, ks) := scaleFold1 e x.coef h
  ({ x with coef := c }, ks)
def sealShift (e : Red) (h : Handle) (x : ShiftSlot) : ShiftSlot × List Cause :=
  let (t, ks) := handleVal e h
  let (v, k1) := addFV .rne (fv64 x.val) (fv64 t)
  let (c, k2) := encSlot v
  ({ x with
    val := c
    mul := 0 }, ks ++ [k1, k2])

/-- The record after an FBIND, and its causes. -/
def bindRec (e : Red) (k : FKind) (ts : List (Nat × Handle)) (r : FRec) : FRec × List Cause :=
  ts.foldl (fun (acc : FRec × List Cause) t =>
    if e.state == .sealed then
      let ks := match k with
        | .rs => (sealScale e t.2 (rsAt acc.1 t.1)).2
        | .cs => (sealScale e t.2 (csAt acc.1 t.1)).2
        | .rh => (sealShift e t.2 (rhAt acc.1 t.1)).2
        | .ch => (sealShift e t.2 (chAt acc.1 t.1)).2
      (modKind acc.1 k t.1 (fun x => (sealScale e t.2 x).1) (fun x => (sealShift e t.2 x).1), acc.2 ++ ks)
    else (modKind acc.1 k t.1 (bindScale t.2) (bindShift t.2), acc.2)) (r, [])

def execFbind (o : OpFset) (s : State) : Out :=
  let h := opndS s o.b
  let a := tidE s o.ta
  let e := s.sl.red (h.toNat % 128)
  let ts := bindTerms o h
  orIllegal (h.getLsbD 17 && o.slot != 0) 0x0006 s fun _ =>
    orIllegal (h.getLsbD 16) 0x0003 s fun _ =>
      orTrap (chkTid s o.ta <|> failIf (e.state == .free) 0x0413 0) s fun _ =>
        factorHold (e.state == .sealed || ts.all fun t => hasRoom (tileRec s.sl a) o.k t.1) s fun _ =>
          let (r, ks) := bindRec e o.k ts (tileRec s.sl a)
          .next (mpcStep (heldOk ((modTileRec s a fun _ => r).sticky ks)))

/-- The part of a slot that FREAD returns (R274). -/
def readPart (r : FRec) (kind part i : Nat) : Word :=
  let sc (x : ScaleSlot) : Word :=
    match part with
    | 0 => x.coef
    | 1 => BitVec.ofNat 64 (x.h0.toNat + b1 x.h0v 17 + x.h1.toNat * 2 ^ 18 + b1 x.h1v 35)
    | _ => 0
  let sh (x : ShiftSlot) : Word :=
    match part with
    | 0 => x.val
    | 1 => BitVec.ofNat 64 (x.h.toNat + b1 x.hv 17)
    | 2 => x.mul
    | _ => 0
  match kind with
  | 0 => sc (rsAt r i)
  | 1 => sc (csAt r i)
  | 2 => sh (rhAt r i)
  | _ => sh (chAt r i)

def execFread (o : OpFread) (s : State) : Out :=
  let x := opndS s o.b
  let n := x.toNat
  orTrap (if x.getLsbD 10 then none else chkTid s o.ta) s fun _ =>
    let r := if x.getLsbD 10 then s.sl.frec (24 + bitsN n 13 11) else tileRec s.sl (tidE s o.ta)
    .next (mpcStep (s.deliverSN o.d.r o.d.n (readPart r (bitsN n 7 6) (bitsN n 9 8) (bitsN n 5 0)) 1))

end Sys2Proof.Machine
end

