-- ==== Sys2Proof/Machine/Launching.lean ====
section
/-!
DEFINITION. Launching.lean: the happenings of the scheduling path: fetch, shares of staging, fused L1s, role mode, expansion,
the ready queue, dispatch, start, balancing (R11 to R14, R19, R90, R91, R124 to R132).
-/
namespace Sys2Proof.Machine

/-- LAUNCH_FETCH. -/
def execLaunchFetch (s : State) : Out := .next (fetchLaunch s)

/-! ## Staging shares (R91) -/

def stagingBase (d sl : Nat) : Nat := 2 ^ 48 + d * 2 ^ 27 + sl * 2 ^ 23

/-- Whether an address lies between two shares of a die's staging. -/
def betweenShares (d lo hi a : Nat) : Bool :=
  decide (stagingBase d 0 ≤ a) && decide (a < stagingBase d 16) &&
  decide (lo * 2 ^ 20 ≤ a % 2 ^ 23) && decide (a % 2 ^ 23 < hi * 2 ^ 20)

/-- Whether a staging residency entry covers rows between two shares. -/
def shareResid (lo hi : Nat) (x : Resid) : Bool :=
  let r := x.loc.toNat / 16 % 2 ^ 15
  decide (r < hi * 4096) && decide (lo * 4096 < r + cdiv x.bytes.toNat 256)

/-- The ways that the L2 part keeps. DESIGN CHOICE (log 103): R91 does not say which way a line occupies; the least recently
used lines stand in the ways given. -/
def keepWays (n : Nat) (l : List L2Line) : List L2Line × List L2Line :=
  let rank (x : L2Line) : Nat := (l.filter fun y => decide (x.used < y.used)).length
  (l.filter fun x => decide (rank x < n), l.filter fun x => decide (n ≤ rank x))

/-- A die takes a new share: lines of the ways given are written back and invalidated, staging that is new or lost is
cleared, and residency in it drops. -/
def setShare (s : State) (d n : Nat) : State :=
  let old := (s.die d).staging
  let lo := min old n
  let hi := max old n
  let sets := (s.die d).l2.map fun e => (e.1, keepWays (16 - 2 * n) e.2)
  let s := sets.foldl (fun s e => e.2.2.foldl (fun s x =>
    if x.dirty then setStack s x.pa.toNat x.data else s) s) s
  let s := s.modDie d fun x => { x with
    staging := n
    l2 := sets.map fun e => (e.1, e.2.1)
    resid := x.resid.map fun e => if e.2.v && shareResid lo hi e.2 then (e.1, { e.2 with v := false }) else e }
  { s with
    mem := s.mem.filter fun c => !betweenShares d lo hi c.1
    poison := s.poison.filter fun a => !betweenShares d lo hi a }

/-- A die that is to expand nothing of a launch has taken its share. -/
def takeShare (s : State) (k d : Nat) : State :=
  if (dieRange (s.launch k) d).1 = (dieRange (s.launch k) d).2 then
    s.modLaunch k fun y => { y with nextIx := tput y.nextIx d (dieRange y d).1 } else s

/-- STAGING_SHARE_APPLY: for the launch that waits first, once no task runs on the die. -/
def execStagingShareApply (d : DieId) (s : State) : Out :=
  match (pendingOn s d.val).head? with
  | none => .next s
  | some k =>
    let n := (s.launch k).stage.toNat
    if n = 15 ∨ n = (s.die d.val).staging ∨ dieBusy s d.val = true then .next s
    else .next (noteExpanded (takeShare (setShare s d.val n) k d.val) k)

/-! ## Fused L1s (R90) -/

/-- Every L1 of a cluster is written back and invalidated. -/
def flushCluster (s : State) (cl : Nat) : State :=
  (clCores cl).foldl (fun s c => (s.core c).l1.foldl (fun s e => l1Evict s c (256 * e.1)) s) s

/-- FUSE_CHANGE: the cluster takes the mode of the first unfinished launch on its die (log 22). -/
def execFuseChange (cl : ClusterId) (s : State) : Out :=
  match (s.launches.filter fun e => e.2.st != .done && e.2.dies.getLsbD (cl.val / 16)).head? with
  | none => .next s
  | some (_, l) =>
    if clusterBusy s cl.val = true ∨ (s.cluster cl.val).fused = l.fuse then .next s
    else .next ((flushCluster s cl.val).modCluster cl.val fun x => { x with fused := l.fuse })

/-- ROLE_MODE_START. -/
def execRoleModeStart (cl : ClusterId) (s : State) : Out := .next (roleStart s cl.val)

/-! ## Expansion and the ready queue (R19, R125, R127) -/

/-- WALKER_EXPAND. -/
def execWalkerExpand (d : DieId) (s : State) : Out := .next (expandOne s d.val)

/-- OVERFLOW_MOVE. -/
def execOverflowMove (d : DieId) (s : State) : Out :=
  match (s.die d.val).overflow with
  | t :: rest =>
    if (s.die d.val).ready.length < 8192 then
      .next (s.modDie d.val fun x => { x with
        ready := x.ready ++ [t]
        overflow := rest })
    else .next s
  | [] => .next s

/-- PRIORITY_AGING: the k-th task that waits on the die has waited 1024 cycles more. -/
def execPriorityAging (d : DieId) (k : Nat) (s : State) : Out :=
  match ((s.die d.val).ready ++ (s.die d.val).overflow)[k]? with
  | some t => .next (s.modTask t fun x => { x with waited := x.waited + 1024 })
  | none => .next s

/-! ## Dispatch, start, balancing (R13, R14, R128, R131) -/

/-- DISPATCH. -/
def execDispatch (d : DieId) (s : State) : Out := .next (dispatchOne s d.val)
/-- TASK_START. -/
def execTaskStart (c : CoreId) (s : State) : Out := .next (startTask s c.val)
/-- BALANCER_SAMPLE: its commands are on their way. -/
def execBalancerSample (s : State) : Out := .next { s with migs := s.migs ++ balancerPairs s }
/-- MIGRATION: the oldest command arrives. -/
def execMigration (s : State) : Out :=
  match s.migs with
  | (a, b, n) :: rest => .next (migrate { s with migs := rest } a b n)
  | [] => .next s

end Sys2Proof.Machine
end

