-- ==== Sys2Proof/Machine/Scalar.lean ====
section
/-!
DEFINITION. Scalar.lean: NOP and PFX, integer and FP64 scalar instructions, predicates, control registers (R185 to R194).
-/
namespace Sys2Proof.Machine

/-- NOP does nothing (R180). -/
def execNop (s : State) : Out := .next s

/-- PFX sets the scope, the surrendered slots and the lane masks of its bundle, which `Ctx` carries to each slot (R176 to
R178); it has no effect of its own. -/
def execPfx (_o : OpPfx) (s : State) : Out := .next s

/-! ## Integer arithmetic and logic (R185, R186) -/

/-- A guarded integer result of latency 1 (R186). -/
def intRes (g : Guard) (d : Dst) (x : Word) (s : State) : Out := .next (if guardOn s g then s.deliverS d x 1 .bs else s)

/-- A guarded integer operation on opnd(A) and opnd(B). -/
def int2 (f : Word → Word → Word) (o : OpS2) (s : State) : Out := intRes o.g o.d (f (srcS s o.a) (opndS s o.b)) s

def addsW (a b : Word) : Word := BitVec.ofInt 64 (satI (a.toInt + b.toInt) (-2 ^ 63) (2 ^ 63 - 1))
def mulhW (a b : Word) : Word := BitVec.ofInt 64 (a.toInt * b.toInt / 2 ^ 64)
def mulhuW (a b : Word) : Word := BitVec.ofNat 64 (a.toNat * b.toNat / 2 ^ 64)
def minW (a b : Word) : Word := if b.slt a then b else a
def maxW (a b : Word) : Word := if a.slt b then b else a
def minuW (a b : Word) : Word := if b.ult a then b else a
def maxuW (a b : Word) : Word := if a.ult b then b else a
/-- A shift count, bits [5:0] of b. -/
def cnt (b : Word) : Nat := b.toNat % 64

def execAdd (o : OpS2) (s : State) : Out := int2 (· + ·) o s
def execSub (o : OpS2) (s : State) : Out := int2 (· - ·) o s
def execAdds (o : OpS2) (s : State) : Out := int2 addsW o s
def execMul (o : OpS2) (s : State) : Out := int2 (· * ·) o s
def execMulh (o : OpS2) (s : State) : Out := int2 mulhW o s
def execMulhu (o : OpS2) (s : State) : Out := int2 mulhuW o s
def execMin (o : OpS2) (s : State) : Out := int2 minW o s
def execMax (o : OpS2) (s : State) : Out := int2 maxW o s
def execMinu (o : OpS2) (s : State) : Out := int2 minuW o s
def execMaxu (o : OpS2) (s : State) : Out := int2 maxuW o s
def execAnd (o : OpS2) (s : State) : Out := int2 (· &&& ·) o s
def execOr (o : OpS2) (s : State) : Out := int2 (· ||| ·) o s
def execXor (o : OpS2) (s : State) : Out := int2 (· ^^^ ·) o s
def execAndn (o : OpS2) (s : State) : Out := int2 (fun a b => a &&& ~~~b) o s
def execShl (o : OpS2) (s : State) : Out := int2 (fun a b => a <<< cnt b) o s
def execShr (o : OpS2) (s : State) : Out := int2 (fun a b => a >>> cnt b) o s
def execSar (o : OpS2) (s : State) : Out := int2 (fun a b => a.sshiftRight (cnt b)) o s
def execRot (o : OpS2) (s : State) : Out := int2 (fun a b => a.rotateLeft (cnt b)) o s
def execClz (o : OpS1) (s : State) : Out := intRes o.g o.d (BitVec.ofNat 64 (clzN (srcS s o.a).toNat 64)) s
def execPopc (o : OpS1) (s : State) : Out := intRes o.g o.d (BitVec.ofNat 64 (popcN (srcS s o.a).toNat 64)) s
def execBrev (o : OpS1) (s : State) : Out := intRes o.g o.d (srcS s o.a).reverse s
def execMovi (o : OpMovi) (s : State) : Out := intRes o.g o.d (opndS s o.b) s

/-! ## Compare, select, predicates (R187 to R190) -/

/-- a cc b. -/
def cmpW (cc : CmpC) (a b : Word) : Bool :=
  match cc with
  | .eq => a == b
  | .ne => a != b
  | .lt => a.slt b
  | .le => a.sle b
  | .gt => b.slt a
  | .ge => b.sle a
  | .ltu => a.ult b
  | .leu => a.ule b
  | .gtu => b.ult a
  | .geu => b.ule a

def execCmp (o : OpCmp) (s : State) : Out := .next (s.deliverP o.d (cmpW o.cc (srcS s o.a) (opndS s o.b)) 1)

/-- SEL: the guard field names the selecting predicate and its inversion (R188). -/
def execSel (o : OpS2) (s : State) : Out :=
  .next (s.deliverS o.d (if guardOn s o.g then srcS s o.a else opndS s o.b) 1 .bs)

def predRes (g : Guard) (d : BitVec 3) (x : Bool) (s : State) : Out := .next (if guardOn s g then s.deliverP d x 1 else s)

def execPand (o : OpP2) (s : State) : Out := predRes o.g o.d (pReg s.sl o.a && pReg s.sl o.b) s
def execPor (o : OpP2) (s : State) : Out := predRes o.g o.d (pReg s.sl o.a || pReg s.sl o.b) s
def execPxor (o : OpP2) (s : State) : Out := predRes o.g o.d (pReg s.sl o.a != pReg s.sl o.b) s
def execPnot (o : OpP1) (s : State) : Out := predRes o.g o.d (!pReg s.sl o.a) s

/-! ## Scalar FP64 (R191 to R193) -/

/-- One rounding of an exact value to FP64, its causes recorded, its result due after 4 cycles. -/
def f64Res (d : Dst) (rm : Rnd) (v : FV × Cause) (s : State) : Out :=
  let (c, k) := encodeF .f64 rm v.1
  .next ((s.deliverS d (BitVec.ofNat 64 c) 4 .bs).sticky [v.2, k])

def sfA (o : OpSf) (s : State) : FV := decodeF .f64 (srcSF s .f64 o.rm o.a)
def sfB (o : OpSf) (s : State) : FV := decodeF .f64 (opndSF s .f64 o.rm o.b)

def execSfadd (o : OpSf) (s : State) : Out := f64Res o.d o.rm (addFV o.rm (sfA o s) (sfB o s)) s
def execSfmul (o : OpSf) (s : State) : Out := f64Res o.d o.rm (mulFV (sfA o s) (sfB o s)) s
def execSfma (o : OpSf) (s : State) : Out :=
  f64Res o.d o.rm (fmaFV o.rm (sfA o s) (sfB o s) (fv64 (sReg s.sl o.d.r))) s

/-- The conditions of SFCMP (R192). -/
def fcmpW (cc : FcmpC) (r : Option Ordering) : Bool :=
  match cc with
  | .eq => r == some .eq
  | .ne => r != some .eq
  | .lt => r == some .lt
  | .le => r == some .lt || r == some .eq
  | .gt => r == some .gt
  | .ge => r == some .gt || r == some .eq
  | .un => r.isNone
  | .ord => r.isSome

def execSfcmp (o : OpFcmp) (s : State) : Out :=
  let a := decodeF .f64 (srcSF s .f64 .rne o.a)
  let b := decodeF .f64 (opndSF s .f64 .rne o.b)
  .next (s.deliverP o.d (fcmpW o.cc (cmpFV a b)) 4)

/-- The six conversions (R193): the result and its cause. -/
def sfcvtW (m : SfConv) (rm : Rnd) (a : Src) (s : State) : Word × Cause :=
  match m with
  | .f64ToI64 =>
    let (x, k) := toIntF rm (-2 ^ 63) (2 ^ 63 - 1) (decodeF .f64 (srcSF s .f64 rm a))
    (BitVec.ofInt 64 x, k)
  | .i64ToF64 => let (c, k) := encodeF .f64 rm (ofInt (srcS s a).toInt); (BitVec.ofNat 64 c, k)
  | .f64ToU64 =>
    let (x, k) := toIntF rm 0 (2 ^ 64 - 1) (decodeF .f64 (srcSF s .f64 rm a))
    (BitVec.ofInt 64 x, k)
  | .u64ToF64 => let (c, k) := encodeF .f64 rm (ofInt (srcS s a).toNat); (BitVec.ofNat 64 c, k)
  | .f64ToF32 => let (c, k) := encodeF .f32 rm (decodeF .f64 (srcSF s .f64 rm a)); (BitVec.ofNat 64 c, k)
  | .f32ToF64 => let (c, k) := encodeF .f64 .rne (decodeF .f32 (srcSF s .f32 rm a)); (BitVec.ofNat 64 c, k)

def execSfcvt (o : OpSfcvt) (s : State) : Out :=
  let (x, k) := sfcvtW o.m o.rm o.a s
  .next ((s.deliverS o.d x 4 .bs).sticky [k])

/-! ## Control registers (R76, R194) -/

/-- The register as its bundle reads it; one that MFC does not read gives zero. -/
def cregRead (s : State) (x : CReg) : Word :=
  let k := s.me
  match x with
  | .status => statusWord k s.sl
  | .cycle => k.cycle
  | .mpc => s.sl.mpc
  | .wp0 => (vget s.sl.wp 0 0).setWidth 64
  | .wp1 => (vget s.sl.wp 1 0).setWidth 64
  | .wp2 => (vget s.sl.wp 2 0).setWidth 64
  | .wp3 => (vget s.sl.wp 3 0).setWidth 64
  | .tvec | .tfbase | .ayctl => 0
  | .tcause => k.tcause.setWidth 64
  | .tepc => k.tepc
  | .tval => k.tval
  | .tscr => k.tscr

/-- Indices 0x10 and above (R194). -/
def cregSup (x : CReg) : Bool := decide (0x10 ≤ x.code.toNat)

def execMfc (o : OpMfc) (s : State) : Out :=
  if cregSup o.x && !s.sl.sup then .next s.privilege else .next (s.deliverS o.d (cregRead s o.x) 1 .bs)

/-- MPC keeps bits [1:0] and [63:52] at zero (R78). -/
def mpcMask (x : Word) : Word := x &&& 0x000FFFFFFFFFFFFC

/-- MTC's write; CYCLE, which this cycle's count will step, ends the cycle at the value written. -/
def cregWrite (s : State) (x : CReg) (v : Word) : State :=
  match x with
  | .status | .wp0 | .wp1 | .wp2 | .wp3 | .tcause | .tval => s
  | .cycle => s.modMe fun k => { k with cycle := v - 1 }
  | .mpc => s.modSl fun sl => { sl with mpc := mpcMask v }
  | .tvec => s.modMe fun k => { k with tvec := v }
  | .tfbase => s.modMe fun k => { k with tfbase := v }
  | .tepc => s.modMe fun k => { k with tepc := v }
  | .tscr => s.modMe fun k => { k with tscr := v }
  | .ayctl => s.modMe fun k => { k with ayctl := v &&& 1 }

def execMtc (o : OpMtc) (s : State) : Out :=
  if (cregSup o.x || o.x == .cycle) && !s.sl.sup then .next s.privilege else .next (cregWrite s o.x (opndS s o.b))

def execRdwid (o : OpXpop) (s : State) : Out := .next (s.deliverS o.d s.sl.wid 1 .bs)

end Sys2Proof.Machine
end

