-- ==== Sys2Proof/Machine/Vector.lean ====
section
/-!
DEFINITION. Vector.lean: the vector pipes (R210 to R224): elementwise arithmetic, compares, logic, shifts, masks,
conversions, movers, reductions, scans and selection.
-/
namespace Sys2Proof.Machine

/-! ## Lanes (R210, R211) -/

/-- The lanes of a row. -/
def lanes (w : Nat) (r : Row) : List Nat := (List.range (2048 / w)).map fun i => laneN r i w

/-- Causes of one lane, the lowest code first (R210). -/
def sortCauses (l : List Cause) : List Cause := [1, 2, 3, 4, 5, 6].filter fun c => l.contains c

/-- Causes of the active lanes in lane order. -/
def laneCauses (m : LaneMask) (w : Nat) (l : List (List Cause)) : List Cause :=
  l.zipIdx.foldl (fun acc e => if active m w e.2 then acc ++ sortCauses e.1 else acc) []

/-- A row result with the causes of its lanes, under the PFX mask. -/
def vecRes (d : Dst) (w lat : Nat) (l : List (Nat × List Cause)) (s : State) : Out :=
  .next ((s.deliverV d (rowOf w (l.map Prod.fst)) (laneMaskOf s.ctx.mask w) lat .bv).sticky
    (laneCauses s.ctx.mask w (l.map Prod.snd)))

/-- A row result that raises nothing. -/
def rowRes (d : Dst) (w : Nat) (r : Row) (s : State) : Out :=
  .next (s.deliverV d r (laneMaskOf s.ctx.mask w) 2 .bv)

/-- The integer that a lane holds, signed or unsigned. -/
def laneInt (uns : Bool) (w x : Nat) : Int := if uns then (x % 2 ^ w : Nat) else sextN x w
def loOf (uns : Bool) (w : Nat) : Int := if uns then 0 else -(2 ^ (w - 1) : Nat)
def hiOf (uns : Bool) (w : Nat) : Int := if uns then (2 ^ w : Nat) - 1 else (2 ^ (w - 1) : Nat) - 1

/-! ## Elementwise arithmetic (R212, R213) -/

/-- A floating lane: an exact value of x, y and z, rounded once. -/
def fltLane (f : FF) (rm : Rnd) (op : FV → FV → FV → FV × Cause) (x y z : Nat) : Nat × List Cause :=
  let (v, k) := op (decodeF f x) (decodeF f y) (decodeF f z)
  let (c, k2) := encodeF f rm v
  (c, [k, k2])

/-- The elementwise instructions: floating lanes by `fop`, integer lanes by `iop`. -/
def vec3 (fop : Rnd → FV → FV → FV → FV × Cause) (iop : Bool → Nat → Int → Int → Int) (o : OpV3) (s : State) : Out :=
  let w := o.t.width
  let rm := vRnd o.m
  let a := lanes w (srcVT s o.t rm o.a)
  let b := lanes w (opndVT s o.t rm o.b)
  if o.t.isFloat then
    let z := lanes w (vReg s.sl o.d.r)
    vecRes o.d w 4 ((a.zip (b.zip z)).map fun e => fltLane (laneFF o.t) rm (fop rm) e.1 e.2.1 e.2.2) s
  else
    let u := o.m == 1
    vecRes o.d w 2 ((a.zip b).map fun e => (wrapN (iop u w (laneInt u w e.1) (laneInt u w e.2)) w, [])) s

def noF (_ : Rnd) (_ _ _ : FV) : FV × Cause := (.nan, 0)
def noI (_ : Bool) (_ : Nat) (_ _ : Int) : Int := 0

def execVadd (o : OpV3) (s : State) : Out := vec3 (fun rm x y _ => addFV rm x y) (fun _ _ a b => a + b) o s
def execVsub (o : OpV3) (s : State) : Out := vec3 (fun rm x y _ => addFV rm x y.neg) (fun _ _ a b => a - b) o s
def execVmul (o : OpV3) (s : State) : Out := vec3 (fun _ x y _ => mulFV x y) (fun _ _ a b => a * b) o s
def execVfma (o : OpV3) (s : State) : Out := vec3 (fun rm x y z => fmaFV rm x y z) noI o s
def execVfms (o : OpV3) (s : State) : Out := vec3 (fun rm x y z => fmaFV rm x y z.neg) noI o s
def execVmin (o : OpV3) (s : State) : Out := vec3 (fun _ x y _ => (minFV x y, 0)) (fun _ _ a b => min a b) o s
def execVmax (o : OpV3) (s : State) : Out := vec3 (fun _ x y _ => (maxFV x y, 0)) (fun _ _ a b => max a b) o s
def execVadds (o : OpV3) (s : State) : Out := vec3 noF (fun u w a b => satI (a + b) (loOf u w) (hiOf u w)) o s
def execVsubs (o : OpV3) (s : State) : Out := vec3 noF (fun u w a b => satI (a - b) (loOf u w) (hiOf u w)) o s
def execVmulh (o : OpV3) (s : State) : Out := vec3 noF (fun _ w a b => a * b / (2 ^ w : Nat)) o s

/-- VABS and VNEG change the sign bit only, and turn a NaN into the canonical one. -/
def vec1 (sign : FF → Nat → Nat) (iop : Bool → Int → Int) (o : OpV2) (s : State) : Out :=
  let w := o.t.width
  let a := lanes w (srcVT s o.t (vRnd o.m) o.a)
  let f := laneFF o.t
  let u := o.m == 1
  vecRes o.d w 2 (a.map fun x =>
    (if o.t.isFloat then (if (decodeF f x).isNaN then f.nanCode else sign f x) else wrapN (iop u (laneInt u w x)) w, [])) s

def execVabs (o : OpV2) (s : State) : Out := vec1 (fun f x => x % f.signBit) (fun u a => if u then a else a.natAbs) o s
def execVneg (o : OpV2) (s : State) : Out := vec1 (fun f x => x ^^^ f.signBit) (fun _ a => -a) o s

/-! ## Compare, select, logic and shifts (R214 to R216) -/

def vcmpInt (cc : VcmpC) (w x y : Nat) : Bool :=
  let a := sextN x w
  let b := sextN y w
  match cc with
  | .eq => a == b
  | .ne => a != b
  | .lt => decide (a < b)
  | .le => decide (a ≤ b)
  | .gt => decide (b < a)
  | .ge => decide (b ≤ a)
  | .ltu => decide (x < y)
  | .geu => decide (y ≤ x)

def vcmpFlt (cc : VcmpC) (r : Option Ordering) : Bool :=
  match cc with
  | .eq => r == some .eq
  | .ne => r != some .eq
  | .lt | .ltu => r == some .lt
  | .le => r == some .lt || r == some .eq
  | .gt => r == some .gt
  | .ge | .geu => r == some .gt || r == some .eq

/-- A lane mask in which the active lanes of width `w` take `bs`, and the others keep `old`. -/
def putMask (m : LaneMask) (w : Nat) (bs : List Bool) (old : LaneMask) : LaneMask :=
  let k := w / 16
  bs.zipIdx.foldl (fun acc e =>
    if active m w e.2 then
      let f : LaneMask := BitVec.ofNat 128 ((2 ^ k - 1) <<< (k * e.2))
      if e.1 then acc ||| f else acc &&& ~~~f
    else acc) old

def execVcmp (o : OpVcmp) (s : State) : Out :=
  let w := o.t.width
  let a := lanes w (srcVT s o.t .rne o.a)
  let b := lanes w (opndVT s o.t .rne o.b)
  let f := laneFF o.t
  let bs := (a.zip b).map fun e =>
    if o.t.isFloat then vcmpFlt o.cc (cmpFV (decodeF f e.1) (decodeF f e.2)) else vcmpInt o.cc w e.1 e.2
  .next (s.deliverM o.d (putMask s.ctx.mask w bs (mReg s.sl o.d)) 2)

def vlogic (f : Row → Row → Row) (o : OpVl) (s : State) : Out := rowRes o.d 16 (f (srcV s 64 o.a) (opndV s 64 o.b)) s

def execVand (o : OpVl) (s : State) : Out := vlogic (· &&& ·) o s
def execVor (o : OpVl) (s : State) : Out := vlogic (· ||| ·) o s
def execVxor (o : OpVl) (s : State) : Out := vlogic (· ^^^ ·) o s

def vshift (f : Nat → Nat → Nat → Nat) (o : OpVt2) (s : State) : Out :=
  let w := o.t.width
  let a := lanes w (srcV s w o.a)
  let b := lanes w (opndV s w o.b)
  rowRes o.d w (rowOf w ((a.zip b).map fun e => f w e.1 (e.2 % w))) s

def execVshl (o : OpVt2) (s : State) : Out := vshift (fun _ a k => a <<< k) o s
def execVshr (o : OpVt2) (s : State) : Out := vshift (fun _ a k => a >>> k) o s
def execVsar (o : OpVt2) (s : State) : Out := vshift (fun w a k => wrapN (sextN a w / (2 ^ k : Nat)) w) o s

/-- VSEL: 16-bit positions of mS choose between A and B. -/
def execVsel (o : OpVsel) (s : State) : Out :=
  .next (s.deliverV o.d (mergeRow (mReg s.sl o.s) (srcV s 64 o.a) (opndV s 64 o.b)) (BitVec.allOnes 128) 2 .bv)

/-! ## Masks (R217) -/

def execMand (o : OpM2) (s : State) : Out := .next (s.deliverM o.d (mReg s.sl o.a &&& mReg s.sl o.b) 1)
def execMor (o : OpM2) (s : State) : Out := .next (s.deliverM o.d (mReg s.sl o.a ||| mReg s.sl o.b) 1)
def execMnot (o : OpM1) (s : State) : Out := .next (s.deliverM o.d (~~~ mReg s.sl o.a) 1)
def execMpop (o : OpMpop) (s : State) : Out :=
  .next (s.deliverS o.d (BitVec.ofNat 64 (popcN (mReg s.sl o.a).toNat 128)) 1 .bv)
def execMfirst (o : OpM1) (s : State) : Out :=
  let m := mReg s.sl o.a
  .next (s.deliverM o.d (m &&& (0 - m)) 1)

/-! ## Conversions (R218 to R220) -/

/-- One lane of VCVT. -/
def cvtLane (rm : Rnd) (st tt : LaneT) (tu su : Bool) (x : Nat) : Nat × List Cause :=
  let wt := tt.width
  if st.isFloat then
    let v := decodeF (laneFF st) x
    if tt.isFloat then let (c, k) := encodeF (laneFF tt) rm v; (c, [k])
    else let (y, k) := toIntF rm (loOf tu wt) (hiOf tu wt) v; (wrapN y wt, [k])
  else
    let a := laneInt su st.width x
    if tt.isFloat then let (c, k) := encodeF (laneFF tt) rm (ofInt a); (c, [k])
    else if st.width < wt then (wrapN a wt, [])
    else
      let y := satI a (loOf tu wt) (hiOf tu wt)
      (wrapN y wt, if y = a then [] else [cOF])

def execVcvt (o : OpVcvt) (s : State) : Out :=
  let a := (lanes o.st.width (srcVT s o.st o.rm o.a)).take (2048 / o.tt.width)
  let l := a.map (cvtLane o.rm o.st o.tt o.tu o.su)
  vecRes o.d o.tt.width 4 (l ++ List.replicate (2048 / o.tt.width - l.length) (0, [])) s

/-- The values of source lanes; integer lanes are signed. -/
def laneVals (t : LaneT) (r : Row) : List FV :=
  (lanes t.width r).map fun x => if t.isFloat then decodeF (laneFF t) x else ofInt (sextN x t.width)

def execVpack (o : OpVpack) (s : State) : Out :=
  let w := o.f.width
  let l := packLanes o.f.code.toNat o.rm (laneVals o.st (srcVT s o.st o.rm o.a))
  vecRes o.d w 4 (l ++ List.replicate (2048 / w - l.length) (0, [])) s

/-- A source of VUNPK: a special source stands in each lane in the narrow format that the lanes are read in, an integer
format's as R174 states for integer operations, another's converted under RNE (R174; EN4: log 91). -/
def srcNarrow (s : State) (f : Fmt) (x : Src) : Row :=
  if f.smallInt then srcV s f.width x
  else
    let enc (vs : List FV) : Row := rowOf f.width (packRun f.code.toNat .rne vs).1
    match x, specialFV s x with
    | .lane, _ => enc ((List.range (2048 / f.width)).map fun i => ofInt i)
    | _, some v => enc (List.replicate (2048 / f.width) v)
    | _, none => srcV s f.width x

def execVunpk (o : OpVunpk) (s : State) : Out :=
  let w := o.tt.width
  let n := 2048 / w
  let l := unpackLanes o.f.code.toNat 0 (lanes o.f.width (srcNarrow s o.f o.a))
  let f := laneFF o.tt
  vecRes o.d w 4 (((l.drop (o.k.toNat * n)).take n).map fun e =>
    if o.tt.isFloat then let (c, k) := encodeF f .rne e.1; (c, [e.2, k])
    else let (y, k) := toIntF .rne (loOf false w) (hiOf false w) e.1; (wrapN y w, [e.2, k])) s

/-! ## Data movement (R221) -/

def execVbcast (o : OpVt1) (s : State) : Out := rowRes o.d o.t.width (repRow o.t.width (srcLane s o.t o.a)) s

/-- A lane as a scalar: integer types sign-extended, encodings zero-extended. -/
def laneWord (t : LaneT) (x : Nat) : Word := if t.isFloat then BitVec.ofNat 64 x else BitVec.ofInt 64 (sextN x t.width)

def execVext (o : OpVt2) (s : State) : Out :=
  let w := o.t.width
  .next (s.deliverS o.d (laneWord o.t (laneN (srcVT s o.t .rne o.a) ((opndS s o.b).toNat % (2048 / w)) w)) 2 .bv)

/-- The 16-bit positions of one lane. -/
def oneLane (w j : Nat) : LaneMask :=
  if w ≤ 16 then BitVec.ofNat 128 (1 <<< (w * j / 16)) else BitVec.ofNat 128 ((2 ^ (w / 16) - 1) <<< (w / 16 * j))

def execVlane (o : OpVt2) (s : State) : Out :=
  let w := o.t.width
  let j := (opndS s o.b).toNat % (2048 / w)
  let r := putLanes w (vReg s.sl o.d.r) [(j, srcLane s o.t o.a)]
  .next (s.deliverV o.d r (if active s.ctx.mask w j then oneLane w j else 0) 2 .bv)

def execVperm (o : OpVt2) (s : State) : Out :=
  let w := o.t.width
  let a := srcVT s o.t .rne o.a
  rowRes o.d w (rowOf w ((lanes w (opndV s w o.b)).map fun b => laneN a (b % (2048 / w)) w)) s

/-- VRM: 256 bytes from byte n of the 512 bytes of A then B, wrapping. -/
def execVrm (o : OpVrm) (s : State) : Out :=
  let n := (sReg s.sl o.n).toNat % 512
  let c := (srcV s 64 o.a).toNat + (opndV s 64 o.b).toNat <<< 2048
  .next (s.deliverV o.d (BitVec.ofNat 2048 (c >>> (8 * n) + c <<< (4096 - 8 * n))) (BitVec.allOnes 128) 2 .bv)

/-! ## Reductions, scans, selection (R222 to R224) -/

/-- One level of the fixed pairwise tree; none stands for ABSENT. -/
def treeLevel {α : Type} (f : α → α → α × List Cause) : List (Option α) → List (Option α) × List Cause
  | x :: y :: r =>
    let t := treeLevel f r
    match x, y with
    | none, y => (y :: t.1, t.2)
    | x, none => (x :: t.1, t.2)
    | some a, some b => let (v, k) := f a b; (some v :: t.1, k ++ t.2)
  | l => (l, [])

def tree {α : Type} (f : α → α → α × List Cause) : Nat → List (Option α) → Option α × List Cause
  | 0, l => ((l.head?).join, [])
  | n + 1, l =>
    let (t, k) := treeLevel f l
    let (v, k2) := tree f n t
    (v, k ++ k2)

/-- The lanes of a row, inactive ones absent. -/
def activeLanes (m : LaneMask) (w : Nat) (r : Row) : List (Option Nat) :=
  (lanes w r).zipIdx.map fun e => if active m w e.2 then some e.1 else none

def addCode (f : FF) (x y : Nat) : Nat × List Cause :=
  let (v, k) := addFV .rne (decodeF f x) (decodeF f y)
  let (c, k2) := encodeF f .rne v
  (c, [k, k2])

/-- The code that a lane alone gives: every NaN that a unit produces is canonical (R44, R54). -/
def loneCode (f : FF) (x : Nat) : Nat := if (decodeF f x).isNaN then f.nanCode else x

def sumInts (w : Nat) (l : List Nat) : Int := l.foldl (fun acc x => acc + sextN x w) 0

def execVreds (o : OpVt1) (s : State) : Out :=
  let w := o.t.width
  let l := activeLanes s.ctx.mask w (srcVT s o.t .rne o.a)
  let (v, k) : Word × List Cause :=
    if o.t.isFloat then
      let (v, k) := tree (addCode (laneFF o.t)) 8 l
      (BitVec.ofNat 64 (loneCode (laneFF o.t) (v.getD 0)), k)
    else (BitVec.ofInt 64 (satI (sumInts w (l.filterMap id)) (loOf false w) (hiOf false w)), [])
  .next ((s.deliverS o.d v 8 .bv).sticky k)

/-- VREDM: `pick` keeps the later of two lanes; `id0` is the identity. -/
def vredm (pickF : FV → FV → Bool) (pickI : Int → Int → Bool) (idF : FF → Nat) (idI : Nat → Int) (o : OpVt1) (s : State) :
    Out :=
  let w := o.t.width
  let l := (activeLanes s.ctx.mask w (srcVT s o.t .rne o.a)).filterMap id
  let f := laneFF o.t
  let (v, k) : Word × List Cause :=
    if o.t.isFloat then
      if l.any fun x => (decodeF f x).isNaN then (BitVec.ofNat 64 f.nanCode, [cNV])
      else (BitVec.ofNat 64 (l.foldl (fun b x => if pickF (decodeF f b) (decodeF f x) then x else b) (idF f)), [])
    else (BitVec.ofInt 64 (l.foldl (fun b x => if pickI b (sextN x w) then sextN x w else b) (idI w)), [])
  .next ((s.deliverS o.d v 8 .bv).sticky k)

def execVredmMax (o : OpVt1) (s : State) : Out :=
  vredm ltZ (fun b x => decide (b < x)) (fun f => f.signBit + f.infCode) (loOf false) o s
def execVredmMin (o : OpVt1) (s : State) : Out :=
  vredm (fun b x => ltZ x b) (fun b x => decide (x < b)) FF.infCode (hiOf false) o s

/-- Inclusive prefixes of floating lanes. -/
def scanF (f : FF) : Option Nat → List (Option Nat) → List (Nat × List Cause)
  | _, [] => []
  | p, none :: r => (0, []) :: scanF f p r
  | none, some x :: r => (loneCode f x, []) :: scanF f (some x) r
  | some p, some x :: r => let (c, k) := addCode f p x; (c, k) :: scanF f (some c) r

def scanI (w : Nat) : Int → List (Option Nat) → List (Nat × List Cause)
  | _, [] => []
  | p, none :: r => (0, []) :: scanI w p r
  | p, some x :: r =>
    let q := p + sextN x w
    (wrapN (satI q (loOf false w) (hiOf false w)) w, []) :: scanI w q r

def execVscan (o : OpVt1) (s : State) : Out :=
  let w := o.t.width
  let l := activeLanes s.ctx.mask w (srcVT s o.t .rne o.a)
  vecRes o.d w 8 (if o.t.isFloat then scanF (laneFF o.t) none l else scanI w 0 l) s

/-- The order of TOPK: NaN lowest, −0 below +0, integer lanes signed. -/
def topLt (t : LaneT) (x y : Nat) : Bool :=
  if t.isFloat then
    let a := decodeF (laneFF t) x
    let b := decodeF (laneFF t) y
    if a.isNaN then !b.isNaN else if b.isNaN then false else ltZ a b
  else decide (sextN x t.width < sextN y t.width)

/-- Inserts a candidate after every one it does not exceed, so that equal values keep their order of index. -/
def topIns (t : LaneT) (e : Nat × Nat) : List (Nat × Nat) → List (Nat × Nat)
  | [] => [e]
  | x :: r => if topLt t x.1 e.1 then e :: x :: r else x :: topIns t e r

def execTopk (o : OpVt2) (s : State) : Out :=
  let w := o.t.width
  let n := 2048 / w
  let k := (satI (opndS s o.b).toInt 0 n).toNat
  let l := ((lanes w (srcVT s o.t .rne o.a)).zipIdx.foldl (fun acc e => topIns o.t e acc) []).take k
  let low := if o.t.isFloat then (laneFF o.t).signBit + (laneFF o.t).infCode else 2 ^ (w - 1)
  let m := laneMaskOf s.ctx.mask w
  let s := s.deliverV o.d (rowOf w (l.map Prod.fst ++ List.replicate (n - k) low)) m 12 .bv
  .next (if o.d.n then s
    else s.deliverVN false (o.d.r + 1) (rowOf w (l.map Prod.snd ++ List.replicate (n - k) (2 ^ w - 1))) m 12)

end Sys2Proof.Machine
end

