-- ==== Sys2Proof/Machine/Special.lean ====
section
/-!
DEFINITION. Special.lean: the special-function unit, the transposer and the deferral queue (R225 to R233).
-/
namespace Sys2Proof.Machine

/-! ## The special-function unit (R225 to R229) -/

/-- Takes the unit for a slot of lane type `t`, or freezes while an earlier bundle occupies it. -/
def withSfu (t : LaneT) (s : State) (f : State → Out) : Out :=
  if !s.eff.sfu && s.me.sfu != 0 then .next (s.freezeAt 3 .sfu)
  else
    f { (s.modMe fun k => { k with sfu := k.sfu + (if t == .f32 then 4 else 8) }) with
      eff := { s.eff with sfu := true } }

def sfuLat (t : LaneT) : Nat := if t == .f32 then 8 else 12

def sfu1 (op : SfuOp) (o : OpVt1) (s : State) : Out :=
  withSfu o.t s (vecRes o.d o.t.width (sfuLat o.t)
    ((lanes o.t.width (srcVT s o.t .rne o.a)).map (sfuLane op (laneFF o.t))))

def execVexp2 (o : OpVt1) (s : State) : Out := sfu1 .exp2 o s
def execVlog2 (o : OpVt1) (s : State) : Out := sfu1 .log2 o s
def execVrcp (o : OpVt1) (s : State) : Out := sfu1 .rcp o s
def execVrsq (o : OpVt1) (s : State) : Out := sfu1 .rsq o s
def execVsig (o : OpVt1) (s : State) : Out := sfu1 .sig o s
def execVtanh (o : OpVt1) (s : State) : Out := sfu1 .tanh o s
def execVsilu (o : OpVt1) (s : State) : Out := sfu1 .silu o s
def execVgelu (o : OpVt1) (s : State) : Out := sfu1 .gelu o s

def execVexpd (o : OpVt2) (s : State) : Out :=
  let w := o.t.width
  let a := lanes w (srcVT s o.t .rne o.a)
  let b := lanes w (opndVT s o.t .rne o.b)
  withSfu o.t s (vecRes o.d w (sfuLat o.t) ((a.zip b).map fun e => expdLane (laneFF o.t) e.1 e.2))

/-! ## The transposer (R230, R231) -/

/-- Rows that fill a block, and rows that it gives. -/
def xIn (mode : BitVec 2) (fmt : Nat) : Nat :=
  match mode.toNat with
  | 0 => 64
  | 1 => 128
  | 2 => fmtWidth fmt + (if fmt = 9 then 1 else 0)
  | _ => planeP fmt
def xOut (mode : BitVec 2) (fmt : Nat) : Nat :=
  match mode.toNat with
  | 0 => 64
  | 1 => 128
  | 2 => planeP fmt
  | _ => fmtWidth fmt

def execXpush (o : OpXpush) (s : State) : Out :=
  let r := srcV s 64 o.a
  .next (s.modMe fun k =>
    let x := k.xpose
    let more := !x.pushed.isEmpty && x.mode == o.mode && x.fmt == o.f.code && x.popped == 0 &&
      decide (x.pushed.length < xIn o.mode o.f.code.toNat)
    { k with xpose := if more then { x with pushed := x.pushed ++ [r] } else ⟨o.mode, o.f.code, [r], 0⟩ })

/-- The code of element `e` of a pushed block (R230). -/
def xCode (wf : Nat) (rows : Array Row) (e : Nat) : Nat := laneN (rows.getD (e * wf / 2048) 0) (e % (2048 / wf)) wf

/-- Output row k of a block, and the causes of its decoding. -/
def xRow (x : Xpose) (k : Nat) : Row × List Cause :=
  let rows := x.pushed.toArray
  let fmt := x.fmt.toNat
  let wf := fmtWidth fmt
  match x.mode.toNat with
  | 0 => (rowOf 32 ((List.range 64).map fun i => laneN (rows.getD i 0) k 32), [])
  | 1 => (rowOf 16 ((List.range 128).map fun i => laneN (rows.getD i 0) k 16), [])
  | 2 =>
    let xv := (rows.getD wf 0).toNat % 65536
    let vs := (List.range wf).foldl (fun acc i => acc ++ unpackLanes fmt xv (lanes wf (rows.getD i 0))) []
    (BitVec.ofNat 2048 (vs.zipIdx.foldl (fun acc e => if (toPlanes fmt e.1.1 (xCode wf rows e.2)).getD k false then acc + 2 ^ e.2 else acc) 0),
     vs.map Prod.snd)
  | _ =>
    let n := 2048 / wf
    let l := (List.range (planeP fmt)).map fun i => rows.getD i 0
    (rowOf wf ((List.range n).map fun i => (eltCode fmt .rne (fromPlanes fmt (fmtM fmt) (planeBits l (n * k + i)))).1), [])

def execXpop (o : OpXpop) (s : State) : Out :=
  let x := s.me.xpose
  if x.pushed.isEmpty then .next (s.deliverV o.d 0 (BitVec.allOnes 128) 5 .bx)
  else
    let (r, ks) := xRow x x.popped
    let x' : Xpose := if x.popped + 1 = xOut x.mode x.fmt.toNat then ⟨0, 0, [], 0⟩ else { x with popped := x.popped + 1 }
    .next (((s.modMe fun k => { k with xpose := x' }).deliverV o.d r (BitVec.allOnes 128) 5 .bx).sticky ks)

/-! ## Deferral (R232, R233) -/

/-- Lanes of 32 bits that a mask makes active. -/
def deferLanes (m : LaneMask) : List Nat := (List.range 64).filter fun i => active m 32 i

def execDefer (o : OpDefer) (s : State) : Out :=
  let sl := s.sl
  let q := sl.dq
  let ls := deferLanes (mReg sl o.m)
  let tag := (opndS s o.b).setWidth 8
  let es : List Defd := ls.map fun i =>
    ⟨tag, BitVec.ofNat 32 (64 * q.toNat + i),
     (List.range (o.k.toNat + 1)).map fun r => BitVec.ofNat 32 (laneN (vReg sl (o.a + BitVec.ofNat 5 r)) i 32)⟩
  let s := s.modSl fun sl => { sl with dq := sl.dq + 1 }
  if 1024 < s.me.deferred.length + es.length then .next ((s.modMe fun k => countEvt k 11 1).deliverP o.d true 2)
  else .next ((s.modMe fun k => { k with deferred := k.deferred ++ es }).deliverP o.d false 2)

/-- Takes the first `n` entries of a tag; the rest keep their order. -/
def takeTag (tag : BitVec 8) : Nat → List Defd → List Defd × List Defd
  | _, [] => ([], [])
  | 0, l => ([], l)
  | n + 1, e :: r =>
    if e.tag = tag then let (a, b) := takeTag tag n r; (e :: a, b)
    else let (a, b) := takeTag tag (n + 1) r; (a, e :: b)

def execDrain (o : OpDrain) (s : State) : Out :=
  let tag := (srcS s o.a).setWidth 8
  let (es, rest) := takeTag tag 64 s.me.deferred
  let s := s.modMe fun k => { k with deferred := rest }
  let val (r : Nat) : Row := rowOf 32 (es.map fun e => (e.vals.getD r 0).toNat)
  let ids : Row := rowOf 32 (es.map (fun e => e.id.toNat) ++ List.replicate (64 - es.length) 0xFFFFFFFF)
  let n := o.k.toNat + 1
  let all := BitVec.allOnes 128
  let s := s.deliverV o.d (val 0) all 4 .bv
  if o.d.n then .next s
  else
    let s := (List.range (n - 1)).foldl (fun s r => s.deliverVN false (o.d.r + BitVec.ofNat 5 (r + 1)) (val (r + 1)) all 4) s
    .next (s.deliverVN false (o.d.r + BitVec.ofNat 5 n) ids all 4)

end Sys2Proof.Machine
end

