-- ==== Sys2Proof/Machine/Dispatch.lean ====
section
/-!
DEFINITION. Dispatch.lean: the meaning of every instruction, one arm a constructor.
-/
namespace Sys2Proof.Machine

/-- What an instruction does: a slot of a bundle acts on the running slot of core `s.cur` with the operands of `s.ctx`; a
happening acts on the module. -/
def exec (i : Instr) (s : State) : Host.Outcome State Fault Refusal :=
  match i with
  | .nop => Sys2Proof.Machine.execNop s
  | .pfx o => Sys2Proof.Machine.execPfx o s
  | .add o => Sys2Proof.Machine.execAdd o s
  | .sub o => Sys2Proof.Machine.execSub o s
  | .adds o => Sys2Proof.Machine.execAdds o s
  | .mul o => Sys2Proof.Machine.execMul o s
  | .mulh o => Sys2Proof.Machine.execMulh o s
  | .mulhu o => Sys2Proof.Machine.execMulhu o s
  | .min o => Sys2Proof.Machine.execMin o s
  | .max o => Sys2Proof.Machine.execMax o s
  | .minu o => Sys2Proof.Machine.execMinu o s
  | .maxu o => Sys2Proof.Machine.execMaxu o s
  | .and o => Sys2Proof.Machine.execAnd o s
  | .or o => Sys2Proof.Machine.execOr o s
  | .xor o => Sys2Proof.Machine.execXor o s
  | .andn o => Sys2Proof.Machine.execAndn o s
  | .shl o => Sys2Proof.Machine.execShl o s
  | .shr o => Sys2Proof.Machine.execShr o s
  | .sar o => Sys2Proof.Machine.execSar o s
  | .rot o => Sys2Proof.Machine.execRot o s
  | .clz o => Sys2Proof.Machine.execClz o s
  | .popc o => Sys2Proof.Machine.execPopc o s
  | .brev o => Sys2Proof.Machine.execBrev o s
  | .movi o => Sys2Proof.Machine.execMovi o s
  | .cmp o => Sys2Proof.Machine.execCmp o s
  | .sel o => Sys2Proof.Machine.execSel o s
  | .pand o => Sys2Proof.Machine.execPand o s
  | .por o => Sys2Proof.Machine.execPor o s
  | .pxor o => Sys2Proof.Machine.execPxor o s
  | .pnot o => Sys2Proof.Machine.execPnot o s
  | .sfadd o => Sys2Proof.Machine.execSfadd o s
  | .sfmul o => Sys2Proof.Machine.execSfmul o s
  | .sfma o => Sys2Proof.Machine.execSfma o s
  | .sfcmp o => Sys2Proof.Machine.execSfcmp o s
  | .sfcvt o => Sys2Proof.Machine.execSfcvt o s
  | .mfc o => Sys2Proof.Machine.execMfc o s
  | .mtc o => Sys2Proof.Machine.execMtc o s
  | .rdwid o => Sys2Proof.Machine.execRdwid o s
  | .br o => Sys2Proof.Machine.execBr o s
  | .brc o => Sys2Proof.Machine.execBrc o s
  | .call o => Sys2Proof.Machine.execCall o s
  | .jmpr o => Sys2Proof.Machine.execJmpr o s
  | .ret o => Sys2Proof.Machine.execRet o s
  | .loop o => Sys2Proof.Machine.execLoop o s
  | .mloop o => Sys2Proof.Machine.execMloop o s
  | .lbrk g => Sys2Proof.Machine.execLbrk g s
  | .ppt => Sys2Proof.Machine.execPpt s
  | .ckpt => Sys2Proof.Machine.execCkpt s
  | .rdz id => Sys2Proof.Machine.execRdz id s
  | .vadd o => Sys2Proof.Machine.execVadd o s
  | .vsub o => Sys2Proof.Machine.execVsub o s
  | .vmul o => Sys2Proof.Machine.execVmul o s
  | .vfma o => Sys2Proof.Machine.execVfma o s
  | .vfms o => Sys2Proof.Machine.execVfms o s
  | .vmin o => Sys2Proof.Machine.execVmin o s
  | .vmax o => Sys2Proof.Machine.execVmax o s
  | .vadds o => Sys2Proof.Machine.execVadds o s
  | .vsubs o => Sys2Proof.Machine.execVsubs o s
  | .vmulh o => Sys2Proof.Machine.execVmulh o s
  | .vabs o => Sys2Proof.Machine.execVabs o s
  | .vneg o => Sys2Proof.Machine.execVneg o s
  | .vcmp o => Sys2Proof.Machine.execVcmp o s
  | .vand o => Sys2Proof.Machine.execVand o s
  | .vor o => Sys2Proof.Machine.execVor o s
  | .vxor o => Sys2Proof.Machine.execVxor o s
  | .vshl o => Sys2Proof.Machine.execVshl o s
  | .vshr o => Sys2Proof.Machine.execVshr o s
  | .vsar o => Sys2Proof.Machine.execVsar o s
  | .vsel o => Sys2Proof.Machine.execVsel o s
  | .vcvt o => Sys2Proof.Machine.execVcvt o s
  | .vpack o => Sys2Proof.Machine.execVpack o s
  | .vunpk o => Sys2Proof.Machine.execVunpk o s
  | .vbcast o => Sys2Proof.Machine.execVbcast o s
  | .vext o => Sys2Proof.Machine.execVext o s
  | .vlane o => Sys2Proof.Machine.execVlane o s
  | .vperm o => Sys2Proof.Machine.execVperm o s
  | .vrm o => Sys2Proof.Machine.execVrm o s
  | .vreds o => Sys2Proof.Machine.execVreds o s
  | .vredmMax o => Sys2Proof.Machine.execVredmMax o s
  | .vredmMin o => Sys2Proof.Machine.execVredmMin o s
  | .vscan o => Sys2Proof.Machine.execVscan o s
  | .topk o => Sys2Proof.Machine.execTopk o s
  | .vexp2 o => Sys2Proof.Machine.execVexp2 o s
  | .vlog2 o => Sys2Proof.Machine.execVlog2 o s
  | .vrcp o => Sys2Proof.Machine.execVrcp o s
  | .vrsq o => Sys2Proof.Machine.execVrsq o s
  | .vsig o => Sys2Proof.Machine.execVsig o s
  | .vtanh o => Sys2Proof.Machine.execVtanh o s
  | .vsilu o => Sys2Proof.Machine.execVsilu o s
  | .vgelu o => Sys2Proof.Machine.execVgelu o s
  | .vexpd o => Sys2Proof.Machine.execVexpd o s
  | .mand o => Sys2Proof.Machine.execMand o s
  | .mor o => Sys2Proof.Machine.execMor o s
  | .mnot o => Sys2Proof.Machine.execMnot o s
  | .mpop o => Sys2Proof.Machine.execMpop o s
  | .mfirst o => Sys2Proof.Machine.execMfirst o s
  | .xpush o => Sys2Proof.Machine.execXpush o s
  | .xpop o => Sys2Proof.Machine.execXpop o s
  | .defer o => Sys2Proof.Machine.execDefer o s
  | .drain o => Sys2Proof.Machine.execDrain o s
  | .mma o => Sys2Proof.Machine.execMma o s
  | .mmas o => Sys2Proof.Machine.execMmas o s
  | .mmat o => Sys2Proof.Machine.execMmat o s
  | .mpcset o => Sys2Proof.Machine.execMpcset o s
  | .aclr o => Sys2Proof.Machine.execAclr o s
  | .accld o => Sys2Proof.Machine.execAccld o s
  | .accst o => Sys2Proof.Machine.execAccst o s
  | .kat o => Sys2Proof.Machine.execKat o s
  | .texpd o => Sys2Proof.Machine.execTexpd o s
  | .tadd o => Sys2Proof.Machine.execTadd o s
  | .tsub o => Sys2Proof.Machine.execTsub o s
  | .tmul o => Sys2Proof.Machine.execTmul o s
  | .tscale o => Sys2Proof.Machine.execTscale o s
  | .trelu o => Sys2Proof.Machine.execTrelu o s
  | .tcvt o => Sys2Proof.Machine.execTcvt o s
  | .fset o => Sys2Proof.Machine.execFset o s
  | .fclr o => Sys2Proof.Machine.execFclr o s
  | .fcopy o => Sys2Proof.Machine.execFcopy o s
  | .fcopyAcc o => Sys2Proof.Machine.execFcopyAcc o s
  | .fbind o => Sys2Proof.Machine.execFbind o s
  | .fread o => Sys2Proof.Machine.execFread o s
  | .rrow o => Sys2Proof.Machine.execRrow o s
  | .rcol o => Sys2Proof.Machine.execRcol o s
  | .rseal o => Sys2Proof.Machine.execRseal o s
  | .rrtalloc o => Sys2Proof.Machine.execRrtalloc o s
  | .rrtfree o => Sys2Proof.Machine.execRrtfree o s
  | .resolve o => Sys2Proof.Machine.execResolve o s
  | .ldr o => Sys2Proof.Machine.execLdr o s
  | .str o => Sys2Proof.Machine.execStr o s
  | .lds o => Sys2Proof.Machine.execLds o s
  | .sts o => Sys2Proof.Machine.execSts o s
  | .ldg o => Sys2Proof.Machine.execLdg o s
  | .stg o => Sys2Proof.Machine.execStg o s
  | .ldgs o => Sys2Proof.Machine.execLdgs o s
  | .stgs o => Sys2Proof.Machine.execStgs o s
  | .pref o => Sys2Proof.Machine.execPref o s
  | .cflush o => Sys2Proof.Machine.execCflush o s
  | .cinv o => Sys2Proof.Machine.execCinv o s
  | .cpy o => Sys2Proof.Machine.execCpy o s
  | .cpym o => Sys2Proof.Machine.execCpym o s
  | .gath o => Sys2Proof.Machine.execGath o s
  | .scat o => Sys2Proof.Machine.execScat o s
  | .publ o => Sys2Proof.Machine.execPubl o s
  | .cwait o => Sys2Proof.Machine.execCwait o s
  | .cwaitWp o => Sys2Proof.Machine.execCwaitWp o s
  | .aadd o => Sys2Proof.Machine.execAadd o s
  | .aadds o => Sys2Proof.Machine.execAadds o s
  | .amin o => Sys2Proof.Machine.execAmin o s
  | .amax o => Sys2Proof.Machine.execAmax o s
  | .aand o => Sys2Proof.Machine.execAand o s
  | .aor o => Sys2Proof.Machine.execAor o s
  | .axor o => Sys2Proof.Machine.execAxor o s
  | .axchg o => Sys2Proof.Machine.execAxchg o s
  | .acas o => Sys2Proof.Machine.execAcas o s
  | .afadd o => Sys2Proof.Machine.execAfadd o s
  | .bind o => Sys2Proof.Machine.execBind o s
  | .acq o => Sys2Proof.Machine.execAcq o s
  | .rel o => Sys2Proof.Machine.execRel o s
  | .fence => Sys2Proof.Machine.execFence s
  | .fwait o => Sys2Proof.Machine.execFwait o s
  | .fpost o => Sys2Proof.Machine.execFpost o s
  | .fpostr o => Sys2Proof.Machine.execFpostr o s
  | .sync o => Sys2Proof.Machine.execSync o s
  | .barr o => Sys2Proof.Machine.execBarr o s
  | .barrx o => Sys2Proof.Machine.execBarrx o s
  | .bwait o => Sys2Proof.Machine.execBwait o s
  | .rearm o => Sys2Proof.Machine.execRearm o s
  | .marm o => Sys2Proof.Machine.execMarm o s
  | .mwait o => Sys2Proof.Machine.execMwait o s
  | .trig o => Sys2Proof.Machine.execTrig o s
  | .tcntAdd o => Sys2Proof.Machine.execTcntAdd o s
  | .tcntSet o => Sys2Proof.Machine.execTcntSet o s
  | .tlaunch o => Sys2Proof.Machine.execTlaunch o s
  | .tspawn o => Sys2Proof.Machine.execTspawn o s
  | .tdep o => Sys2Proof.Machine.execTdep o s
  | .tend => Sys2Proof.Machine.execTend s
  | .resadv o => Sys2Proof.Machine.execResadv o s
  | .resdrop o => Sys2Proof.Machine.execResdrop o s
  | .reschk o => Sys2Proof.Machine.execReschk o s
  | .abegin o => Sys2Proof.Machine.execAbegin o s
  | .apush o => Sys2Proof.Machine.execApush o s
  | .asave o => Sys2Proof.Machine.execAsave o s
  | .acommit o => Sys2Proof.Machine.execAcommit o s
  | .aabandon o => Sys2Proof.Machine.execAabandon o s
  | .cend o => Sys2Proof.Machine.execCend o s
  | .aresume o => Sys2Proof.Machine.execAresume o s
  | .adiscard o => Sys2Proof.Machine.execAdiscard o s
  | .ctile o => Sys2Proof.Machine.execCtile o s
  | .cready o => Sys2Proof.Machine.execCready o s
  | .cplan o => Sys2Proof.Machine.execCplan o s
  | .cwaitc o => Sys2Proof.Machine.execCwaitc o s
  | .btset o => Sys2Proof.Machine.execBtset o s
  | .btlook o => Sys2Proof.Machine.execBtlook o s
  | .btinv o => Sys2Proof.Machine.execBtinv o s
  | .sacc o => Sys2Proof.Machine.execSacc o s
  | .grace o => Sys2Proof.Machine.execGrace o s
  | .handover o => Sys2Proof.Machine.execHandover o s
  | .trap code => Sys2Proof.Machine.execTrap code s
  | .rft => Sys2Proof.Machine.execRft s
  | .ebreak => Sys2Proof.Machine.execEbreak s
  | .signal o => Sys2Proof.Machine.execSignal o s
  | .xread o => Sys2Proof.Machine.execXread o s
  | .xclr n => Sys2Proof.Machine.execXclr n s
  | .errld o => Sys2Proof.Machine.execErrld o s
  | .lqtailDoorbell q v => Sys2Proof.Machine.execLqtailDoorbell q v s
  | .lqEnable q en => Sys2Proof.Machine.execLqEnable q en s
  | .ringReset q => Sys2Proof.Machine.execRingReset q s
  | .lqctlErrClear q => Sys2Proof.Machine.execLqctlErrClear q s
  | .registerWrite m off op => Sys2Proof.Machine.execRegisterWrite m off op s
  | .lqkill m lid => Sys2Proof.Machine.execLqkill m lid s
  | .tbivc m v => Sys2Proof.Machine.execTbivc m v s
  | .tbivcComplete => Sys2Proof.Machine.execTbivcComplete s
  | .tbivcOvrClear m => Sys2Proof.Machine.execTbivcOvrClear m s
  | .preemptRequest m c => Sys2Proof.Machine.execPreemptRequest m c s
  | .errorRecordFree m d b r => Sys2Proof.Machine.execErrorRecordFree m d b r s
  | .errorOvfClear m d b r => Sys2Proof.Machine.execErrorOvfClear m d b r s
  | .accessTableWrite m t ix ent => Sys2Proof.Machine.execAccessTableWrite m t ix ent s
  | .cssegWrite m d v => Sys2Proof.Machine.execCssegWrite m d v s
  | .trpoolWrite m d v => Sys2Proof.Machine.execTrpoolWrite m d v s
  | .devidWrite m v => Sys2Proof.Machine.execDevidWrite m v s
  | .hostSyncAcquire l d ix => Sys2Proof.Machine.execHostSyncAcquire l d ix s
  | .hostSyncRelease l d ix => Sys2Proof.Machine.execHostSyncRelease l d ix s
  | .bar2Access l op off => Sys2Proof.Machine.execBar2Access l op off s
  | .peerRequest p op pa => Sys2Proof.Machine.execPeerRequest p op pa s
  | .powerOn b => Sys2Proof.Machine.execPowerOn b s
  | .reset b => Sys2Proof.Machine.execReset b s
  | .spdmRequest l r => Sys2Proof.Machine.execSpdmRequest l r s
  | .ideIntegrityFailure l st => Sys2Proof.Machine.execIdeIntegrityFailure l st s
  | .atsInvalidation asn vpn size => Sys2Proof.Machine.execAtsInvalidation asn vpn size s
  | .atsResponse r => Sys2Proof.Machine.execAtsResponse r s
  | .priResponse r => Sys2Proof.Machine.execPriResponse r s
  | .powerStepDown watts hot => Sys2Proof.Machine.execPowerStepDown watts hot s
  | .powerStepUp => Sys2Proof.Machine.execPowerStepUp s
  | .junctionLimit d => Sys2Proof.Machine.execJunctionLimit d s
  | .d3hotEntry => Sys2Proof.Machine.execD3hotEntry s
  | .d0Return => Sys2Proof.Machine.execD0Return s
  | .powerRemoval => Sys2Proof.Machine.execPowerRemoval s
  | .laneStepDown p => Sys2Proof.Machine.execLaneStepDown p s
  | .portDown p => Sys2Proof.Machine.execPortDown p s
  | .launchFetch => Sys2Proof.Machine.execLaunchFetch s
  | .stagingShareApply d => Sys2Proof.Machine.execStagingShareApply d s
  | .fuseChange cl => Sys2Proof.Machine.execFuseChange cl s
  | .roleModeStart cl => Sys2Proof.Machine.execRoleModeStart cl s
  | .walkerExpand d => Sys2Proof.Machine.execWalkerExpand d s
  | .overflowMove d => Sys2Proof.Machine.execOverflowMove d s
  | .priorityAging d k => Sys2Proof.Machine.execPriorityAging d k s
  | .dispatch d => Sys2Proof.Machine.execDispatch d s
  | .taskStart c => Sys2Proof.Machine.execTaskStart c s
  | .balancerSample => Sys2Proof.Machine.execBalancerSample s
  | .migration => Sys2Proof.Machine.execMigration s
  | .resultDeliver c => Sys2Proof.Machine.execResultDeliver c s
  | .freezeStart c => Sys2Proof.Machine.execFreezeStart c s
  | .freezeRelease c => Sys2Proof.Machine.execFreezeRelease c s
  | .slotResume c => Sys2Proof.Machine.execSlotResume c s
  | .stallWatchdog c => Sys2Proof.Machine.execStallWatchdog c s
  | .waitComplete c => Sys2Proof.Machine.execWaitComplete c s
  | .waitTimeout c => Sys2Proof.Machine.execWaitTimeout c s
  | .factorHoldRelease c => Sys2Proof.Machine.execFactorHoldRelease c s
  | .factorHoldExpiry c => Sys2Proof.Machine.execFactorHoldExpiry c s
  | .monitorWake c => Sys2Proof.Machine.execMonitorWake c s
  | .trapEntry c => Sys2Proof.Machine.execTrapEntry c s
  | .dueCycleFault c => Sys2Proof.Machine.execDueCycleFault c s
  | .signalInterrupt c => Sys2Proof.Machine.execSignalInterrupt c s
  | .assayMismatch c => Sys2Proof.Machine.execAssayMismatch c s
  | .poisonConsumption c pa => Sys2Proof.Machine.execPoisonConsumption c pa s
  | .journalFullCheckpoint c => Sys2Proof.Machine.execJournalFullCheckpoint c s
  | .matrixOpStart c => Sys2Proof.Machine.execMatrixOpStart c s
  | .matrixChunkEnd c => Sys2Proof.Machine.execMatrixChunkEnd c s
  | .matrixOpEnd c => Sys2Proof.Machine.execMatrixOpEnd c s
  | .followOnArrival c n => Sys2Proof.Machine.execFollowOnArrival c n s
  | .copyStart c n => Sys2Proof.Machine.execCopyStart c n s
  | .copyRow c n => Sys2Proof.Machine.execCopyRow c n s
  | .copyComplete c n => Sys2Proof.Machine.execCopyComplete c n s
  | .copyFault c n => Sys2Proof.Machine.execCopyFault c n s
  | .collectiveFiring d => Sys2Proof.Machine.execCollectiveFiring d s
  | .collectiveComplete ent peers => Sys2Proof.Machine.execCollectiveComplete ent peers s
  | .collectiveFault x => Sys2Proof.Machine.execCollectiveFault x s
  | .triggerFire d k => Sys2Proof.Machine.execTriggerFire d k s
  | .flagPostArrival c f => Sys2Proof.Machine.execFlagPostArrival c f s
  | .barrierOpArrival d => Sys2Proof.Machine.execBarrierOpArrival d s
  | .releaseArrival d => Sys2Proof.Machine.execReleaseArrival d s
  | .abandonment => Sys2Proof.Machine.execAbandonment s
  | .compensationTaskRun => Sys2Proof.Machine.execCompensationTaskRun s
  | .pageWalk d => Sys2Proof.Machine.execPageWalk d s
  | .walkComplete d k => Sys2Proof.Machine.execWalkComplete d k s
  | .gets k => Sys2Proof.Machine.execGets k s
  | .getm k => Sys2Proof.Machine.execGetm k s
  | .putm k => Sys2Proof.Machine.execPutm k s
  | .data k => Sys2Proof.Machine.execData k s
  | .grant k => Sys2Proof.Machine.execGrant k s
  | .fwds k => Sys2Proof.Machine.execFwds k s
  | .fwdm k => Sys2Proof.Machine.execFwdm k s
  | .dataf k => Sys2Proof.Machine.execDataf k s
  | .fwdack k => Sys2Proof.Machine.execFwdack k s
  | .fwdnack k => Sys2Proof.Machine.execFwdnack k s
  | .inv k => Sys2Proof.Machine.execInv k s
  | .invack k => Sys2Proof.Machine.execInvack k s
  | .binv k => Sys2Proof.Machine.execBinv k s
  | .back k => Sys2Proof.Machine.execBack k s
  | .putack k => Sys2Proof.Machine.execPutack k s
  | .correctedError d b unit pa => Sys2Proof.Machine.execCorrectedError d b unit pa s
  | .uncorrectableError d b unit pa => Sys2Proof.Machine.execUncorrectableError d b unit pa s
  | .fatalPath d ent => Sys2Proof.Machine.execFatalPath d ent s
  | .atomicHoldExpiry c => Sys2Proof.Machine.execAtomicHoldExpiry c s
  | .msixVectorUnmask x => Sys2Proof.Machine.execMsixVectorUnmask x s
  | .bar2Resize n => Sys2Proof.Machine.execBar2Resize n s

end Sys2Proof.Machine
end

