-- ==== Sys2Proof/Machine/Issue.lean ====
section
/-!
DEFINITION. Issue.lean: one move of a core: what keeps it from issuing, the bundle at its pc, its slots in order, and what
follows them (R16, R34, R68, R81, R170, R184, R194 to R208, R341 to R343, R350, R353, R356).
-/
namespace Sys2Proof.Machine

/-! ## Slots of a bundle -/

/-- The state in which a slot executes. -/
def withCtx (s : State) (x : RSlot) : State :=
  let m : LaneMask := match x.vm with
    | some n => mReg s.sl n
    | none => BitVec.allOnes 128
  { s with
    ctx := ⟨x.baddr, x.bpa, x.next, x.words, BitVec.ofNat 3 x.pos, x.word, x.scope, m, x.place⟩
    sig := .none }

/-- Slots that return a register as their bundle reads it, whatever the bundle's other slots change. -/
def readsFirst : Instr → Bool
  | .mfc _ | .rdwid _ | .xread _ => true
  | _ => false

/-- The order of effects within a bundle: XCLR and what reads memory, which finds it as the bundle does (R34, R86), the slots
from the left, register replacements, stores and copies, the ends of a step. -/
def effRank : Instr → Nat
  | .xclr _ => 0
  | .ldr _ | .lds _ | .ldg _ | .ldgs _ | .marm _ | .apush _ | .ctile _ | .cplan _ | .btlook _ | .reschk _ => 1
  | .mtc _ | .mpcset _ | .str _ | .sts _ | .stg _ | .stgs _ | .cpy _ | .cpym _ | .gath _ | .scat _ => 3
  | .ppt | .tend | .cend _ => 4
  | _ => 2

/-- Slots in their order of effect, equal ranks from the left. -/
def effOrder (l : List RSlot) : List RSlot :=
  (List.range 5).foldl (fun acc n => acc ++ l.filter fun x => effRank x.instr == n) []

/-- Slots that take a tile's factor record, as their bundle reads it (R278). -/
def readsRecords : Instr → Bool
  | .cpy _ | .cpym _ | .trig _ => true
  | _ => false

/-- The factor and reduction records of the running slot as another state has them. -/
def withRecords (s r : State) : State := s.modSl fun sl => { sl with
  factors := r.sl.factors
  reds := r.sl.reds }

/-- Executes the slots; those of `readsFirst` on the state that the bundle reads. -/
def runSlots (base : State) : List RSlot → State → Host.Outcome State Fault Refusal
  | [], s => .next s
  | x :: r, s =>
    if readsFirst x.instr then
      match exec x.instr (withCtx base x) with
      | .next t => runSlots base r (match t.me.inflight.getLast? with
        | some e => s.push e
        | none => s)
      | o => o
    else
      let f : Bool := readsRecords x.instr
      match exec x.instr (withCtx (if f then withRecords s base else s) x) with
      | .next t => if t.sig == .none then runSlots base r (if f then withRecords t s else t) else .next t
      | o => o

/-- The outcome of each slot alone. -/
def tryAll (base : State) (l : List RSlot) : List (Host.Outcome State Fault Refusal) :=
  l.map fun x => exec x.instr (withCtx base x)

def stopOf (l : List (Host.Outcome State Fault Refusal)) : Option (Host.Outcome State Fault Refusal) :=
  l.find? fun o => match o with
    | .next _ => false
    | _ => true

def nextsOf (l : List (Host.Outcome State Fault Refusal)) : List State :=
  l.filterMap fun o => match o with
    | .next t => some t
    | _ => none

/-- The place of a slot's trap among those of its bundle: the metadata cause comes between the other illegal instructions
and the rest (R184). -/
def trapRank : Sig → Option Nat
  | .trap r => some (2 * r)
  | .badMeta => some 1
  | _ => none

/-- The trap that is reported: the best rank, then the leftmost slot (R184, R341). -/
def pickTrap (l : List State) : Option State :=
  (l.foldl (fun (acc : Option (Nat × State)) t => match trapRank t.sig, acc with
    | some r, none => some (r, t)
    | some r, some (b, u) => if r < b then some (r, t) else some (b, u)
    | none, acc => acc) none).map Prod.snd

/-- The slot that waits: a factor hold first, then the other waits of R280, then SYNC, at which only a bundle stands that
nothing else keeps. -/
def pickHeld (l : List State) : Option State :=
  let h := l.filter fun t => t.sig == .held
  let kind (p : HoldKind → Bool) : Option State := h.find? fun t => t.me.hold.any fun x => p x.kind
  kind (· == .factor) <|> kind (· == .wait) <|> h.head?

/-- The predicate that says how a wait has ended: its own, or p7 for a factor hold (R260, R280). -/
def waitPred : Instr → BitVec 3
  | .fwait o => o.d
  | .acq o => o.t
  | .bwait o => o.d
  | .mwait o => o.d
  | .cwait o => o.d
  | .cwaitc o => o.d
  | _ => 7

/-- The slots of a waiting bundle whose own wait has ended with its condition met (R41). -/
def metPlaces (row : IssueRow) (outs : List State) : List Nat :=
  (row.slots.zip outs).filterMap fun (x, t) =>
    let met (e : InFl) : Bool := e.place == x.place && e.file == .pred && e.reg == (waitPred x.instr).setWidth 5 && e.value == 0
    if t.sig == .none && t.me.inflight.any met then some x.place else none

/-! ## Checkpoints that come before a bundle (R208, R356) -/

/-- Whether a slot's write would find its segment full. -/
def overfull (s : State) (x : RSlot) : Bool :=
  let k := s.me
  let sl := s.sl
  let held := (k.withheld.filter fun h => h.slot == k.ctx && !h.closed).length
  let row (a : Src) (o : Off) : Bool :=
    let r := rowIx s a o
    !journaled k k.ctx r.toNat && decide (128 ≤ journalLen k k.ctx)
  !sl.sup && (match x.instr with
    | .stg _ | .stgs _ => decide (64 ≤ held)
    | .str o => row o.a o.o
    | .sts o => row o.a o.o
    | _ => false)

/-! ## The end of a bundle -/

/-- Where the running slot goes next, and its loop stack. -/
def advance (s : State) (c : Nat) (row : IssueRow) : State :=
  s.modCore c fun k =>
    let sl := k.slot
    let sl := match row.merged with
      | some (false, _) => { sl with pc := row.next }
      | some (true, n) =>
        match sl.loops.getLast? with
        | some l =>
          let (ls, a) := endHandling sl.loops l.stop row.next
          let again := ls.length == sl.loops.length
          { sl with
            loops := ls
            pc := a
            prol := if again then BitVec.ofNat 12 (min (sl.prol.toNat + 1) (n - 1)) else 0 }
        | none => { sl with pc := row.next }
      | none =>
        match s.eff.redirect with
        | some a => { sl with pc := bundleAddr a, prol := 0 }
        | none =>
          if s.eff.noEnd then { sl with pc := row.next }
          else
            let (ls, a) := endHandling sl.loops (bundleAddr sl.pc) row.next
            { sl with loops := ls, pc := a, prol := 0 }
    { (k.setSlot { sl with wfault := none }) with freeze := none, hold := none }

/-- The results that a bundle has started, in the order of its slots from the left (R71, R342). -/
def placeOrder (l : List InFl) : List InFl :=
  let ins (e : InFl) : List InFl → List InFl := fun l =>
    (l.takeWhile fun x => decide (x.place ≤ e.place)) ++ e :: l.dropWhile fun x => decide (x.place ≤ e.place)
  (l.filter fun e => e.place == 0) ++
  ((l.filter fun e => e.place != 0).foldl (fun acc e => ins e acc) []).map fun e => { e with place := 0 }

/-- A record that two bundles hit in one cycle: what the earlier one has recorded stands (R77). -/
def joinSticky (first later : Word) : Word :=
  if first.getLsbD 63 then first ||| (later &&& 0x3F00000000000000) else later

/-- The sticky records that the slots of a bundle find: as the bundle reads them, after its XCLRs (R336). -/
def afterXclr (sl : Slot) (row : IssueRow) : Vector Word 8 :=
  row.slots.foldl (fun v x => match x.instr with
    | .xclr n => vset v n.toNat 0
    | _ => v) sl.sticky

/-- A write of a row, or of a lane of it, made again (R71, R86). -/
def writeAgain (c : Nat) (s : State) (e : Nat × Option Nat × Row) : State :=
  match e.2.1 with
  | none => s.wrRow c e.1 e.2.2
  | some l => s.wrBytes (spadRow c e.1 + 8 * l) 8 (e.2.2.toNat % 2 ^ 64)

/-- Whether the segment of a slot withholds a store to an error count. -/
def countsHeld (s : State) (c : Nat) (b : Bool) : Bool :=
  (s.core c).withheld.any fun h => h.slot == b && h.pa.any fun p => match targetOf s p.toNat with
    | .ctl off => (match ctlReg off with
      | .errcnt _ _ => true
      | _ => false)
    | _ => false

/-- The issued cycle of a bundle; where its checkpoint publishes stores to error counts, these come before what the cycle
counts there (R169). -/
def tickBundle (base s : State) (c : Nat) : State × Option Nat :=
  let b := (base.core c).ctx
  match tickIssued base s c with
  | (t, some p) => (t, some p)
  | (t, none) => if s.eff.ckpt && countsHeld s c b then tickIssued base (publishHeld s c b) c else (t, none)

/-- A bundle whose slots have executed without trap or wait: the cycle passes, and a checkpoint asked for is taken. `base` is
the state that its slots read. What earlier bundles' operations do in the cycle comes before what the bundle has done. -/
def finishBundle (base s : State) (c : Nat) (row : IssueRow) : State :=
  let reads := base.core c
  let b := reads.ctx
  let s := s.modCore c fun k => { k with inflight := placeOrder k.inflight }
  let fl := shadowFlight (s.core c).inflight
  let own := (s.core c).slot.sticky
  let s := (advance s c row).modCore c fun k => countEvt (k.setSlot { k.slot with
      bubble := s.eff.bubble
      sticky := afterXclr reads.slot row }) 2 1
  afterTick c (tickBundle base s c) fun t =>
    let first := (t.core c).slot.sticky
    let t := s.eff.rows.foldl (writeAgain c) t
    let t := t.modCore c fun k => k.setSlot { k.slot with sticky := .ofFn fun i => joinSticky first[i] own[i] }
    if s.eff.ckpt then
      (closeSegment t c b).modCore c fun k =>
        let k := takeShadow k reads b k.slot.pc reads.slot.loops fl
        k.setSlotOf b { k.slotOf b with shadow := (k.slotOf b).shadow.map fun sh => { sh with bubble := s.eff.bubble } }
    else t

/-! ## A core's move -/

/-- Issues a row on the state that its slots read. -/
def issueSlots (base : State) (c : Nat) (row : IssueRow) : Host.Outcome State Fault Refusal :=
  let outs := tryAll base row.slots
  match stopOf outs with
  | some o => o
  | none =>
    let l := nextsOf outs
    match pickTrap l with
    | some t => .next t
    | none =>
      match l.find? fun t => t.sig == .poison with
      | some t => .next t
      | none =>
        match (if syncReleased (base.core c) then none else dueInterrupt base c) with
        | some t => .next t
        | none =>
          match l.find? fun t => t.sig == .frozen with
          | some t =>
            let f := ((t.core c).freeze).getD ⟨1, 0, .access⟩
            .next (freezeCycle t c f.code f.wake)
          | none =>
            match pickHeld l with
            | some t =>
              let t := t.modCore c fun k => { k with hold := k.hold.map fun h => { h with met := metPlaces row l } }
              .next (afterTick c (tickIssued t t c) id)
            | none =>
              let base := if (base.core c).jfull || row.slots.any (overfull base) then ckptBefore base c else base
              let go : State := { base with eff := { base.eff with ckpt := l.any fun t => t.eff.ckpt } }
              match runSlots base (effOrder row.slots) go with
              | .next t =>
                if t.sig == .none then .next (finishBundle base t c row)
                else .next (t.modCore c fun k => countEvt (wallTick k (base.core c).posts.length) 2
                  (if t.sig == .gone then 1 else 0))
              | o => o

/-- Issues what stands at the pc of a core that nothing keeps from issuing; a fetch waits for its translations (R98, R99). -/
def issueRow (s : State) (c : Nat) : Host.Outcome State Fault Refusal :=
  match loadRow s c with
  | .bad e => .next (takeTrap (seeRefusal s (s.core c).slot.asn e.2) c e.1 (e.2.setWidth 64))
  | .wait va => .next (afterTick c (tickStopped false s c) fun s => fetchWait s c va)
  | .ok x =>
    let base := keepBody (fillAll s c x.used) c x.body
    match x.row with
    | .error e => .next (takeTrap base c e.cause e.tval)
    | .ok row => issueSlots base c row

/-- A slot that is leaving: its results land, its array work passes, and it tries to leave (R206, R313). -/
def leavingCycle (s : State) (c : Nat) : State :=
  afterTick c (tickIssued s s c) fun s =>
    match dueFault (s.core c) with
    | some (f, a) => takeTrap s c f (a.setWidth 64)
    | none => tryEnd s c

/-- The empty cycle of R196: an issued cycle without a bundle, unless a result that is due is not back. -/
def bubbleCycle (s : State) (c : Nat) : State :=
  let k := s.core c
  if dueLate k then freezeCycle s c (lateCode k).1 (lateCode k).2
  else afterTick c (tickIssued s s c) fun s => s.modCore c fun y => passBubble y k.ctx

/-- A core at which RFT has issued: the return takes place once the handler's accesses have performed and the host has granted the
frame's pages (R349, R364). -/
def returningCycle (s : State) (c : Nat) : State :=
  match dueFault (s.core c) with
  | some (f, a) => takeTrap s c f (a.setWidth 64)
  | none =>
    afterTick c (tickStopped false s c) fun s =>
      if pendingAcc (s.core c) then s
      else
        match frameAsk s c .rd with
        | some va => askPage s (s.core c).slot.asn va .rd
        | none => returnTrap s c

/-- What a core does in a cycle in which nothing of it has just consumed poison. -/
def coreCycle (s : State) (c : Nat) : Host.Outcome State Fault Refusal :=
  let k := s.core c
  match k.slot.task, k.trapping with
  | none, _ =>
    .next (afterTick c (tickStopped false s c) fun s =>
      if slotReady s c !k.ctx then s.modCore c fun y => runSlot y !k.ctx else s)
  | _, some t => .next (afterTick c (tickStopped true s c) fun s => trapWait s c t)
  | _, none =>
    if k.slot.ending.isSome && !k.slot.sup then
      match dueFault k with
      | some (f, a) => .next (takeTrap s c f (a.setWidth 64))
      | none => .next (leavingCycle s c)
    else if k.returning then .next (returningCycle s c)
    else if k.slot.bubble then .next (bubbleCycle s c)
    else
      match dueFault k with
      | some (f, a) => .next (takeTrap s c f (a.setWidth 64))
      | none => if dueLate k then .next (freezeCycle s c (lateCode k).1 (lateCode k).2) else issueRow s c

/-- One move of core `c`: a cycle in which it issues, waits, freezes or idles. -/
def issueCore (s : State) (c : Nat) : Host.Outcome State Fault Refusal :=
  if s.fatal.isSome then .fault .issueStopped
  else if s.boot ≠ .ready then .next (bootStep s)
  else if s.power ≠ .p0 then .next s
  else
    let s := { s with
      cur := c
      sig := .none
      eff := ⟨none, false, false, false, false, []⟩ }
    let s := s.modCore c fun k => { k with evset := 0 }
    let out : Host.Outcome State Fault Refusal :=
      match retry s c with
      | (s, some p) => .next (rollback s c p)
      | (s, none) => coreCycle (s.modCore c landReady) c
    match out with
    | .next t => .next { t with sig := .none }
    | o => o

end Sys2Proof.Machine
end

