-- ==== Sys2Proof/Machine/Step.lean ====
section
/-!
DEFINITION. Step.lean: one step of the module: the next move of the agenda, or, where it is empty, the move that the free
schedule of Config names (log 1).
-/
namespace Sys2Proof.Machine

/-- A move: a core's cycle, or a happening of a unit. -/
def move (m : Move) (s : State) : Host.Outcome State Fault Refusal :=
  match m with
  | .issue c => issueCore s c.val
  | .event i => if i.isSlot || (!awake s && !fromOutside i) then .next s else exec i s

def step (s : State) : Host.Outcome State Fault Refusal :=
  match s.agenda with
  | m :: r => move m { s with agenda := r }
  | [] => move (Config.schedule s.tick) { s with tick := s.tick + 1 }

/-- The words of a bundle that holds one instruction of the opcode table, its operand words zero, and NOP slots (R170,
R176, R177). -/
def tableBundle (x : SlotWord) : List SlotWord :=
  let x := x &&& 0x7FFFFFFF
  if wOp x = 0x7E then [x, 0, 0, 0x80000000]
  else
    match tableWords x with
    | 0 => [x, 0, 0, 0x80000000]
    | 1 => [0x7E008000, x, 0, 0x80000000]
    | _ => [0x7E018000, x, 0, 0x80000000]

/-- The state with that bundle at the pc of core 0, mapped and running, as the next move (log 13). -/
def State.withFetchWord (s : State) (nbits w : Nat) : State :=
  let k := s.core 0
  let sl := k.slot
  let pc : Addr := if sl.pc.toNat < 2 ^ 34 - 64 then bundleAddr sl.pc else 0
  let page : Tlb := ⟨sl.asn, 0, 34, 0, true, true, true, true, 0⟩
  let words := tableBundle (BitVec.ofNat 32 (w % 2 ^ nbits))
  let v := words.foldr (fun (x : SlotWord) acc => acc * 2 ^ 32 + x.toNat) 0
  let sl := { sl with
    task := some (sl.task.getD 0)
    pc := pc
    prol := 0
    loops := []
    bubble := false
    out := none
    wfault := none
    ending := none }
  let k := { (k.setSlot sl) with
    inflight := []
    freeze := none
    hold := none
    trapping := none
    returning := false
    assay := []
    icache := []
    mcache := []
    signals := []
    jfull := false }
  let s := (s.setCore 0 k).modCluster 0 fun x => { x with tlb := page :: x.tlb.filter fun e => e.asn != sl.asn }
  { (s.wrBytes pc.toNat 16 v) with
    boot := .ready
    power := .p0
    fatal := none
    agenda := [.issue 0] }

end Sys2Proof.Machine
end

