-- ==== Sys2Proof/Safety.lean ====
section
/-!
DEFINITION. Safety.lean: the terms of the statements: what a safe state is, and what an instruction leaves when all it does
is put results on their way.
-/
namespace Sys2Proof.Machine

/-! ## Safe states -/

/-- A safe state: memory is in its canonical form. -/
def Inv (s : State) : Prop := Memory.wf s.mem

/-- A safe step: the module goes on, or it has taken the fatal path and a core is asked to issue (R359). -/
def SafeStep (s : State) : Prop :=
  (∃ t, step s = .next t) ∨ (s.fatal.isSome = true ∧ step s = .fault .issueStopped)

/-! ## Results on their way (R34, R70, R175) -/

/-- The state with these results on their way from the executing slot, and nothing else changed. -/
def State.sending (s : State) (l : List InFl) : State := s.modMe fun k => { k with inflight := k.inflight ++ l }

/-- A result of the executing slot, seen after `n` issued cycles. -/
def resultOf (s : State) (n : Nat) (file : RFile) (r : BitVec 5) (g : Lat) (noLatch : Bool) (v : Row) (m : LaneMask) :
    InFl where
  delay := n
  file := file
  reg := r
  group := g
  nl := noLatch
  spos := s.ctx.pos
  baddr := s.ctx.baddr
  value := v
  lmask := m
  cause := 0
  acc := none
  remote := false
  place := s.ctx.place

/-- A scalar result that enters the latches of group `g`; with N it reaches no register. -/
def scalarTo (s : State) (d : Dst) (n : Nat) (g : Lat) (x : Word) : InFl :=
  resultOf s n (if d.n then .none else .scalar) d.r g false (x.setWidth 2048) (BitVec.allOnes 128)
/-- A scalar result that enters no latch. -/
def scalarOnly (s : State) (d : BitVec 5) (nowrite : Bool) (n : Nat) (x : Word) : InFl :=
  resultOf s n (if nowrite then .none else .scalar) d .bs true (x.setWidth 2048) (BitVec.allOnes 128)
/-- A predicate result. -/
def predTo (s : State) (d : BitVec 3) (n : Nat) (x : Bool) : InFl :=
  resultOf s n .pred (d.setWidth 5) .bs true (if x then 1 else 0) (BitVec.allOnes 128)
/-- A mask result. -/
def maskTo (s : State) (d : BitVec 3) (n : Nat) (x : LaneMask) : InFl :=
  resultOf s n .mask (d.setWidth 5) .bs true (x.setWidth 2048) (BitVec.allOnes 128)
/-- A vector result that enters the latches of group `g` and writes the 16-bit positions of `m`. -/
def vectorTo (s : State) (d : Dst) (n : Nat) (g : Lat) (x : Row) (m : LaneMask) : InFl :=
  resultOf s n (if d.n then .none else .vector) d.r g false x m
/-- A further register of a run, which enters no latch. -/
def vectorOnly (s : State) (r : BitVec 5) (n : Nat) (x : Row) (m : LaneMask) : InFl :=
  resultOf s n .vector r .bv true x m

/-- A remote result: its reply is still to come (R16, R308). -/
def InFl.away (e : InFl) : InFl := { e with remote := true }

/-! ## Outcomes -/

/-- The instruction puts these results on their way and changes nothing else. -/
def Gives (s : State) (o : Out) (l : List InFl) : Prop := o = .next (s.sending l)

/-- It puts these results on their way, records these causes in its slot's sticky record (R55, R77), and changes nothing
else. -/
def GivesWith (s : State) (o : Out) (l : List InFl) (ks : List Cause) : Prop := o = .next ((s.sending l).sticky ks)

/-- A row of lanes of width `w`, `lane i` being the result and the causes of lane i, under the lane mask of the bundle
(R178, R210). -/
def GivesLanes (s : State) (o : Out) (d : Dst) (w n : Nat) (lane : Nat → Nat × List Cause) : Prop :=
  ∃ row : Row, (∀ i, i < 2048 / w → laneN row i w = (lane i).1 % 2 ^ w) ∧
    GivesWith s o [vectorTo s d n .bv row (laneMaskOf s.ctx.mask w)]
      (laneCauses s.ctx.mask w ((List.range (2048 / w)).map fun i => (lane i).2))

/-- The same for instructions that raise nothing and record nothing. -/
def GivesRow (s : State) (o : Out) (d : Dst) (w n : Nat) (lane : Nat → Nat) : Prop :=
  ∃ row : Row, (∀ i, i < 2048 / w → laneN row i w = lane i % 2 ^ w) ∧
    Gives s o [vectorTo s d n .bv row (laneMaskOf s.ctx.mask w)]

/-! ## A core's cycle -/

/-- A cycle of core `c` opens: nothing has been done in it. -/
def cycleOpen (s : State) (c : Nat) : State :=
  let s1 : State := { s with
    cur := c
    sig := .none
    eff := ⟨none, false, false, false, false, []⟩ }
  s1.modCore c fun k => { k with evset := 0 }

/-- The state in which core `c` looks at its bundle: outstanding accesses have performed as far as they can, and results due
have landed (R34). -/
def cycleStart (s : State) (c : Nat) : State := (retry (cycleOpen s c) c).1.modCore c landReady

/-- Nothing of the running step has just consumed poison. -/
def CleanStart (s : State) (c : Nat) : Prop := (retry (cycleOpen s c) c).2 = none

/-- Core `c` runs a step, and no trap, freeze, end, empty cycle or modulo loop stands between it and the bundle at its pc. -/
def ReadyToIssue (s : State) (c : Nat) : Prop :=
  (s.core c).slot.task.isSome = true ∧ (s.core c).trapping = none ∧ (s.core c).slot.ending = none ∧
  (s.core c).slot.bubble = false ∧ (s.core c).returning = false ∧
  dueFault (s.core c) = none ∧ dueLate (s.core c) = false ∧
  ∀ l, (s.core c).slot.loops.getLast? = some l → l.kind = false

/-- The slot completes by itself, without a trap, a wait or a freeze. -/
def Completes (base : State) (x : RSlot) (t : State) : Prop :=
  exec x.instr (withCtx base x) = .next t ∧ t.sig = .none

/-- The bundle needs no checkpoint before it (R95, R208), and no interrupt is due. -/
def Unhindered (base : State) (c : Nat) (l : List RSlot) : Prop :=
  dueInterrupt base c = none ∧ ((base.core c).jfull || l.any (overfull base)) = false

/-- The state on which the slots of a bundle act, `ts` being what each does alone: it knows whether a checkpoint follows
(R117). -/
def actState (base : State) (ts : List State) : State :=
  { base with eff := { base.eff with ckpt := ts.any fun t => t.eff.ckpt } }

/-- The number that the core's next access takes is in use nowhere: numbers only rise. -/
def FreshNumber (k : Core) : Prop :=
  (∀ h ∈ k.withheld, h.seq ≠ k.useq) ∧
  ∀ (b : Bool) (sh : Shadow), (k.slotOf b).shadow = some sh → ∀ e ∈ sh.inflight, ∀ a, e.acc = some a → a.seq ≠ k.useq

/-- An access of the executing slot that performs at its bundle: its translation is cached and leads to device memory, and no
older access of the slot is outstanding (R283, R343). -/
def AtOnce (s : State) (k : Kind) (va pa : Addr) (attr : BitVec 2) : Prop :=
  pendingAcc s.me = false ∧ (tlbFind s (clusterOf s.cur) (dieOf s.cur) s.sl.asn va).isSome = true ∧
  (∃ e, xlate s s.cur s.sl.asn s.sl.sup k va = .ok pa attr e) ∧ pa.toNat < devTop ∧ FreshNumber s.me

/-! ## Frames -/

/-- Everything of the module but the cores and the model's own bookkeeping is as before. -/
def UnitsKept (s t : State) : Prop :=
  t.mem = s.mem ∧ t.poison = s.poison ∧ t.stack = s.stack ∧ t.clusters = s.clusters ∧ t.dies = s.dies ∧ t.tasks = s.tasks ∧
  t.launches = s.launches ∧ t.rings = s.rings ∧ t.tlaunch = s.tlaunch ∧ t.regions = s.regions ∧ t.acts = s.acts ∧
  t.abandons = s.abandons ∧ t.plans = s.plans ∧ t.planOut = s.planOut ∧ t.msgs = s.msgs ∧ t.home = s.home ∧ t.homeq = s.homeq ∧
  t.fired = s.fired ∧ t.migs = s.migs ∧ t.fatal = s.fatal ∧ t.gttbase = s.gttbase ∧
  t.asroot = s.asroot ∧ t.boot = s.boot ∧ t.power = s.power ∧ t.access = s.access

/-- Every core but the executing one is as before. -/
def OthersKept (s t : State) : Prop := t.cur = s.cur ∧ ∀ c, c ≠ s.cur → t.core c = s.core c

/-- The registers of a slot that only a landing result or the named instruction writes. -/
def RegsKept (a b : Slot) : Prop :=
  b.task = a.task ∧ b.asn = a.asn ∧ b.pc = a.pc ∧ b.s = a.s ∧ b.v = a.v ∧ b.p = a.p ∧ b.m = a.m ∧ b.a = a.a ∧
  b.wid = a.wid ∧ b.widf = a.widf ∧ b.wp = a.wp ∧ b.sup = a.sup ∧ b.tids = a.tids ∧ b.shadow = a.shadow

/-- The control, exception and supervisor registers of a core. -/
def ControlKept (a b : Core) : Prop :=
  b.ctx = a.ctx ∧ b.cycle = a.cycle ∧ b.tvec = a.tvec ∧ b.tfbase = a.tfbase ∧ b.tcause = a.tcause ∧ b.tepc = a.tepc ∧
  b.tval = a.tval ∧ b.tscr = a.tscr ∧ b.ayctl = a.ayctl ∧ b.flags = a.flags ∧ b.bs = a.bs ∧ b.bv = a.bv ∧
  b.bl = a.bl ∧ b.bx = a.bx

end Sys2Proof.Machine
end

