-- ==== Sys2Proof/Certificates/Slice0/Obligations.lean ====
section
/-!
DEFINITION. Obligations.lean: the statements for the provers. Where a statement says that an instruction gives results and
changes nothing else, the state that follows is equal to the one before but for those results: registers, flags, special
registers and every byte of memory are as they were.
-/

open Sys2Proof Sys2Proof.Machine

/-! ## Encodings -/

/-- Slot words that the specification writes out decode to the instructions they stand for; majors that the opcode map does not
assign raise TCAUSE 0x0001, 0x7F raises 0x0002, and a PFX that is not first raises 0x0007 (R180, R183, R196, R213, R232). -/
def Obligations.SpecWordsDecode : Prop :=
  decodeSlot 0x107FFE08 [] = .ok (.br ⟨⟨false, 2⟩, .rel 0x1FFF8⟩) ∧
  decodeSlot 0x01185100 [] = .ok (.add ⟨⟨false, 0⟩, ⟨false, 6⟩, .reg 5, .src (.reg 4)⟩) ∧
  decodeSlot 0x231C20C1 [] = .ok (.vfma ⟨0, .f32, ⟨false, 7⟩, .reg 2, .src (.reg 3)⟩) ∧
  decodeSlot 0x420C4245 [] = .ok (.defer ⟨1, 1, 3, 4, .src (.reg 9)⟩) ∧
  decodeSlot 0x7C0C5184 [] = .ok (.grace ⟨3, .reg 5, .reg 6⟩) ∧
  (∀ (w : SlotWord) (ws : List Imm31),
    ((wOp w).toNat ∈ [0x0E, 0x0F, 0x18, 0x19, 0x1A, 0x1B, 0x1C, 0x1D, 0x1E, 0x1F, 0x3B, 0x3C, 0x3D, 0x3E, 0x3F, 0x44, 0x45,
      0x46, 0x47] → decodeSlot w ws = .error 0x0001) ∧
    (wOp w = 0x7F → decodeSlot w ws = .error 0x0002) ∧
    (wOp w = 0x7E → decodeSlot w ws = .error 0x0007))

/-- The words of a well-formed slot instruction decode to it, whatever its operands; a happening has no words (R171 to R181).
-/
def Obligations.EncodedInstructionsDecodeBack : Prop :=
  (∀ i : Instr, (encode i).isSome = i.isSlot) ∧
  ∀ (i : Instr) (w : SlotWord) (ws : List Imm31), i.wf = true → encode i = some (w, ws) →
    wE w = false ∧ ws.length ≤ 3 ∧
    match i with
    | .pfx o => ws = [] ∧ wOp w = 0x7E ∧ dPfx w = .ok o
    | _ => decodeSlot w ws = .ok i

/-! ## Steps -/

/-- When the bytes at the pc of a core decode to a bundle of one slot that completes, the step is that instruction's meaning,
on the state in which the results due have landed and which knows whether the instruction asks for a checkpoint, followed by
the end of the bundle: the pc moves on, and one issued cycle passes. A slot that takes a tile's factor record leaves the
factor records as they are (R278). A happening on the agenda runs by its own meaning. An empty agenda takes the move that the schedule names (log 1). -/
def Obligations.StepRunsTheDecodedInstruction : Prop :=
  (∀ (s : State) (c : Fin 1024) (r : List Move) (ws : List SlotWord) (ts : List (Tlb × Nat)) (b : Bundle) (x : RSlot)
    (u : State), s.agenda = .issue c :: r → s.fatal = none → s.boot = .ready → s.power = .p0 →
    CleanStart { s with agenda := r } c.val →
    let s1 := cycleStart { s with agenda := r } c.val
    let pc := bundleAddr (s1.core c.val).slot.pc
    let base := fillAll s1 c.val ts
    ReadyToIssue s1 c.val → fetchGo s1 c.val 8 pc = .ok (ws, ts) → decodeBundle ws = .ok b →
    placed (slotsOf pc (fetchedAt ts) b) = [x] → Completes base x u → Unhindered base c.val [x] →
    let row : IssueRow := ⟨[x], none, pc + BitVec.ofNat 52 (4 * b.words)⟩
    let go := actState base [u]
    (∀ t, readsFirst x.instr = false → Completes go x t →
      let t := if readsRecords x.instr then withRecords t go else t
      step s = .next { finishBundle base t c.val row with sig := .none }) ∧
    (∀ e, readsFirst x.instr = true → u.me.inflight.getLast? = some e → (go.push e).sig = .none →
      step s = .next { finishBundle base (go.push e) c.val row with sig := .none })) ∧
  (∀ (s : State) (i : Instr) (r : List Move), s.agenda = .event i :: r → i.isSlot = false →
    (awake s = true ∨ fromOutside i = true) → step s = exec i { s with agenda := r }) ∧
  (∀ s : State, s.agenda = [] → step s = move (Config.schedule s.tick) { s with tick := s.tick + 1 })

/-- A bundle of several slots: each completes on the state that the bundle reads; then they take effect one after another,
in the model's order and knowing whether one of them asks for a checkpoint, and the bundle ends (R34, R170, R184). The order among the slots' effects is the model's choice (log
78). -/
def Obligations.BundleRunsItsSlots : Prop :=
  ∀ (s : State) (c : Fin 1024) (r : List Move) (ws : List SlotWord) (ts : List (Tlb × Nat)) (b : Bundle) (us : List State)
    (t : State), s.agenda = .issue c :: r → s.fatal = none → s.boot = .ready → s.power = .p0 →
    CleanStart { s with agenda := r } c.val →
    let s1 := cycleStart { s with agenda := r } c.val
    let pc := bundleAddr (s1.core c.val).slot.pc
    let base := fillAll s1 c.val ts
    let l := placed (slotsOf pc (fetchedAt ts) b)
    ReadyToIssue s1 c.val → fetchGo s1 c.val 8 pc = .ok (ws, ts) → decodeBundle ws = .ok b →
    List.Forall₂ (Completes base) l us → Unhindered base c.val l →
    runSlots base (effOrder l) (actState base us) = .next t → t.sig = .none →
    step s = .next { finishBundle base t c.val ⟨l, none, pc + BitVec.ofNat 52 (4 * b.words)⟩ with sig := .none }

/-! ## Registers, latches and latencies -/

/-- No landing changes s0 or p0; s0 reads zero and p0 true; a scalar result, one to s0 too, enters the scalar latch of age 0
where no due result is still away;
a result that enters no latch, as every predicate result is, leaves all latches as they were (R70). -/
def Obligations.ResultsToZeroRegistersAreDiscarded : Prop :=
  ∀ k : Core,
    (vget (landReady k).slot.s 0 0 = vget k.slot.s 0 0 ∧ sReg (landReady k).slot 0 = 0) ∧
    (vget (landReady k).slot.p 0 false = vget k.slot.p 0 false ∧ pReg (landReady k).slot 0 = true) ∧
    (∀ e : InFl, k.inflight.any InFl.awaited = false → ((k.inflight.filter InFl.ready).filter fun f => !f.nl && f.group == .bs).getLast? = some e →
      e.file = .scalar → vget (landReady k).bs 0 0 = e.value) ∧
    ((∀ e ∈ k.inflight, e.ready = true → e.nl = true) →
      (landReady k).bs = k.bs ∧ (landReady k).bv = k.bv ∧ (landReady k).bl = k.bl ∧ (landReady k).bx = k.bx) ∧
    ∀ (s : State) (d : BitVec 3) (n : Nat) (x : Bool), (predTo s d n x).nl = true

/-- Of two results due to one register in one cycle, the one issued later, or further right in its bundle, is written: a due
result with no later one for its register is in the register after the landing, whatever earlier ones there are, where no
due result is still away (R71). -/
def Obligations.LaterResultIsWritten : Prop :=
  ∀ (k : Core) (pre post : List InFl) (e : InFl), k.inflight.filter InFl.ready = pre ++ e :: post →
    k.inflight.any InFl.awaited = false →
    post.any e.sameDst = false →
    (e.file = .scalar → e.reg ≠ 0 → sReg (landReady k).slot e.reg = e.value.setWidth 64) ∧
    (∀ r : BitVec 3, e.file = .pred → e.reg.setWidth 3 = r → r ≠ 0 → pReg (landReady k).slot r = e.value.getLsbD 0) ∧
    (∀ r : BitVec 3, e.file = .mask → e.reg.setWidth 3 = r → mReg (landReady k).slot r = e.value.setWidth 128) ∧
    (e.file = .vector → vReg (landReady k).slot e.reg = mergeRow e.lmask e.value (vReg k.slot e.reg))

/-- A result of latency n, of each of the four register files, is seen after n issued cycles and not before; it then stands in
the latch of age j of its group for one cycle each, j from 0 to 3, whether or not its write-back is suppressed, and has left
the latches in the cycle after (R34). What the latch of a vector result holds is the row as written, its masked lanes as the
register had them. -/
def Obligations.ResultIsSeenAfterItsLatency : Prop :=
  ∀ (k : Core) (e : InFl) (n : Nat), k.inflight = [e] → e.delay = n → 1 ≤ n → e.acc = none → e.cause = 0 → e.remote = false →
    let at_ (j : Nat) : Core := issuedTick^[j] k
    let merged := mergeRow e.lmask e.value (vReg k.slot e.reg)
    let latched (l : Core → Vector Row 4) (x : Row) : Prop :=
      (∀ j, j < 4 → vget (l (at_ (n + j))) j 0 = x) ∧ (∀ j, j < 4 → vget (l (at_ (n + 4))) j 0 = 0) ∧
      ∀ i j, i < 3 → j < n → vget (l (at_ (j + 1))) (i + 1) 0 = vget (l (at_ j)) i 0
    (e.file = .scalar → e.reg ≠ 0 →
      (∀ j, j < n → sReg (at_ j).slot e.reg = sReg k.slot e.reg) ∧ ∀ j, sReg (at_ (n + j)).slot e.reg = e.value.setWidth 64) ∧
    (e.file = .vector →
      (∀ j, j < n → vReg (at_ j).slot e.reg = vReg k.slot e.reg) ∧ ∀ j, vReg (at_ (n + j)).slot e.reg = merged) ∧
    (∀ r : BitVec 3, e.file = .pred → e.reg.setWidth 3 = r → r ≠ 0 →
      (∀ j, j < n → pReg (at_ j).slot r = pReg k.slot r) ∧ ∀ j, pReg (at_ (n + j)).slot r = e.value.getLsbD 0) ∧
    (∀ r : BitVec 3, e.file = .mask → e.reg.setWidth 3 = r →
      (∀ j, j < n → mReg (at_ j).slot r = mReg k.slot r) ∧ ∀ j, mReg (at_ (n + j)).slot r = e.value.setWidth 128) ∧
    (e.nl = false → e.group = .bs → e.file = .scalar ∨ e.file = .none → latched Core.bs e.value) ∧
    (e.nl = false → e.file = .vector ∨ e.file = .none →
      (e.group = .bv → latched Core.bv merged) ∧ (e.group = .bl → latched Core.bl merged) ∧
      (e.group = .bx → latched Core.bx merged))

/-! ## Scalar instructions -/

/-- The 22 integer instructions: with its guard true, each puts the result of R185 on its way with latency 1, into the scalar
latches, and changes nothing else. -/
def Obligations.IntegerInstructionResults : Prop :=
  (∀ (o : OpS2) (s : State), guardOn s o.g = true →
    let a := srcS s o.a
    let b := opndS s o.b
    let k := b.toNat % 64
    let gives (i : Instr) (x : Word) : Prop := Gives s (exec i s) [scalarTo s o.d 1 .bs x]
    gives (.add o) (BitVec.ofInt 64 (a.toInt + b.toInt)) ∧
    gives (.sub o) (BitVec.ofInt 64 (a.toInt - b.toInt)) ∧
    gives (.adds o) (BitVec.ofInt 64 (max (-2 ^ 63) (min (2 ^ 63 - 1) (a.toInt + b.toInt)))) ∧
    gives (.mul o) (BitVec.ofInt 64 (a.toInt * b.toInt)) ∧
    gives (.mulh o) (BitVec.ofInt 64 (a.toInt * b.toInt / 2 ^ 64)) ∧
    gives (.mulhu o) (BitVec.ofNat 64 (a.toNat * b.toNat / 2 ^ 64)) ∧
    gives (.min o) (BitVec.ofInt 64 (min a.toInt b.toInt)) ∧
    gives (.max o) (BitVec.ofInt 64 (max a.toInt b.toInt)) ∧
    gives (.minu o) (BitVec.ofNat 64 (min a.toNat b.toNat)) ∧
    gives (.maxu o) (BitVec.ofNat 64 (max a.toNat b.toNat)) ∧
    gives (.and o) (a &&& b) ∧
    gives (.or o) (a ||| b) ∧
    gives (.xor o) (a ^^^ b) ∧
    gives (.andn o) (a &&& ~~~b) ∧
    gives (.shl o) (BitVec.ofNat 64 (a.toNat * 2 ^ k)) ∧
    gives (.shr o) (BitVec.ofNat 64 (a.toNat / 2 ^ k)) ∧
    gives (.sar o) (BitVec.ofInt 64 (a.toInt / 2 ^ k)) ∧
    gives (.rot o) (BitVec.ofNat 64 (a.toNat * 2 ^ k + a.toNat / 2 ^ (64 - k)))) ∧
  (∀ (o : OpS1) (s : State), guardOn s o.g = true →
    let a := srcS s o.a
    (∃ x : Word, Gives s (exec (.clz o) s) [scalarTo s o.d 1 .bs x] ∧ x.toNat ≤ 64 ∧ a.toNat < 2 ^ (64 - x.toNat) ∧
      (a ≠ 0 → 2 ^ (63 - x.toNat) ≤ a.toNat)) ∧
    Gives s (exec (.popc o) s) [scalarTo s o.d 1 .bs (BitVec.ofNat 64 ((List.range 64).filter fun j => a.getLsbD j).length)] ∧
    (∃ x : Word, Gives s (exec (.brev o) s) [scalarTo s o.d 1 .bs x] ∧ ∀ j, j < 64 → x.getLsbD j = a.getLsbD (63 - j))) ∧
  (∀ (o : OpMovi) (s : State), guardOn s o.g = true →
    Gives s (exec (.movi o) s) [scalarTo s o.d 1 .bs (opndS s o.b)])

/-- A slot whose guard fails writes nothing and feeds no latch: the state is the same (R186, R189, R195, R200). -/
def Obligations.FailedGuardDoesNothing : Prop :=
  (∀ (o : OpS2) (s : State), guardOn s o.g = false →
    ∀ i ∈ [Instr.add o, .sub o, .adds o, .mul o, .mulh o, .mulhu o, .min o, .max o, .minu o, .maxu o, .and o, .or o, .xor o,
      .andn o, .shl o, .shr o, .sar o, .rot o], exec i s = .next s) ∧
  (∀ (o : OpS1) (s : State), guardOn s o.g = false →
    ∀ i ∈ [Instr.clz o, .popc o, .brev o], exec i s = .next s) ∧
  (∀ (o : OpMovi) (s : State), guardOn s o.g = false → exec (.movi o) s = .next s) ∧
  (∀ (o : OpP2) (s : State), guardOn s o.g = false →
    ∀ i ∈ [Instr.pand o, .por o, .pxor o], exec i s = .next s) ∧
  (∀ (o : OpP1) (s : State), guardOn s o.g = false → exec (.pnot o) s = .next s) ∧
  (∀ (o : OpBr) (s : State), guardOn s o.g = false → exec (.br o) s = .next s) ∧
  (∀ (o : OpJmpr) (s : State), guardOn s o.g = false → exec (.jmpr o) s = .next s) ∧
  (∀ (g : Guard) (s : State), guardOn s g = false → exec (.lbrk g) s = .next s)

/-- CMP, SEL and the predicate operations: what each puts on its way, with latency 1, and nothing else changes (R187 to R190).
-/
def Obligations.CompareSelectAndPredicates : Prop :=
  (∀ (o : OpCmp) (s : State),
    let a := srcS s o.a
    let b := opndS s o.b
    ∃ x : Bool, Gives s (exec (.cmp o) s) [predTo s o.d 1 x] ∧
      (x = true ↔ match o.cc with
        | .eq => a = b
        | .ne => a ≠ b
        | .lt => a.toInt < b.toInt
        | .le => a.toInt ≤ b.toInt
        | .gt => a.toInt > b.toInt
        | .ge => a.toInt ≥ b.toInt
        | .ltu => a.toNat < b.toNat
        | .leu => a.toNat ≤ b.toNat
        | .gtu => a.toNat > b.toNat
        | .geu => a.toNat ≥ b.toNat)) ∧
  (∀ (o : OpS2) (s : State),
    (pReg s.sl o.g.p ≠ o.g.neg → Gives s (exec (.sel o) s) [scalarTo s o.d 1 .bs (srcS s o.a)]) ∧
    (pReg s.sl o.g.p = o.g.neg → Gives s (exec (.sel o) s) [scalarTo s o.d 1 .bs (opndS s o.b)])) ∧
  (∀ (o : OpP2) (s : State), guardOn s o.g = true →
    let a := pReg s.sl o.a
    let b := pReg s.sl o.b
    Gives s (exec (.pand o) s) [predTo s o.d 1 (a && b)] ∧
    Gives s (exec (.por o) s) [predTo s o.d 1 (a || b)] ∧
    Gives s (exec (.pxor o) s) [predTo s o.d 1 (a ^^ b)]) ∧
  (∀ (o : OpP1) (s : State), guardOn s o.g = true → Gives s (exec (.pnot o) s) [predTo s o.d 1 (!pReg s.sl o.a)])

/-- SFADD, SFMUL, SFMA: the exact value of the operation, rounded once, with latency 4, its causes in the sticky record of its
slot; SFCMP with latency 4 and no cause, a NaN making ne and un true and every other code false; SFCVT with latency 4
(R191 to R193). That SFMA reads register D as its addend with N set too is log 53, and that a special source records no cause
of its conversion is log 96. -/
def Obligations.ScalarFloatResults : Prop :=
  (∀ (o : OpSf) (s : State),
    let x := decodeF .f64 (srcSF s .f64 o.rm o.a)
    let y := decodeF .f64 (opndSF s .f64 o.rm o.b)
    let z := decodeF .f64 (sReg s.sl o.d.r).toNat
    let gives (i : Instr) (v : FV × Cause) : Prop :=
      GivesWith s (exec i s) [scalarTo s o.d 4 .bs (BitVec.ofNat 64 (encodeF .f64 o.rm v.1).1)] [v.2, (encodeF .f64 o.rm v.1).2]
    gives (.sfadd o) (addFV o.rm x y) ∧ gives (.sfmul o) (mulFV x y) ∧ gives (.sfma o) (fmaFV o.rm x y z)) ∧
  (∀ (o : OpFcmp) (s : State),
    let a := decodeF .f64 (srcSF s .f64 .rne o.a)
    let b := decodeF .f64 (opndSF s .f64 .rne o.b)
    ∃ x : Bool, Gives s (exec (.sfcmp o) s) [predTo s o.d 4 x] ∧
      (cmpFV a b = none → (x = true ↔ o.cc = .ne ∨ o.cc = .un)) ∧
      (∀ r, cmpFV a b = some r → (x = true ↔ match o.cc with
        | .eq => r = .eq
        | .ne => r ≠ .eq
        | .lt => r = .lt
        | .le => r ≠ .gt
        | .gt => r = .gt
        | .ge => r ≠ .lt
        | .un => False
        | .ord => True))) ∧
  (∀ (o : OpSfcvt) (s : State),
    let f := decodeF .f64 (srcSF s .f64 o.rm o.a)
    let gives (r : Word × Cause) : Prop := GivesWith s (exec (.sfcvt o) s) [scalarTo s o.d 4 .bs r.1] [r.2]
    match o.m with
    | .f64ToI64 => gives (BitVec.ofInt 64 (toIntF o.rm (-2 ^ 63) (2 ^ 63 - 1) f).1, (toIntF o.rm (-2 ^ 63) (2 ^ 63 - 1) f).2)
    | .f64ToU64 => gives (BitVec.ofInt 64 (toIntF o.rm 0 (2 ^ 64 - 1) f).1, (toIntF o.rm 0 (2 ^ 64 - 1) f).2)
    | .i64ToF64 => gives (BitVec.ofNat 64 (encodeF .f64 o.rm (ofInt (srcS s o.a).toInt)).1,
        (encodeF .f64 o.rm (ofInt (srcS s o.a).toInt)).2)
    | .u64ToF64 => gives (BitVec.ofNat 64 (encodeF .f64 o.rm (ofInt (srcS s o.a).toNat)).1,
        (encodeF .f64 o.rm (ofInt (srcS s o.a).toNat)).2)
    | .f64ToF32 => gives (BitVec.ofNat 64 (encodeF .f32 o.rm f).1, (encodeF .f32 o.rm f).2)
    | .f32ToF64 => gives (BitVec.ofNat 64 (encodeF .f64 .rne (decodeF .f32 (srcSF s .f32 o.rm o.a))).1,
        (encodeF .f64 .rne (decodeF .f32 (srcSF s .f32 o.rm o.a))).2))

/-- MFC, MTC and RDWID, NOP and PFX (R76, R78, R194): what MFC reads of each register; that MTC writes exactly the register it
names, and nothing where the table shows no MTC; the privilege trap at task level for indices from 0x10 and for MTC of CYCLE;
and that NOP and PFX have no effect of their own. -/
def Obligations.ControlRegisterAccess : Prop :=
  (∀ (o : OpMfc) (s : State), (o.x.code.toNat < 0x10 ∨ s.sl.sup = true) →
    ∃ x : Word, Gives s (exec (.mfc o) s) [scalarTo s o.d 1 .bs x] ∧
      match o.x with
      | .status => x.getLsbD 0 = s.me.ctx ∧ x.getLsbD 1 = s.sl.sup ∧ x.getLsbD 2 = s.sl.depcx ∧ x.getLsbD 3 = s.sl.resumed ∧
          x.getLsbD 4 = s.sl.replay ∧ x.getLsbD 5 = s.sl.migr ∧ x.extractLsb' 6 2 = s.sl.eprio ∧
          (s.sl.loops.length ≤ 4 → (x.extractLsb' 8 3).toNat = s.sl.loops.length ∧ x.extractLsb' 11 53 = 0)
      | .cycle => x = s.me.cycle
      | .mpc => x = s.sl.mpc
      | .wp0 => x = (vget s.sl.wp 0 0).setWidth 64
      | .wp1 => x = (vget s.sl.wp 1 0).setWidth 64
      | .wp2 => x = (vget s.sl.wp 2 0).setWidth 64
      | .wp3 => x = (vget s.sl.wp 3 0).setWidth 64
      | .tcause => x = s.me.tcause.setWidth 64
      | .tepc => x = s.me.tepc
      | .tval => x = s.me.tval
      | .tscr => x = s.me.tscr
      | .tvec | .tfbase | .ayctl => x = 0) ∧
  (∀ (o : OpMfc) (s : State), 0x10 ≤ o.x.code.toNat → s.sl.sup = false → exec (.mfc o) s = .next s.privilege) ∧
  (∀ (o : OpMtc) (s : State), ((o.x.code.toNat < 0x10 ∧ o.x ≠ .cycle) ∨ s.sl.sup = true) →
    let v := opndS s o.b
    let core (f : Core → Core) : Prop := exec (.mtc o) s = .next (s.modMe f)
    match o.x with
    | .status | .wp0 | .wp1 | .wp2 | .wp3 | .tcause | .tval => exec (.mtc o) s = .next s
    | .cycle => core fun k => { k with cycle := v - 1 }
    | .mpc => ∃ x : Word, exec (.mtc o) s = .next (s.modSl fun sl => { sl with mpc := x }) ∧
        x.extractLsb' 0 2 = 0 ∧ x.extractLsb' 52 12 = 0 ∧ x.extractLsb' 2 50 = v.extractLsb' 2 50
    | .tvec => core fun k => { k with tvec := v }
    | .tfbase => core fun k => { k with tfbase := v }
    | .tepc => core fun k => { k with tepc := v }
    | .tscr => core fun k => { k with tscr := v }
    | .ayctl => core fun k => { k with ayctl := v &&& 1 }) ∧
  (∀ (o : OpMtc) (s : State), (0x10 ≤ o.x.code.toNat ∨ o.x = .cycle) → s.sl.sup = false →
    exec (.mtc o) s = .next s.privilege) ∧
  (∀ (o : OpXpop) (s : State), Gives s (exec (.rdwid o) s) [scalarTo s o.d 1 .bs s.sl.wid]) ∧
  (∀ s : State, exec .nop s = .next s) ∧ ∀ (o : OpPfx) (s : State), exec (.pfx o) s = .next s

/-! ## Control flow -/

/-- Taken branches: the target, the empty cycle, and no end handling; CALL's link is the address of the next bundle, with
latency 1 and into no latch. Nothing else changes (R195, R196, R198). -/
def Obligations.BranchTargets : Prop :=
  let jump (s : State) (a : Addr) : State := { s with eff := { s.eff with
    redirect := some a
    bubble := true
    noEnd := true } }
  let rel (s : State) (off : Int) : Addr := BitVec.ofInt 52 (s.ctx.baddr.toNat + 4 * off)
  let abs (ws : List Imm31) : Addr := BitVec.ofInt 52 (sextN (immNat ws) (31 * ws.length))
  (∀ (o : OpBr) (s : State), guardOn s o.g = true →
    exec (.br o) s = .next (jump s (match o.t with
      | .rel k => rel s k.toInt
      | .abs ws => abs ws))) ∧
  (∀ (o : OpBrc) (s : State),
    let a := (srcS s o.a).toInt
    let c : Prop := match o.cc with
      | .eqz => a = 0
      | .nez => a ≠ 0
      | .ltz => a < 0
      | .gez => a ≥ 0
      | .gtz => a > 0
      | .lez => a ≤ 0
    (c → exec (.brc o) s = .next (jump s (rel s o.o.toInt))) ∧ (¬c → exec (.brc o) s = .next s)) ∧
  (∀ (o : OpCall) (s : State),
    let a := match o.t with
      | .rel k => rel s k.toInt
      | .abs ws => abs ws
    (o.d.n = false → exec (.call o) s = .next (jump (s.sending [scalarOnly s o.d.r false 1 (s.ctx.next.setWidth 64)]) a)) ∧
    (o.d.n = true → exec (.call o) s = .next (jump s a))) ∧
  (∀ (o : OpJmpr) (s : State), guardOn s o.g = true →
    exec (.jmpr o) s = .next (jump s ((srcS s o.a).setWidth 52))) ∧
  (∀ (o : OpA) (s : State), exec (.ret o) s = .next (jump s ((srcS s o.a).setWidth 52)))

/-- LOOP pushes a level or skips its body; MLOOP pushes a level that holds its body and counts its passes, prologue and
epilogue included; what they fetch enters the cluster's translations and the instruction cache; both
raise TCAUSE 0x0006 on a short offset or a fifth level; LBRK pops the innermost level (R197, R200, R201). -/
def Obligations.LoopInstructions : Prop :=
  let pushed (s : State) (l : Level) (empty : Bool) : State :=
    { (s.modSl fun sl => { sl with
        loops := sl.loops ++ [l]
        prol := 0 }) with eff := { s.eff with
      noEnd := true
      bubble := s.eff.bubble || empty } }
  let skipped (s : State) (a : Addr) : State := { s with eff := { s.eff with
    redirect := some a
    bubble := true
    noEnd := true } }
  (∀ (o : OpLoop) (s : State), s.ctx.words ≤ o.o.toNat → s.sl.loops.length < 4 →
    let t := (opndS s o.b).toInt
    let stop := s.ctx.baddr + BitVec.ofNat 52 (4 * o.o.toNat)
    (0 < t → exec (.loop o) s = .next (pushed s ⟨s.ctx.next, stop, BitVec.ofInt 32 (min t (2 ^ 32 - 1)), 0, false, none⟩ false)) ∧
    (∀ ws ts, t ≤ 0 → fetchGo s s.cur 8 stop = .ok (ws, ts) →
      exec (.loop o) s = .next (skipped (fillAll s s.cur ts) (stop + BitVec.ofNat 52 (4 * ws.length))))) ∧
  (∀ (o : OpMloop) (s : State) (body : Body) (ts : List (Tlb × Nat)),
    s.ctx.words ≤ o.o.toNat → s.sl.loops.length < 4 →
    let t := (opndS s o.b).toInt
    let stop := s.ctx.baddr + BitVec.ofNat 52 (4 * o.o.toNat)
    bodyOf s s.cur s.ctx.next stop = .ok (some (body, ts)) → body.length % o.ii.toNat = 0 →
    (0 < t → exec (.mloop o) s = .next (pushed (fillAll s s.cur ts) ⟨s.ctx.next, stop,
      BitVec.ofInt 32 (min (t + (body.length / o.ii.toNat : Nat) - 1) (2 ^ 32 - 1)), o.ii, true, some body⟩ true)) ∧
    (∀ ws ts', t ≤ 0 → fetchGo s s.cur 8 stop = .ok (ws, ts') →
      exec (.mloop o) s = .next (skipped (fillAll s s.cur ts') (stop + BitVec.ofNat 52 (4 * ws.length))))) ∧
  (∀ (o : OpLoop) (s : State), (o.o.toNat < s.ctx.words ∨ 4 ≤ s.sl.loops.length) →
    exec (.loop o) s = .next (s.illegal 0x0006)) ∧
  (∀ (o : OpMloop) (s : State), (o.o.toNat < s.ctx.words ∨ 4 ≤ s.sl.loops.length) →
    exec (.mloop o) s = .next (s.illegal 0x0006)) ∧
  (∀ (g : Guard) (s : State), guardOn s g = true →
    exec (.lbrk g) s = .next (s.modSl fun sl => { sl with loops := sl.loops.dropLast }))

/-- The markers: a PPT that is not taken has no effect, and one that is taken ends the step's stay in its slot, its pc behind
the bundle; CKPT asks for a checkpoint at the end of its bundle, at either level (log 90); RDZ passes where no core is marked, and at a replaying core,
and holds a core that has marks left (R206, R207, R209, R349). The freeze code of a hold at RDZ is the model's choice (log
57). -/
def Obligations.MarkerInstructions : Prop :=
  (∀ s : State, (s.me.preempt = false ∨ s.sl.sup = true ∨ s.sl.loops ≠ []) → exec .ppt s = .next s) ∧
  (∀ s : State, s.me.preempt = true → s.sl.sup = false → s.sl.loops = [] →
    exec .ppt s = .next ((s.modMe fun k => { k with preempt := false }).leaveBy (.preempt s.ctx.next))) ∧
  (∀ (s : State) (e : Ending), s.eff.ckpt = false → s.leaveBy e = { tryEnd (s.modSl fun sl => { sl with
      pc := s.ctx.next
      prol := 0
      sup := false
      ending := some e }) s.cur with sig := .gone }) ∧
  (∀ s : State, exec .ckpt s = .next { s with eff := { s.eff with ckpt := true } }) ∧
  (∀ (id : BitVec 12) (s : State), (∀ e ∈ s.cores, s.cur ∉ e.2.marks) →
    let left := s.me.marks.filter fun m => !s.me.rdzSeen.contains (m, id)
    let t := s.modMe fun k => { k with marks := left }
    ((left = [] ∨ s.sl.replay = true) → exec (.rdz id) s = .next t) ∧
    ((left ≠ [] ∧ s.sl.replay = false) → exec (.rdz id) s = .next (t.freezeAt 4 .rdz)))

/-! ## Vector instructions -/

/-- The elementwise arithmetic: each floating lane is the exact value of the operation, rounded once, with latency 4 and its
causes in the sticky record; each integer lane wraps or saturates as its instruction says, with latency 2; VABS and VNEG
change the sign bit and make a NaN canonical. Only active lanes are written, and nothing else changes (R210 to R213). That
VFMA and VFMS read register D as third operand with N set too is log 53, and that a special source records no cause of its
conversion is log 96. -/
def Obligations.VectorArithmeticResults : Prop :=
  (∀ (o : OpV3) (s : State), o.t.isFloat = true →
    let w := o.t.width
    let f := laneFF o.t
    let rm := vRnd o.m
    let x (i : Nat) : FV := decodeF f (laneN (srcVT s o.t rm o.a) i w)
    let y (i : Nat) : FV := decodeF f (laneN (opndVT s o.t rm o.b) i w)
    let z (i : Nat) : FV := decodeF f (laneN (vReg s.sl o.d.r) i w)
    let gives (i : Instr) (op : Nat → FV × Cause) : Prop :=
      GivesLanes s (exec i s) o.d w 4 fun j => ((encodeF f rm (op j).1).1, [(op j).2, (encodeF f rm (op j).1).2])
    gives (.vadd o) (fun i => addFV rm (x i) (y i)) ∧ gives (.vsub o) (fun i => addFV rm (x i) (y i).neg) ∧
    gives (.vmul o) (fun i => mulFV (x i) (y i)) ∧ gives (.vfma o) (fun i => fmaFV rm (x i) (y i) (z i)) ∧
    gives (.vfms o) (fun i => fmaFV rm (x i) (y i) (z i).neg) ∧ gives (.vmin o) (fun i => (minFV (x i) (y i), 0)) ∧
    gives (.vmax o) (fun i => (maxFV (x i) (y i), 0))) ∧
  (∀ (o : OpV3) (s : State), o.t.isFloat = false →
    let w := o.t.width
    let u : Bool := o.m == 1
    let a (i : Nat) : Int := laneInt u w (laneN (srcVT s o.t (vRnd o.m) o.a) i w)
    let b (i : Nat) : Int := laneInt u w (laneN (opndVT s o.t (vRnd o.m) o.b) i w)
    let lo : Int := if u then 0 else -2 ^ (w - 1)
    let hi : Int := if u then 2 ^ w - 1 else 2 ^ (w - 1) - 1
    let gives (i : Instr) (op : Nat → Int) : Prop := GivesLanes s (exec i s) o.d w 2 fun j => (wrapN (op j) w, [])
    gives (.vadd o) (fun i => a i + b i) ∧ gives (.vsub o) (fun i => a i - b i) ∧ gives (.vmul o) (fun i => a i * b i) ∧
    gives (.vmin o) (fun i => min (a i) (b i)) ∧ gives (.vmax o) (fun i => max (a i) (b i)) ∧
    gives (.vadds o) (fun i => max lo (min hi (a i + b i))) ∧ gives (.vsubs o) (fun i => max lo (min hi (a i - b i))) ∧
    gives (.vmulh o) (fun i => a i * b i / 2 ^ w)) ∧
  (∀ (o : OpV2) (s : State),
    let w := o.t.width
    let f := laneFF o.t
    let u : Bool := o.m == 1
    let x (i : Nat) : Nat := laneN (srcVT s o.t (vRnd o.m) o.a) i w
    let gives (i : Instr) (sign : Nat → Nat) (op : Int → Int) : Prop :=
      GivesLanes s (exec i s) o.d w 2 fun j =>
        (if o.t.isFloat = true then (if (decodeF f (x j)).isNaN = true then f.nanCode else sign (x j))
         else wrapN (op (laneInt u w (x j))) w, [])
    gives (.vabs o) (fun c => c % f.signBit) (fun a => if u then a else |a|) ∧
    gives (.vneg o) (fun c => c ^^^ f.signBit) (fun a => -a))

/-- VCMP, the logic, the shifts, VSEL and the mask operations: what each puts on its way and with which latency; nothing else
changes (R214 to R217). That VCMP takes the inactive bits of its mask register as they stand at issue is log 54. -/
def Obligations.VectorBitResults : Prop :=
  (∀ (o : OpVcmp) (s : State), 16 ≤ o.t.width →
    let w := o.t.width
    let x (i : Nat) : Nat := laneN (srcVT s o.t .rne o.a) i w
    let y (i : Nat) : Nat := laneN (opndVT s o.t .rne o.b) i w
    ∃ m : LaneMask, Gives s (exec (.vcmp o) s) [maskTo s o.d 2 m] ∧
      ∀ i j, i < 2048 / w → j < w / 16 →
        m.getLsbD (w / 16 * i + j) =
          if active s.ctx.mask w i = false then (mReg s.sl o.d).getLsbD (w / 16 * i + j)
          else if o.t.isFloat then vcmpFlt o.cc (cmpFV (decodeF (laneFF o.t) (x i)) (decodeF (laneFF o.t) (y i)))
          else match o.cc with
            | .eq => x i == y i
            | .ne => x i != y i
            | .lt => decide (sextN (x i) w < sextN (y i) w)
            | .le => decide (sextN (x i) w ≤ sextN (y i) w)
            | .gt => decide (sextN (x i) w > sextN (y i) w)
            | .ge => decide (sextN (x i) w ≥ sextN (y i) w)
            | .ltu => decide (x i < y i)
            | .geu => decide (x i ≥ y i)) ∧
  (∀ (o : OpVl) (s : State),
    let a := srcV s 64 o.a
    let b := opndV s 64 o.b
    let gives (i : Instr) (r : Row) : Prop := Gives s (exec i s) [vectorTo s o.d 2 .bv r s.ctx.mask]
    gives (.vand o) (a &&& b) ∧ gives (.vor o) (a ||| b) ∧ gives (.vxor o) (a ^^^ b)) ∧
  (∀ (o : OpVt2) (s : State), o.t.isFloat = false →
    let w := o.t.width
    let a (i : Nat) : Nat := laneN (srcV s w o.a) i w
    let k (i : Nat) : Nat := laneN (opndV s w o.b) i w % w
    GivesRow s (exec (.vshl o) s) o.d w 2 (fun i => a i * 2 ^ k i) ∧
    GivesRow s (exec (.vshr o) s) o.d w 2 (fun i => a i / 2 ^ k i) ∧
    GivesRow s (exec (.vsar o) s) o.d w 2 (fun i => wrapN (sextN (a i) w / 2 ^ k i) w)) ∧
  (∀ (o : OpVsel) (s : State), ∃ r : Row,
    Gives s (exec (.vsel o) s) [vectorTo s o.d 2 .bv r (BitVec.allOnes 128)] ∧
    ∀ j, j < 128 → laneN r j 16 =
      if (mReg s.sl o.s).getLsbD j then laneN (srcV s 64 o.a) j 16 else laneN (opndV s 64 o.b) j 16) ∧
  (∀ (o : OpM2) (s : State),
    Gives s (exec (.mand o) s) [maskTo s o.d 1 (mReg s.sl o.a &&& mReg s.sl o.b)] ∧
    Gives s (exec (.mor o) s) [maskTo s o.d 1 (mReg s.sl o.a ||| mReg s.sl o.b)]) ∧
  (∀ (o : OpM1) (s : State),
    Gives s (exec (.mnot o) s) [maskTo s o.d 1 (~~~ mReg s.sl o.a)] ∧
    ∃ m : LaneMask, Gives s (exec (.mfirst o) s) [maskTo s o.d 1 m] ∧
      ∀ i, i < 128 → (m.getLsbD i = true ↔
        (mReg s.sl o.a).getLsbD i = true ∧ ∀ j, j < i → (mReg s.sl o.a).getLsbD j = false)) ∧
  (∀ (o : OpMpop) (s : State), Gives s (exec (.mpop o) s) [scalarTo s o.d 1 .bv
    (BitVec.ofNat 64 ((List.range 128).filter fun j => (mReg s.sl o.a).getLsbD j).length)])

/-- The conversions: each target lane is the source's value, rounded once, or saturated with its cause; lanes without a source
are zero. The movers: broadcast, extraction, insertion, permutation and the byte rotation of two rows (R218 to R221). That
VPACK reads integer lanes as signed is log 55, that VLANE keeps the lanes it does not write as they stand at issue is log 54,
and that index operands take the integer value of a constant is log 44. -/
def Obligations.VectorConversionsAndMoves : Prop :=
  (∀ (o : OpVcvt) (s : State),
    let ft := laneFF o.tt
    let wt := o.tt.width
    let ws := o.st.width
    let lo : Int := if o.tu then 0 else -2 ^ (wt - 1)
    let hi : Int := if o.tu then 2 ^ wt - 1 else 2 ^ (wt - 1) - 1
    GivesLanes s (exec (.vcvt o) s) o.d wt 4 fun i =>
      let c := laneN (srcVT s o.st o.rm o.a) i ws
      let v := decodeF (laneFF o.st) c
      let n := laneInt o.su ws c
      if 2048 / ws ≤ i then (0, [])
      else if o.st.isFloat then
        if o.tt.isFloat then ((encodeF ft o.rm v).1, [(encodeF ft o.rm v).2])
        else (wrapN (toIntF o.rm lo hi v).1 wt, [(toIntF o.rm lo hi v).2])
      else if o.tt.isFloat then ((encodeF ft o.rm (ofInt n)).1, [(encodeF ft o.rm (ofInt n)).2])
      else if ws < wt then (wrapN n wt, [])
      else (wrapN (max lo (min hi n)) wt, if lo ≤ n ∧ n ≤ hi then [] else [cOF])) ∧
  (∀ (o : OpVpack) (s : State), o.f.narrow = true →
    GivesLanes s (exec (.vpack o) s) o.d o.f.width 4 fun i =>
      (packLanes o.f.code.toNat o.rm ((List.range (2048 / o.st.width)).map fun j =>
        if o.st.isFloat then decodeF (laneFF o.st) (laneN (srcVT s o.st o.rm o.a) j o.st.width)
        else ofInt (sextN (laneN (srcVT s o.st o.rm o.a) j o.st.width) o.st.width))).getD i (0, [])) ∧
  (∀ (o : OpVunpk) (s : State), o.f.narrow = true → (o.k.toNat + 1) * (2048 / o.tt.width) ≤ 2048 / o.f.width →
    let w := o.tt.width
    let l := unpackLanes o.f.code.toNat 0 ((List.range (2048 / o.f.width)).map fun j => laneN (srcNarrow s o.f o.a) j o.f.width)
    GivesLanes s (exec (.vunpk o) s) o.d w 4 fun i =>
      let e := l.getD (o.k.toNat * (2048 / w) + i) (.nan, 0)
      if o.tt.isFloat then ((encodeF (laneFF o.tt) .rne e.1).1, [e.2, (encodeF (laneFF o.tt) .rne e.1).2])
      else (wrapN (toIntF .rne (-2 ^ (w - 1)) (2 ^ (w - 1) - 1) e.1).1 w,
        [e.2, (toIntF .rne (-2 ^ (w - 1)) (2 ^ (w - 1) - 1) e.1).2])) ∧
  (∀ (o : OpVt1) (s : State), GivesRow s (exec (.vbcast o) s) o.d o.t.width 2 fun _ => srcLane s o.t o.a) ∧
  (∀ (o : OpVt2) (s : State),
    let w := o.t.width
    let n := 2048 / w
    let j := (opndS s o.b).toNat % n
    let x := laneN (srcVT s o.t .rne o.a) j w
    Gives s (exec (.vext o) s) [scalarTo s o.d 2 .bv (if o.t.isFloat then BitVec.ofNat 64 x else BitVec.ofInt 64 (sextN x w))] ∧
    GivesRow s (exec (.vperm o) s) o.d w 2
      (fun i => laneN (srcVT s o.t .rne o.a) (laneN (opndV s w o.b) i w % n) w) ∧
    ∃ r : Row, Gives s (exec (.vlane o) s)
        [vectorTo s o.d 2 .bv r (if active s.ctx.mask w j then oneLane w j else 0)] ∧
      laneN r j w = srcLane s o.t o.a % 2 ^ w ∧
      ∀ i, i < n → i ≠ j → laneN r i w = laneN (vReg s.sl o.d.r) i w) ∧
  (∀ (o : OpVrm) (s : State), ∃ r : Row,
    Gives s (exec (.vrm o) s) [vectorTo s o.d 2 .bv r (BitVec.allOnes 128)] ∧
    ∀ i, i < 256 →
      let k := (i + (sReg s.sl o.n).toNat % 512) % 512
      laneN r i 8 = if k < 256 then laneN (srcV s 64 o.a) k 8 else laneN (opndV s 64 o.b) (k - 256) 8)

/-- VREDS, VREDM and VSCAN over the active lanes, with latency 8, and TOPK, with latency 12 (R222 to R224). The sum of integer
lanes saturates once; a NaN in an active lane makes VREDM the canonical NaN; a prefix combines the previous active lane's
value with its own; TOPK ranks every lane, equal values by their index. -/
def Obligations.VectorReductions : Prop :=
  (∀ (o : OpVt1) (s : State),
    let w := o.t.width
    let n := 2048 / w
    let f := laneFF o.t
    let a (i : Nat) : Nat := laneN (srcVT s o.t .rne o.a) i w
    let on (i : Nat) : Bool := active s.ctx.mask w i
    let lo : Int := -2 ^ (w - 1)
    let hi : Int := 2 ^ (w - 1) - 1
    let live := (List.range n).filter on
    let total (l : List Nat) : Int := (l.map fun i => sextN (a i) w).sum
    (o.t.isFloat = false →
      GivesWith s (exec (.vreds o) s) [scalarTo s o.d 8 .bv (BitVec.ofInt 64 (max lo (min hi (total live))))] []) ∧
    (o.t.isFloat = true →
      let r := tree (addCode f) 8 ((List.range n).map fun i => if on i then some (a i) else none)
      GivesWith s (exec (.vreds o) s) [scalarTo s o.d 8 .bv (BitVec.ofNat 64 (loneCode f (r.1.getD 0)))] r.2) ∧
    (o.t.isFloat = false →
      (∃ x : Int, GivesWith s (exec (.vredmMax o) s) [scalarTo s o.d 8 .bv (BitVec.ofInt 64 x)] [] ∧
        (x = lo ∨ ∃ i ∈ live, x = sextN (a i) w) ∧ ∀ i ∈ live, sextN (a i) w ≤ x) ∧
      (∃ x : Int, GivesWith s (exec (.vredmMin o) s) [scalarTo s o.d 8 .bv (BitVec.ofInt 64 x)] [] ∧
        (x = hi ∨ ∃ i ∈ live, x = sextN (a i) w) ∧ ∀ i ∈ live, x ≤ sextN (a i) w)) ∧
    (o.t.isFloat = true → (∃ i ∈ live, (decodeF f (a i)).isNaN = true) →
      GivesWith s (exec (.vredmMax o) s) [scalarTo s o.d 8 .bv (BitVec.ofNat 64 f.nanCode)] [cNV] ∧
      GivesWith s (exec (.vredmMin o) s) [scalarTo s o.d 8 .bv (BitVec.ofNat 64 f.nanCode)] [cNV]) ∧
    (o.t.isFloat = true → (∀ i ∈ live, (decodeF f (a i)).isNaN = false) →
      (∃ x : Nat, GivesWith s (exec (.vredmMax o) s) [scalarTo s o.d 8 .bv (BitVec.ofNat 64 x)] [] ∧
        (x = f.signBit + f.infCode ∨ ∃ i ∈ live, x = a i) ∧ ∀ i ∈ live, ltZ (decodeF f x) (decodeF f (a i)) = false) ∧
      (∃ x : Nat, GivesWith s (exec (.vredmMin o) s) [scalarTo s o.d 8 .bv (BitVec.ofNat 64 x)] [] ∧
        (x = f.infCode ∨ ∃ i ∈ live, x = a i) ∧ ∀ i ∈ live, ltZ (decodeF f (a i)) (decodeF f x) = false)) ∧
    (∃ p : Nat → Nat × List Cause, GivesLanes s (exec (.vscan o) s) o.d w 8 p ∧
      ∀ i, i < n → on i = true →
        (o.t.isFloat = false →
          p i = (wrapN (max lo (min hi (total ((List.range (i + 1)).filter on)))) w, [])) ∧
        (o.t.isFloat = true → (∀ j, j < i → on j = false) → p i = (loneCode f (a i), [])) ∧
        (o.t.isFloat = true → ∀ j, j < i → on j = true → (∀ k, j < k → k < i → on k = false) →
          p i = addCode f (p j).1 (a i)))) ∧
  (∀ (o : OpVt2) (s : State),
    let w := o.t.width
    let n := 2048 / w
    let a (i : Nat) : Nat := laneN (srcVT s o.t .rne o.a) i w
    let k := (max 0 (min (n : Int) (opndS s o.b).toInt)).toNat
    let m := laneMaskOf s.ctx.mask w
    let low := if o.t.isFloat then (laneFF o.t).signBit + (laneFF o.t).infCode else 2 ^ (w - 1)
    ∃ (l : List Nat) (x y : Row), l.Perm (List.range n) ∧
      l.Pairwise (fun i j => topLt o.t (a i) (a j) = false ∧ (topLt o.t (a j) (a i) = false → i < j)) ∧
      (∀ i, i < n → laneN x i w = if i < k then a (l.getD i 0) else low) ∧
      (∀ i, i < n → laneN y i w = if i < k then l.getD i 0 else 2 ^ w - 1) ∧
      (o.d.n = true → Gives s (exec (.topk o) s) [vectorTo s o.d 12 .bv x m]) ∧
      (o.d.n = false → Gives s (exec (.topk o) s) [vectorTo s o.d 12 .bv x m, vectorOnly s (o.d.r + 1) 12 y m]))

/-- The special-function unit: where no slot of an earlier bundle holds it, an instruction takes it for 4 cycles on f32 and 8
on f16 and bf16, and gives each lane the function's rounded value and causes with latency 8 or 12; where one does, the
instruction waits (R225 to R229). -/
def Obligations.SpecialFunctionUnit : Prop :=
  let took (s : State) (t : LaneT) : State :=
    { (s.modMe fun k => { k with sfu := k.sfu + (if t = .f32 then 4 else 8) }) with eff := { s.eff with sfu := true } }
  let lat (t : LaneT) : Nat := if t = .f32 then 8 else 12
  (∀ (o : OpVt1) (s : State), (s.eff.sfu = true ∨ s.me.sfu = 0) →
    let gives (i : Instr) (op : SfuOp) : Prop :=
      GivesLanes (took s o.t) (exec i s) o.d o.t.width (lat o.t) fun j =>
        let r := sfuFV op (decodeF (laneFF o.t) (laneN (srcVT s o.t .rne o.a) j o.t.width))
        let e := encodeF (laneFF o.t) .rne r.1
        (e.1, [r.2, e.2])
    gives (.vexp2 o) .exp2 ∧ gives (.vlog2 o) .log2 ∧ gives (.vrcp o) .rcp ∧ gives (.vrsq o) .rsq ∧ gives (.vsig o) .sig ∧
    gives (.vtanh o) .tanh ∧ gives (.vsilu o) .silu ∧ gives (.vgelu o) .gelu) ∧
  (∀ (o : OpVt2) (s : State), (s.eff.sfu = true ∨ s.me.sfu = 0) →
    GivesLanes (took s o.t) (exec (.vexpd o) s) o.d o.t.width (lat o.t) fun j =>
      expdLane (laneFF o.t) (laneN (srcVT s o.t .rne o.a) j o.t.width) (laneN (opndVT s o.t .rne o.b) j o.t.width)) ∧
  (∀ (o : OpVt1) (s : State), s.eff.sfu = false → s.me.sfu ≠ 0 →
    ∀ i ∈ [Instr.vexp2 o, .vlog2 o, .vrcp o, .vrsq o, .vsig o, .vtanh o, .vsilu o, .vgelu o],
      exec i s = .next (s.freezeAt 3 .sfu)) ∧
  (∀ (o : OpVt2) (s : State), s.eff.sfu = false → s.me.sfu ≠ 0 → exec (.vexpd o) s = .next (s.freezeAt 3 .sfu))

/-- XPUSH opens or fills the block; XPOP gives rows of it, zero from an empty one, with latency 5 into the transposer latches,
and empties it after the last; modes 0 and 1 transpose lanes, mode 2 gives the planes of packed elements (R58, R230, R231).
That a special source has lanes of 64 bits, and that each XPOP records the causes of the row it gives, is log 56; the sign and
fraction planes of a NaN are those of its own code. -/
def Obligations.TransposerBlock : Prop :=
  (∀ (o : OpXpush) (s : State),
    let x := s.me.xpose
    let r := srcV s 64 o.a
    let fills : Prop := x.pushed ≠ [] ∧ x.mode = o.mode ∧ x.fmt = o.f.code ∧ x.popped = 0 ∧
      x.pushed.length < xIn o.mode o.f.code.toNat
    (fills → exec (.xpush o) s = .next (s.modMe fun k => { k with xpose := { x with pushed := x.pushed ++ [r] } })) ∧
    (¬fills → exec (.xpush o) s = .next (s.modMe fun k => { k with xpose := ⟨o.mode, o.f.code, [r], 0⟩ }))) ∧
  (∀ (o : OpXpop) (s : State), s.me.xpose.pushed = [] →
    Gives s (exec (.xpop o) s) [vectorTo s o.d 5 .bx 0 (BitVec.allOnes 128)]) ∧
  (∀ (o : OpXpop) (s : State),
    let x := s.me.xpose
    x.pushed ≠ [] →
    let x' : Xpose := if x.popped + 1 = xOut x.mode x.fmt.toNat then ⟨0, 0, [], 0⟩ else { x with popped := x.popped + 1 }
    let s' := s.modMe fun k => { k with xpose := x' }
    ∃ r : Row, GivesWith s' (exec (.xpop o) s) [vectorTo s o.d 5 .bx r (BitVec.allOnes 128)] (xRow x x.popped).2 ∧
      (x.mode = 0 → ∀ i, i < 64 → laneN r i 32 = laneN (x.pushed.getD i 0) x.popped 32) ∧
      (x.mode = 1 → ∀ i, i < 128 → laneN r i 16 = laneN (x.pushed.getD i 0) x.popped 16) ∧
      (x.mode = 2 → x.fmt ≠ 13 → x.fmt ≠ 9 → ∀ e, e < 2048 →
        let w := fmtWidth x.fmt.toNat
        let code := laneN (x.pushed.getD (e * w / 2048) 0) (e % (2048 / w)) w
        r.getLsbD e = (toPlanes x.fmt.toNat (eltFV x.fmt.toNat 0 code).1 code).getD x.popped false))

/-- DEFER appends an entry for each active lane, or none where the queue has no room, and says which in its predicate; both
count. DRAIN takes the oldest 64 entries of its tag, gives their values and identifiers, and keeps the rest in order
(R232, R233). -/
def Obligations.DeferralQueue : Prop :=
  (∀ (o : OpDefer) (s : State),
    let q := s.sl.dq
    let ls := (List.range 64).filter fun i => (mReg s.sl o.m).getLsbD (2 * i) && (mReg s.sl o.m).getLsbD (2 * i + 1)
    let es : List Defd := ls.map fun i =>
      ⟨(opndS s o.b).setWidth 8, BitVec.ofNat 32 (64 * q.toNat + i),
       (List.range (o.k.toNat + 1)).map fun r => BitVec.ofNat 32 (laneN (vReg s.sl (o.a + BitVec.ofNat 5 r)) i 32)⟩
    let s1 := s.modSl fun sl => { sl with dq := q + 1 }
    (s.me.deferred.length + ls.length ≤ 1024 →
      Gives (s1.modMe fun k => { k with deferred := k.deferred ++ es }) (exec (.defer o) s) [predTo s o.d 2 false]) ∧
    (1024 < s.me.deferred.length + ls.length →
      Gives (s1.modMe fun k => countEvt k 11 1) (exec (.defer o) s) [predTo s o.d 2 true])) ∧
  (∀ (o : OpDrain) (s : State),
    let tag := (srcS s o.a).setWidth 8
    let es := (s.me.deferred.filter fun e => e.tag == tag).take 64
    ∃ (rest : List Defd) (v : Nat → Row) (ids : Row),
      rest.filter (fun e => e.tag == tag) = (s.me.deferred.filter fun e => e.tag == tag).drop 64 ∧
      rest.filter (fun e => e.tag != tag) = (s.me.deferred.filter fun e => e.tag != tag) ∧
      rest.Sublist s.me.deferred ∧
      (∀ r i, i < 64 → laneN (v r) i 32 = match es[i]? with
        | some e => (e.vals.getD r 0).toNat
        | none => 0) ∧
      (∀ i, i < 64 → laneN ids i 32 = match es[i]? with
        | some e => e.id.toNat
        | none => 0xFFFFFFFF) ∧
      let s' := s.modMe fun k => { k with deferred := rest }
      let n := o.k.toNat + 1
      let all := BitVec.allOnes 128
      (o.d.n = true → Gives s' (exec (.drain o) s) [vectorTo s o.d 4 .bv (v 0) all]) ∧
      (o.d.n = false → Gives s' (exec (.drain o) s)
        (vectorTo s o.d 4 .bv (v 0) all ::
          (((List.range (n - 1)).map fun r => vectorOnly s (o.d.r + BitVec.ofNat 5 (r + 1)) 4 (v (r + 1)) all) ++
           [vectorOnly s (o.d.r + BitVec.ofNat 5 n) 4 ids all]))))

/-! ## Matrix instructions -/

/-- MMA, MMAS, MMAT and KAT: with the guard true, the checks of R254 passed, the factors known and no block scales, the
operation enters the array's queue with its tiles, widths and factors, the accumulator's record adopts or equals the product's
factors, p7 is false where the instruction may hold, which it does no longer than s25 says, and MPC steps by 4; with the guard false only MPC steps
(R78, R234 to R240, R253, R260 to R262). -/
def Obligations.MatrixProductsEnterTheQueue : Prop :=
  let step4 (s : State) : State :=
    s.modSl fun sl => { sl with mpc := (sl.mpc + 4) &&& 0x000FFFFFFFFFFFFC }
  let passes (s : State) (op : MOp) (d : BitVec 3) (mA mB : Nat) : Prop :=
    (s.me.mq.filter fun o => o.follow.isNone).length < 4 ∧ op.tA.v = true ∧ op.tB.v = true ∧
    (∃ f, pairAcc op.fa op.fb = some f ∧ (f = .f64 → d.getLsbD 0 = false)) ∧
    badPrec op.fa mA = false ∧ badPrec op.fb mB = false ∧ op.tA.scbase = 0 ∧ op.tB.scbase = 0 ∧
    ∀ e ∈ arrRows op, e.2 ≠ 0 → e.1 + e.2 ≤ 8192
  let queued (s : State) (op : MOp) : State := s.modMe fun k => { k with
    mq := k.mq ++ [{ op with seq := k.useq }]
    useq := k.useq + 1 }
  let multiplies (i : Instr) (s0 s : State) (op : MOp) (d : BitVec 3) (mA mB : Nat) : Prop :=
    passes s op d mA mB → innerConst op = true → badInner op = false → badShift op = false →
    waited s.me ≤ (sReg s.sl 25).toNat % 2 ^ 32 →
    ∀ (r : FRec) (ks : List Cause) (sl : Slot), outerFactors s s.cur op = (r, ks, none) →
      ((vget s.sl.adopt d.toNat true = true ∧
          sl = { (s.sl.setFrec (24 + d.toNat) r) with adopt := vset s.sl.adopt d.toNat false }) ∨
        (vget s.sl.adopt d.toNat true = false ∧ s.sl.frec (24 + d.toNat) = r ∧ sl = s.sl)) →
      exec i s0 = .next (step4 (((queued (s.setSl sl) op).sticky ks).deliverP 7 false 1))
  (∀ (o : OpMma) (s : State), guardOn s o.g = true →
    let m := precOf o.prec
    multiplies (.mma o) s s (arrOp s (.mma o) o.ta o.tb m.1 m.2 32 0) o.d m.1 m.2) ∧
  (∀ (o : OpMma) (s s' : State) (w : BitVec 32), guardOn s o.g = true → metaWord s = .ok (s', w) →
    w.getLsbD 14 = true → w.extractLsb' 15 17 = 0 →
    let m := precOf o.prec
    multiplies (.mmas o) s s' (arrOp s (.mmas o) o.ta o.tb m.1 m.2 64 w) o.d m.1 m.2) ∧
  (∀ (o : OpMmat) (s : State), guardOn s o.g = true →
    multiplies (.mmat o) s s (arrOp s (.mmat o) o.ta o.tb o.mA.toNat o.mB.toNat (o.k1.toNat + 1) 0) o.d
      o.mA.toNat o.mB.toNat) ∧
  (∀ (o : OpKat) (s : State), guardOn s o.g = true →
    let op := { arrOp s (.kat o) o.ta o.tb 0 0 32 0 with
      fA := .identity
      fB := .identity }
    passes s op o.d 0 0 → exec (.kat o) s = .next (step4 (queued s op))) ∧
  (∀ (o : OpMma) (s : State), guardOn s o.g = false →
    exec (.mma o) s = .next (step4 s) ∧ exec (.mmas o) s = .next (step4 s)) ∧
  (∀ (o : OpMmat) (s : State), guardOn s o.g = false → exec (.mmat o) s = .next (step4 s)) ∧
  (∀ (o : OpKat) (s : State), guardOn s o.g = false → exec (.kat o) s = .next (step4 s))

/-- The checks of MMA, MMAS, MMAT and KAT in their order: each traps, with nothing queued, where those before it pass, and a
product holds where a factor that it applies is not constant, until the limit of s25 (R239, R253, R254, R260, R262, R275). That
FXFMT, FXSHIFT, the range and the hold come before the matrix checks is the order of R275 (log 62). -/
def Obligations.MatrixCheckTraps : Prop :=
  let step4 (s : State) : State := s.modSl fun sl => { sl with mpc := (sl.mpc + 4) &&& 0x000FFFFFFFFFFFFC }
  let room (s : State) : Prop := (s.me.mq.filter fun q => q.follow.isNone).length < 4
  let tiles (op : MOp) : Prop := op.tA.v = true ∧ op.tB.v = true
  let fits (e : Nat × Nat) : Prop := e.2 ≠ 0 → e.1 + e.2 ≤ 8192
  let pairs (op : MOp) (d : BitVec 3) : Prop := ∃ f, pairAcc op.fa op.fb = some f ∧ (f = .f64 → d.getLsbD 0 = false)
  let precs (op : MOp) (mA mB : Nat) : Prop := badPrec op.fa mA = false ∧ badPrec op.fb mB = false
  let scales (op : MOp) : Prop := scaleOk op.tA 1 (kOrg op.tA) = true ∧ scaleOk op.tB 2 (kOrg op.tA) = true
  -- the matrix checks of R254, MXPAIR to MXSCALE
  let matrix (traps : BitVec 16 → Word → Prop) (before : Prop) (op : MOp) (d : BitVec 3) (mA mB : Nat) : Prop :=
    (before → pairAcc op.fa op.fb = none → traps 0x0401 0) ∧
    (before → pairAcc op.fa op.fb = some .f64 → d.getLsbD 0 = true → traps 0x0402 0) ∧
    (before → pairs op d → ¬precs op mA mB → traps 0x0403 0) ∧
    (before → pairs op d → precs op mA mB → ¬scales op → traps 0x0406 0)
  -- the first row outside the scratchpad
  let range (traps : BitVec 16 → Word → Prop) (before : Prop) (op : MOp) : Prop :=
    ∀ l e r, before → arrRows op = l ++ e :: r → (∀ x ∈ l, fits x) → ¬fits e →
      traps 0x0205 (BitVec.ofNat 64 (max e.1 8192))
  let product (i : Instr) (s0 s : State) (op : MOp) (d : BitVec 3) (mA mB : Nat) : Prop :=
    let traps (cause : BitVec 16) (tval : Word) : Prop := exec i s0 = .next (s.trap cause tval 2)
    let limit := (sReg s.sl 25).toNat % 2 ^ 32
    let known : Prop := room s ∧ tiles op ∧ badInner op = false ∧ badShift op = false
    let inRange : Prop := ∀ e ∈ arrRows op, fits e
    let ready : Prop := known ∧ inRange ∧ innerConst op = true ∧ waited s.me ≤ limit
    (¬room s → traps 0x0407 0) ∧
    (room s → ¬tiles op → traps 0x0301 1) ∧
    (room s → tiles op → badInner op = true → traps 0x0410 0) ∧
    (room s → tiles op → badInner op = false → badShift op = true → traps 0x0412 0) ∧
    range traps known op ∧
    (known → inRange → innerConst op = false → s.me.hold = none ∨ (∃ h, s.me.hold = some h ∧ h.met = []) →
      (waited s.me < limit → exec i s0 = .next (s.hold .factor limit)) ∧
      (limit ≤ waited s.me → exec i s0 = .next (step4 (s.deliverP 7 true 1)))) ∧
    matrix traps ready op d mA mB ∧
    ∀ r ks, ready → pairs op d → precs op mA mB → scales op → outerFactors s s.cur op = (r, ks, none) →
      (vget s.sl.adopt d.toNat true = false → s.sl.frec (24 + d.toNat) ≠ r → traps 0x0404 0) ∧
      (vget s.sl.adopt d.toNat true = true ∨ s.sl.frec (24 + d.toNat) = r → pendingAcc s.me = false →
        let (a, b) := opScales op (nChunks op)
        ∀ va x, pageStop (look s s.cur s.sl.asn s.sl.sup .rd) (a ++ b) = some (va, .fault x) →
          exec i s0 = .next ((seeRefusal s s.sl.asn va).trap x (va.setWidth 64) 2))
  (∀ (o : OpMma) (s : State), guardOn s o.g = true →
    let m := precOf o.prec
    product (.mma o) s s (arrOp s (.mma o) o.ta o.tb m.1 m.2 32 0) o.d m.1 m.2) ∧
  (∀ (o : OpMma) (s s' : State) (w : BitVec 32), guardOn s o.g = true → metaWord s = .ok (s', w) →
    w.getLsbD 14 = true → w.extractLsb' 15 17 = 0 →
    let m := precOf o.prec
    product (.mmas o) s s' (arrOp s (.mmas o) o.ta o.tb m.1 m.2 64 w) o.d m.1 m.2) ∧
  (∀ (o : OpMma) (s s' : State) (w : BitVec 32), guardOn s o.g = true → metaWord s = .ok (s', w) →
    w.getLsbD 14 = false ∨ w.extractLsb' 15 17 ≠ 0 → exec (.mmas o) s = .next s.badMeta) ∧
  (∀ (o : OpMmat) (s : State), guardOn s o.g = true →
    product (.mmat o) s s (arrOp s (.mmat o) o.ta o.tb o.mA.toNat o.mB.toNat (o.k1.toNat + 1) 0) o.d o.mA.toNat o.mB.toNat) ∧
  ∀ (o : OpKat) (s : State), guardOn s o.g = true →
    let op := { arrOp s (.kat o) o.ta o.tb 0 0 32 0 with
      fA := .identity
      fB := .identity }
    let traps (cause : BitVec 16) (tval : Word) : Prop := exec (.kat o) s = .next (s.trap cause tval 2)
    (¬room s → traps 0x0407 0) ∧
    (room s → ¬tiles op → traps 0x0301 1) ∧
    matrix traps (room s ∧ tiles op) op o.d 0 0 ∧
    range traps (room s ∧ tiles op ∧ pairs op o.d ∧ precs op 0 0 ∧ scales op) op

/-- ACLR, ACCLD and ACCST enter the queue and step MPC by 4; ACLR and ACCLD make the accumulator's record identity, open to
adoption after ACLR alone; a full queue and rows outside the scratchpad trap; MPCSET sets bits 51:2 of MPC (R85, R240, R245,
R246). -/
def Obligations.AccumulatorInstructions : Prop :=
  let step4 (s : State) : State := s.modSl fun sl => { sl with mpc := (sl.mpc + 4) &&& 0x000FFFFFFFFFFFFC }
  let queued (s : State) (op : MOp) : State := s.modMe fun k => { k with
    mq := k.mq ++ [{ op with seq := k.useq }]
    useq := k.useq + 1 }
  let fresh (s : State) (d : BitVec 3) (b : Bool) : State := s.modSl fun sl =>
    { (sl.setFrec (24 + d.toNat) .identity) with adopt := vset sl.adopt d.toNat b }
  let room (s : State) : Prop := (s.me.mq.filter fun q => q.follow.isNone).length < 4
  let op (s : State) (i : Instr) (x occ : Nat) : MOp := { blankOp s i with
    rowA := x
    occ := occ }
  (∀ (o : OpAclr) (s : State), room s →
    exec (.aclr o) s = .next (step4 (queued (fresh s o.d true) (op s (.aclr o) 0 1)))) ∧
  (∀ (o : OpAcc) (s : State), room s →
    let x := (srcS s o.a + o.o.setWidth 64).toNat
    (x + 64 ≤ 8192 →
      exec (.accld o) s = .next (step4 (queued (fresh s o.d false) (op s (.accld o) x 64))) ∧
      exec (.accst o) s = .next (step4 (queued s (op s (.accst o) x 64)))) ∧
    (8192 < x + 64 →
      exec (.accld o) s = .next (s.trap 0x0205 (BitVec.ofNat 64 (max x 8192)) 2) ∧
      exec (.accst o) s = .next (s.trap 0x0205 (BitVec.ofNat 64 (max x 8192)) 2))) ∧
  (∀ (o : OpAclr) (s : State), ¬room s → exec (.aclr o) s = .next (s.trap 0x0407 0 2)) ∧
  (∀ (o : OpB) (s : State), ∃ x : Word, exec (.mpcset o) s = .next (s.modSl fun sl => { sl with mpc := x }) ∧
    x.extractLsb' 0 2 = 0 ∧ x.extractLsb' 52 12 = 0 ∧ x.extractLsb' 2 50 = (opndS s o.b).extractLsb' 2 50)

/-- The tile instructions: with valid identifiers, admitted formats, rows inside the scratchpad, room in the queue and no hold
beyond the limit of s25, each enters the queue and gives D its record: TADD doubles A's shifts, TSUB drops them, TMUL joins both records or applies both,
TSCALE multiplies row scales and shifts, TRELU and RESOLVE leave identity, TCVT copies A's record (R263, R268 to R270, R277). -/
def Obligations.TileInstructions : Prop :=
  let issued (s : State) (op : MOp) (t : TidEnt) (r : FRec) (ks : List Cause) : State :=
    (((s.modSl fun sl => setTileRec sl t r).modMe fun k => { k with
        mq := k.mq ++ [{ op with seq := k.useq }]
        useq := k.useq + 1 }).sticky ks).modSl fun sl => { sl with mpc := (sl.mpc + 4) &&& 0x000FFFFFFFFFFFFC }
  let room (s : State) : Prop := (s.me.mq.filter fun q => q.follow.isNone).length < 4 ∧
    waited s.me ≤ (sReg s.sl 25).toNat % 2 ^ 32
  let tile (t : TidEnt) (row : Nat) : Prop := t.v = true ∧ t.fmt.toNat ≤ 3 ∧ row + (if t.fmt = 0 then 128 else 64) ≤ 8192
  (∀ (o : OpT2) (s : State),
    let a := s.sl.tid o.ta.toNat
    let b := s.sl.tid o.tb.toNat
    let d := s.sl.tid o.td.toNat
    let op (i : Instr) : MOp := { tileOp s i a b d 0 with occ := tileOcc [a, b, d] }
    let fA := tileRec s.sl a
    let fB := tileRec s.sl b
    room s → tile a (rowBase s 28) → tile b (rowBase s 29) → tile d (rowBase s 27) → badSat o.rm d [a, b] = false →
    (fA = fB →
      exec (.tadd o) s = .next (issued s (op (.tadd o)) d (addRec fA).1 (addRec fA).2) ∧
      exec (.tsub o) s = .next (issued s (op (.tsub o)) d ⟨fA.rs, fA.cs, FRec.identity.rh, FRec.identity.ch⟩ [])) ∧
    (fA ≠ fB → exec (.tadd o) s = .next (s.trap 0x0411 0 2) ∧ exec (.tsub o) s = .next (s.trap 0x0411 0 2)) ∧
    (fA.noShift = true → fB.noShift = true → mulFits fA fB = true →
      exec (.tmul o) s = .next ((issued s (op (.tmul o)) d (mulRec fA fB).1 (mulRec fA fB).2).deliverP 7 false 1)) ∧
    ((fA.noShift = false ∨ fB.noShift = false) → fA.const = true → fB.const = true →
      exec (.tmul o) s = .next ((issued s (op (.tmul o)) d .identity []).deliverP 7 false 1))) ∧
  (∀ (o : OpTscale) (s : State),
    let a := s.sl.tid o.ta.toNat
    let d := s.sl.tid o.td.toNat
    let y : Word := BitVec.ofNat 64 (opndSF s .f64 o.rm o.b)
    let r := scaleRec y (tileRec s.sl a)
    room s → tile a (rowBase s 28) → tile d (rowBase s 27) → badSat o.rm d [a] = false →
    exec (.tscale o) s =
      .next (issued s { tileOp s (.tscale o) a .invalid d y with occ := tileOcc [a, d] } d r.1 r.2)) ∧
  (∀ (o : OpT1) (s : State),
    let a := s.sl.tid o.ta.toNat
    let d := s.sl.tid o.td.toNat
    let f := tileRec s.sl a
    room s → badSat o.rm d [a] = false →
    (tile a (rowBase s 28) → tile d (rowBase s 27) → f.const = true →
      exec (.trelu o) s = .next ((issued s { tileOp s (.trelu o) a .invalid d 0 with occ := tileOcc [a, d] } d
        .identity []).deliverP 7 false 1)) ∧
    (tile a (rowBase s 28) → tile d (rowBase s 27) → a.fmt ≠ 0 → d.fmt ≠ 0 → texpdReady f = true →
      let op := { tileOp s (.texpd o) a .invalid d 0 with occ := 256 }
      ∀ r ks, texpdRec s op = (r, ks, none) →
        exec (.texpd o) s = .next ((issued s op d r ks).deliverP 7 false 1)) ∧
    (a.v = true → d.v = true →
      let op := tileOp s (.tcvt o) a .invalid d 0
      let na := cvtRows a.fmt.toNat op.layS
      let nd := cvtRows d.fmt.toNat op.layD
      cvtBad a op.layS = false → cvtBad d op.layD = false → op.rowA + na ≤ 8192 → op.rowD + nd ≤ 8192 →
        exec (.tcvt o) s = .next (issued s { op with occ := na + nd } d f []))) ∧
  (∀ (o : OpT) (s : State),
    let a := s.sl.tid o.t.toNat
    room s → tile a (rowBase s 28) → (tileRec s.sl a).const = true →
    exec (.resolve o) s = .next ((issued s { tileOp s (.resolve o) a .invalid .invalid 0 with occ := tileOcc [a] } a
      .identity []).deliverP 7 false 1))

/-- The record instructions: FSET, FCLR, FCOPY, FCOPY.acc and FBIND change one record, FREAD reads one slot of one; each steps
MPC by 4. A tile identifier that is not valid traps with reason 1 (R272 to R274). That FBIND of a sealed entry folds at once
and needs no room for a handle is log 63. -/
def Obligations.RecordInstructions : Prop :=
  let step4 (s : State) : State := s.modSl fun sl => { sl with mpc := (sl.mpc + 4) &&& 0x000FFFFFFFFFFFFC }
  let setRec (s : State) (t : TidEnt) (r : FRec) : State := s.modSl fun sl => setTileRec sl t r
  (∀ (o : OpFset) (s : State),
    let t := s.sl.tid o.ta.toNat
    let r := tileRec s.sl t
    let v : Word := BitVec.ofNat 64 (opndSF s .f64 .rne o.b)
    let i := o.slot.toNat
    (t.v = true → exec (.fset o) s = .next (step4 (setRec s t (match o.k with
      | .rs => { r with rs := vset r.rs i { rsAt r i with coef := v, h0v := false, h1v := false } }
      | .cs => { r with cs := vset r.cs i { csAt r i with coef := v, h0v := false, h1v := false } }
      | .rh => { r with rh := vset r.rh i { rhAt r i with val := v, hv := false, mul := 0 } }
      | .ch => { r with ch := vset r.ch i { chAt r i with val := v, hv := false, mul := 0 } })))) ∧
    (t.v = false → exec (.fset o) s = .next (s.trap 0x0301 1 2))) ∧
  (∀ (o : OpT) (s : State), (s.sl.tid o.t.toNat).v = true →
    exec (.fclr o) s = .next (step4 (setRec s (s.sl.tid o.t.toNat) .identity)) ∧
    exec (.fcopyAcc o) s =
      .next (step4 (setRec s (s.sl.tid o.t.toNat) (s.sl.frec (24 + (sReg s.sl 26).toNat % 8))))) ∧
  (∀ (o : OpTT) (s : State), (s.sl.tid o.ta.toNat).v = true → (s.sl.tid o.tb.toNat).v = true →
    exec (.fcopy o) s = .next (step4 (setRec s (s.sl.tid o.tb.toNat) (tileRec s.sl (s.sl.tid o.ta.toNat))))) ∧
  (∀ (o : OpFset) (s : State),
    let h := opndS s o.b
    let t := s.sl.tid o.ta.toNat
    let r := tileRec s.sl t
    let e := s.sl.red (h.toNat % 128)
    t.v = true → h.getLsbD 16 = false → (h.getLsbD 17 = true → o.slot = 0) →
    waited s.me ≤ (sReg s.sl 25).toNat % 2 ^ 32 →
    (e.state = .sealed ∨ (e.state = .opened ∧ ∀ b ∈ bindTerms o h, hasRoom r o.k b.1 = true)) →
    exec (.fbind o) s =
      .next (step4 (((setRec s t (bindRec e o.k (bindTerms o h) r).1).sticky (bindRec e o.k (bindTerms o h) r).2).deliverP
        7 false 1))) ∧
  (∀ (o : OpFread) (s : State),
    let x := opndS s o.b
    let t := s.sl.tid o.ta.toNat
    let i := (x.extractLsb' 0 6).toNat
    let part := (x.extractLsb' 8 2).toNat
    let r := if x.getLsbD 10 then s.sl.frec (24 + (x.extractLsb' 11 3).toNat) else tileRec s.sl t
    (x.getLsbD 10 = true ∨ t.v = true) →
    ∃ y : Word, exec (.fread o) s = .next (step4 (s.sending [scalarOnly s o.d.r o.d.n 1 y])) ∧
      (part = 0 → y = match (x.extractLsb' 6 2).toNat with
        | 0 => (rsAt r i).coef
        | 1 => (csAt r i).coef
        | 2 => (rhAt r i).val
        | _ => (chAt r i).val) ∧
      (part = 2 → y = match (x.extractLsb' 6 2).toNat with
        | 2 => (rhAt r i).mul
        | 3 => (chAt r i).mul
        | _ => 0) ∧
      (part = 3 → y = 0))

/-- The reduction instructions: RRTALLOC takes the lowest free entry or answers −1; RROW, RCOL and RSEAL enter the queue for an
open entry; RRTFREE frees an entry that nothing names; an entry not in that state traps (R264 to R267). -/
def Obligations.ReductionInstructions : Prop :=
  let step4 (s : State) : State := s.modSl fun sl => { sl with mpc := (sl.mpc + 4) &&& 0x000FFFFFFFFFFFFC }
  let queued (s : State) (op : MOp) : State := s.modMe fun k => { k with
    mq := k.mq ++ [{ op with seq := k.useq }]
    useq := k.useq + 1 }
  let room (s : State) : Prop := (s.me.mq.filter fun q => q.follow.isNone).length < 4
  (∀ (o : OpRrt) (s : State),
    let answer (s' : State) (x : Word) : Prop :=
      exec (.rrtalloc o) s = .next (step4 (s'.sending [scalarOnly s o.d.r o.d.n 1 x]))
    ((∀ i, i < 128 → (s.sl.red i).state ≠ .free) → answer s (BitVec.allOnes 64)) ∧
    (∀ i, i < 128 → (s.sl.red i).state = .free → (∀ j, j < i → (s.sl.red j).state ≠ .free) →
      answer (s.modSl fun sl => sl.setRed i (newRed o.op ((srcS s o.a).setWidth 32)
        (BitVec.ofNat 64 (opndSF s .f64 .rne o.b)))) (BitVec.ofNat 64 i))) ∧
  (∀ (o : OpRed) (s : State),
    let a := s.sl.tid o.ta.toNat
    let x := opndS s o.b
    let op (i : Instr) : MOp := { tileOp s i a .invalid .invalid x with occ := tileOcc [a] }
    room s → a.v = true → a.fmt.toNat ≤ 3 → rowBase s 28 + (if a.fmt = 0 then 128 else 64) ≤ 8192 →
    ((x.toNat < 128 ∧ (s.sl.red x.toNat).state = .opened ∧ (s.sl.red x.toNat).op = o.op) → (tileRec s.sl a).const = true →
      waited s.me ≤ (sReg s.sl 25).toNat % 2 ^ 32 →
      exec (.rrow o) s = .next ((step4 (queued s (op (.rrow o)))).deliverP 7 false 1) ∧
      exec (.rcol o) s = .next ((step4 (queued s (op (.rcol o)))).deliverP 7 false 1)) ∧
    (¬(x.toNat < 128 ∧ (s.sl.red x.toNat).state = .opened ∧ (s.sl.red x.toNat).op = o.op) →
      exec (.rrow o) s = .next (s.trap 0x0413 0 2) ∧ exec (.rcol o) s = .next (s.trap 0x0413 0 2))) ∧
  (∀ (o : OpB) (s : State),
    let x := opndS s o.b
    (room s → x.toNat < 128 → (s.sl.red x.toNat).state = .opened →
      exec (.rseal o) s =
        .next (step4 (queued s { tileOp s (.rseal o) .invalid .invalid .invalid x with occ := 2 }))) ∧
    (x.toNat < 128 → entNamed s x.toNat = false →
      exec (.rrtfree o) s = .next (step4 (s.modSl fun sl => sl.setRed x.toNat { sl.red x.toNat with state := .free }))) ∧
    (x.toNat < 128 → entNamed s x.toNat = true → exec (.rrtfree o) s = .next (s.trap 0x0414 0 2)) ∧
    (128 ≤ x.toNat → exec (.rrtfree o) s = .next (s.trap 0x0413 0 2)))

/-- What the array's operations do in its cycles and leave at the end of their occupancy: a product starts with its accumulator
as the queue leaves it and the rows of its first chunk, each chunk's end adds that chunk to it under R62 or R63, its sum is
due seven cycles after the last of the occupancy, an ACLR's zeroes one, the rows that an ACCLD has read three; ACCST and the
tile operations write one row a cycle; RROW and RCOL contribute to their entry and RSEAL seals and folds it; a due write
stores its rows in its accumulator, and no other accumulator of the slot and no memory changes (R237, R242 to R245, R265,
R267, R268, R270). -/
def Obligations.ArrayOperationsEnd : Prop :=
  (∀ (s : State) (c : Nat) (o : MOp) (n i : Nat), i < 64 → n < 8 →
    let row (u : State) (k : Nat) : Row := accRow ((u.core c).slotOf o.slot) k i
    let due (d : Nat) (p : MOp) : Prop := ((opFinish s c o).core c).mdue = (s.core c).mdue ++ [(d, p)] ∧
      row (opFinish s c o) n = row s n ∧ (opFinish s c o).mem = s.mem
    (o.kind = .aclr → due 1 { o with acc := List.replicate 64 0 }) ∧
    (o.kind = .accld → due 3 { o with acc := o.src, src := [] }) ∧
    (o.kind = .mma ∨ o.kind = .mmas ∨ o.kind = .mmat → due 7 o) ∧
    (o.kind = .aclr ∨ o.kind = .accld ∨ o.kind = .mma ∨ o.kind = .mmas ∨ o.kind = .mmat →
      o.acc.length = 64 → o.follow = none → (s.core c).mdue = [] →
      row (dueWrite s c o) n = (if n = accNo o.instr then o.acc.getD i 0 else row s n) ∧ (dueWrite s c o).mem = s.mem)) ∧
  -- a product's cycles
  (∀ (s : State) (c : Nat) (o : MOp) (q : List MOp) (b : Bool), (s.core c).mdue = [] → (s.core c).mq = o :: q →
    o.slot = b → o.follow = none → o.wait = 0 → o.kind = .mma ∨ o.kind = .mmas ∨ o.kind = .mmat →
    let u := arrayCycle s s c (some b)
    u.2 = none →
    let mq := (u.1.core c).mq
    let sum := chunkResult o o.next o.src o.acc
    (o.run = none → o.next = 0 → 0 < nChunks o → 1 < chunkEnd o 0 → 1 < o.occ → ∃ p, mq.head? = some p ∧ p.run = some 1 ∧ p.next = 0 ∧
      p.src = (chunkReads s c o 0).1 ∧
      p.acc = loadAcc ((s.core c).slotOf b) (accNo o.instr) (if (pairAcc o.fa o.fb) = some .f64 then 2 else 1) ∧
      u.1.mem = s.mem) ∧
    (∀ r, o.run = some r → r + 1 = chunkEnd o o.next → chunkStart o o.next < r →
      (o.next + 1 < nChunks o → r + 1 < o.occ → r + 1 < chunkEnd o (o.next + 1) → ∃ p, mq.head? = some p ∧ p.acc = sum.1 ∧
        p.next = o.next + 1 ∧ p.run = some (r + 1) ∧ p.causes = o.causes ++ sum.2 ∧ u.1.mem = s.mem) ∧
      (o.next + 1 = nChunks o → r + 1 = o.occ → mq.length = q.length ∧ u.1.mem = s.mem ∧
        ∃ p, (u.1.core c).mdue = [(7, p)] ∧ p.acc = sum.1 ∧ p.instr = o.instr ∧ p.causes = o.causes ++ sum.2))) ∧
  -- the sum of a chunk
  (∀ (o : MOp) (c i j : Nat) (src acc : List Row) (f : AccF), i < 64 → j < 64 → o.kind = .mma ∨ o.kind = .mmat →
    pairAcc o.fa o.fb = some f →
    let a (k : Nat) : FV := fromPlanes o.fa o.mA (planeBits (src.take (planeP o.fa)) (32 * i + k))
    let b (k : Nat) : FV := (preB o (32 * c + k) (planeBits ((src.drop (planeP o.fa)).take (planeP o.fb)) (32 * j + k))).1
    let scale := (mulFV (scaleVal o.scA (i * nChunks o + c)) (scaleVal o.scB (j * nChunks o + c))).1
    let p := (List.range 32).map fun k => if 32 * c + k < o.k then (mulFV (mulFV (a k) (b k)).1 scale).1 else .zero
    let e := accElt f acc i j
    accElt f (chunkResult o c src acc).1 i j =
      (if f = .i32 then (chunkInt (wrapBit o.instr) p e).1 else (chunkFloat f.ff (windowW o.fa o.fb) p e).1) % 2 ^ f.width) ∧
  -- one row a cycle
  (∀ (s : State) (c r : Nat) (o : MOp) (q : List MOp) (b : Bool), (s.core c).mdue = [] → (s.core c).mq = o :: q →
    o.slot = b → o.follow = none → o.wait = 0 → o.run = some r → r < o.occ →
    (∀ x, opWrites o r = some x → journalWaits s c o x = false) →
    let u := arrayCycle s s c (some b)
    u.2 = none →
    (o.kind = .accst → 1 ≤ r → o.rowA + r - 1 < 8192 → u.1.rdRow c (o.rowA + r - 1) = o.acc.getD (r - 1) 0 ∧
      ∀ x, x < 8192 → x ≠ o.rowA + r - 1 → u.1.rdRow c x = s.rdRow c x) ∧
    (o.kind = .tadd ∨ o.kind = .tsub ∨ o.kind = .tmul ∨ o.kind = .tscale ∨ o.kind = .trelu ∨ o.kind = .resolve →
      let h := r / 64
      let i := r % 64
      let fd := if o.kind = .resolve then o.fa else o.fd
      let x := tileRow (if o.kind = .resolve then o.rowA else o.rowD) fd h i
      let ra := tileRow o.rowA o.fa h i
      let rb := tileRow o.rowB o.fb h i
      let a (j : Nat) : FV := decodeF (fmtFF o.fa) (laneN (s.rdRow c ra) (tileLane o.fa j) (tileW o.fa))
      let b (j : Nat) : FV := decodeF (fmtFF o.fb) (if o.kind = .tadd ∨ o.kind = .tsub ∨ o.kind = .tmul then
        laneN (s.rdRow c rb) (tileLane o.fb j) (tileW o.fb) else 0)
      fd ≤ 3 → (fd = 0 → o.occ = 128) → x < 8192 → ra < 8192 → rb < 8192 →
      (∀ j, j < 64 → (o.occ = 128 → j / 32 = h) →
        laneN (u.1.rdRow c x) (tileLane fd j) (tileW fd) =
          (encodeF (fmtFF fd) (tileRm o.instr) (tileVal o i j (a j) (b j)).1).1 % 2 ^ tileW fd) ∧
      ∀ y, y < 8192 → y ≠ x → u.1.rdRow c y = s.rdRow c y) ∧
    (o.kind = .texpd ∨ o.kind = .tcvt → ∀ x, opWrites o r = some x → x < 8192 →
      u.1.rdRow c x = (opRow o r (o.src ++ (opReads s c o r).1) (s.rdRow c x)).1 ∧
      ∀ y, y < 8192 → y ≠ x → u.1.rdRow c y = s.rdRow c y) ∧
    (o.kind = .rrow ∨ o.kind = .rcol → r + 1 = o.occ → o.bval.toNat < 128 →
      let p : MOp := { o with src := o.src ++ (opReads s c o r).1 }
      let old := ((s.core c).slotOf b).red o.bval.toNat
      let l (i j : Nat) : FV := (lval o.fA i j (decodeF (fmtFF o.fa)
        (laneN (p.src.getD (if o.fa = 0 then 64 * (j / 32) + i else i) 0) (tileLane o.fa j) (tileW o.fa)))).1
      let new := ((u.1.core c).slotOf b).red o.bval.toNat
      new.state = old.state ∧ new.op = old.op ∧ u.1.mem = s.mem ∧ ∀ e, e < 64 →
        let t := (contribute old e ((List.range 64).map fun k => if o.kind = .rrow then l e k else l k e)).1
        vget new.val e 0 = vget t.val e 0 ∧ vget new.sse e 0 = vget t.sse e 0) ∧
    (o.kind = .rseal → r + 1 = o.occ → o.bval.toNat < 128 →
      let sl := (s.core c).slotOf b
      let n := o.bval.toNat
      let t := (foldAll (sl.setRed n (sealRed (sl.red n)).1) n).1
      let new := (u.1.core c).slotOf b
      (new.red n).state = .sealed ∧ new.red n = t.red n ∧ new.factors = t.factors ∧ u.1.mem = s.mem))

/-! ## Scratchpad and memory -/

/-- LDR, LDS, STR and STS: a row outside the scratchpad traps with TVAL the row; a clean row is read byte by byte with latency 6
into the load latches; a store writes exactly its row, or its lane of 8 bytes, and no other byte, no register and no other
core changes (R85, R282). -/
def Obligations.ScratchpadRowsAndLanes : Prop :=
  let kept (s t : State) : Prop := OthersKept s t ∧ RegsKept s.sl t.sl ∧ ControlKept s.me t.me ∧
    t.me.inflight = s.me.inflight ∧ t.tasks = s.tasks ∧ t.dies = s.dies ∧ t.clusters = s.clusters ∧ t.agenda = s.agenda
  (∀ (o : OpLd) (s : State), Inv s →
    let x := (rowIx s o.a o.o).toNat
    let at_ := spadRow s.cur x
    (8192 ≤ x → exec (.ldr o) s = .next (s.trap 0x0205 (BitVec.ofNat 64 x) 2)) ∧
    (x < 8192 → s.poisoned at_ = false → ∃ r : Row,
      Gives s (exec (.ldr o) s) [vectorTo s o.d 6 .bl r s.ctx.mask] ∧
      ∀ i, i < 256 → laneN r i 8 = (rd s.mem (at_ + i)).toNat) ∧
    (x < 8192 → s.poisoned at_ = true → exec (.ldr o) s = .next (s.consume at_))) ∧
  (∀ (o : OpLds) (s : State), Inv s →
    let x := (rowIx s o.a o.o).toNat
    let at_ := spadRow s.cur x
    (8192 ≤ x → exec (.lds o) s = .next (s.trap 0x0205 (BitVec.ofNat 64 x) 2)) ∧
    (x < 8192 → s.poisoned at_ = false → ∃ w : Word,
      Gives s (exec (.lds o) s) [scalarTo s o.d 6 .bl w] ∧
      ∀ i, i < 8 → w.toNat / 2 ^ (8 * i) % 256 = (rd s.mem (at_ + 8 * o.l.toNat + i)).toNat)) ∧
  (∀ (o : OpSt) (s : State),
    let x := (rowIx s o.a o.o).toNat
    let at_ := spadRow s.cur x
    (8192 ≤ x → exec (.str o) s = .next (s.trap 0x0205 (BitVec.ofNat 64 x) 2)) ∧
    (x < 8192 → ∃ t, exec (.str o) s = .next t ∧ t.sig = s.sig ∧ kept s t ∧ t.poisoned at_ = false ∧
      (∀ i, i < 256 → (rd t.mem (at_ + i)).toNat = laneN (vReg s.sl o.d) i 8) ∧
      ∀ y, (y < at_ ∨ at_ + 256 ≤ y) → rd t.mem y = rd s.mem y)) ∧
  (∀ (o : OpSts) (s : State),
    let x := (rowIx s o.a o.o).toNat
    let at_ := spadRow s.cur x + 8 * o.l.toNat
    (8192 ≤ x → exec (.sts o) s = .next (s.trap 0x0205 (BitVec.ofNat 64 x) 2)) ∧
    (x < 8192 → ∃ t, exec (.sts o) s = .next t ∧ t.sig = s.sig ∧ kept s t ∧ t.poison = s.poison ∧
      (∀ i, i < 8 → (rd t.mem (at_ + i)).toNat = (sReg s.sl o.d).toNat / 2 ^ (8 * i) % 256) ∧
      ∀ y, (y < at_ ∨ at_ + 8 ≤ y) → rd t.mem y = rd s.mem y))

/-- Global loads, stores and MARM on a cached translation to device memory, with no older access outstanding, the line there and
free of a sibling's hold, and nothing fenced or published before it still to be performed: a load's value is the line, or its
lane of 8 bytes, as its slot sees it, due after 40 cycles; a store at
task level is withheld and changes no byte; at supervisor level, on a line that the cluster may write, it writes exactly its
line or lane; MARM also arms the monitor. Loads change no byte of memory; one whose translation is missing waits for its walk
(R20, R93, R95, R282, R283, R305, R343, R388). That a slot sees its own withheld stores and not those of the other slot is log
83. -/
def Obligations.GlobalLoadsAndStores : Prop :=
  let at_ (s : State) (k : Kind) (va pa : Addr) (attr : BitVec 2) : Prop := AtOnce s k va pa attr ∧
    s.poisoned pa.toNat = false
  let ready (s : State) (va pa : Addr) (attr : BitVec 2) : Prop := at_ s .rd va pa attr ∧
    canRead s s.cur pa.toNat attr = true ∧ (∀ h ∈ s.me.withheld, h.fenced = false) ∧ s.me.pubs = []
  let same (s t : State) : Prop := (∀ y, rd t.mem y = rd s.mem y) ∧ t.poison = s.poison ∧ OthersKept s t ∧
    RegsKept s.sl t.sl ∧ ControlKept s.me t.me
  (∀ (o : OpLd) (s : State) (pa : Addr) (attr : BitVec 2),
    (ready s (byteAddr s o.a 256 o.o) pa attr → ∃ t e, exec (.ldg o) s = .next t ∧ t.sig = s.sig ∧
      t.me.inflight = s.me.inflight ++ [e] ∧ e.delay = 40 ∧ e.reg = o.d.r ∧ e.file = (if o.d.n then .none else .vector) ∧
      e.group = .bl ∧ e.lmask = s.ctx.mask ∧ e.value = loadLine s s.cur s.me.ctx pa.toNat) ∧
    (ready s (byteAddr s o.a 8 o.o) pa attr → ∃ t e, exec (.ldgs o) s = .next t ∧ t.sig = s.sig ∧
      t.me.inflight = s.me.inflight ++ [e] ∧ e.delay = 40 ∧ e.reg = o.d.r ∧ e.file = (if o.d.n then .none else .scalar) ∧
      e.group = .bl ∧ e.value = BitVec.ofNat 2048 (laneN (loadLine s s.cur s.me.ctx pa.toNat) (pa.toNat / 8 % 32) 64))) ∧
  (∀ (o : OpLd) (s t : State) (pa : Addr) (attr : BitVec 2),
    ((exec (.ldg o) s = .next t ∧ at_ s .rd (byteAddr s o.a 256 o.o) pa attr) ∨
     (exec (.ldgs o) s = .next t ∧ at_ s .rd (byteAddr s o.a 8 o.o) pa attr)) → ∀ y, rd t.mem y = rd s.mem y) ∧
  (∀ (o : OpMarm) (s : State) (pa : Addr) (attr : BitVec 2), ready s ((srcS s o.a).setWidth 52) pa attr →
    ∃ t e, exec (.marm o) s = .next t ∧ t.sig = s.sig ∧ t.me.inflight = s.me.inflight ++ [e] ∧ e.delay = 40 ∧ e.reg = o.d.r ∧
      e.value = loadLine s s.cur s.me.ctx pa.toNat ∧ t.me.monitor = some (BitVec.ofNat 52 (lineOf pa.toNat)) ∧
      t.me.monitorHit = false ∧ ∀ y, rd t.mem y = rd s.mem y) ∧
  (∀ (o : OpSt) (s : State) (pa : Addr) (attr : BitVec 2), s.sl.sup = false → (∀ h ∈ s.me.withheld, h.closed = false) →
    (at_ s .wr (byteAddr s o.a 256 o.o) pa attr → ∃ t h, exec (.stg o) s = .next t ∧ t.sig = s.sig ∧ same s t ∧
      t.me.inflight = s.me.inflight ∧ t.me.withheld = s.me.withheld ++ [h] ∧ h.data = vReg s.sl o.d ∧ h.lane = none ∧
      h.slot = s.me.ctx ∧ h.va = byteAddr s o.a 256 o.o ∧ h.pa = some pa ∧ h.closed = false) ∧
    (at_ s .wr (byteAddr s o.a 8 o.o) pa attr → ∃ t h, exec (.stgs o) s = .next t ∧ t.sig = s.sig ∧ same s t ∧
      t.me.inflight = s.me.inflight ∧ t.me.withheld = s.me.withheld ++ [h] ∧ h.data = (sReg s.sl o.d).setWidth 2048 ∧
      h.lane = some ((byteAddr s o.a 8 o.o).extractLsb' 3 5) ∧ h.slot = s.me.ctx ∧ h.va = byteAddr s o.a 8 o.o ∧
      h.pa = some pa ∧ h.closed = false)) ∧
  (∀ (o : OpSt) (s : State) (pa : Addr) (attr : BitVec 2), s.sl.sup = true → s.me.withheld = [] → s.me.pubs = [] →
    canOwn s s.cur pa.toNat attr = true →
    (at_ s .wr (byteAddr s o.a 256 o.o) pa attr → ∃ t, exec (.stg o) s = .next t ∧ t.sig = s.sig ∧ t.me.withheld = [] ∧
      (∀ i, i < 256 → (rd t.mem (lineOf pa.toNat + i)).toNat = laneN (vReg s.sl o.d) i 8) ∧
      ∀ y, (y < lineOf pa.toNat ∨ lineOf pa.toNat + 256 ≤ y) → rd t.mem y = rd s.mem y) ∧
    (at_ s .wr (byteAddr s o.a 8 o.o) pa attr → ∃ t, exec (.stgs o) s = .next t ∧ t.sig = s.sig ∧ t.me.withheld = [] ∧
      let lane := lineOf pa.toNat + 8 * ((byteAddr s o.a 8 o.o).extractLsb' 3 5).toNat
      (∀ i, i < 8 → (rd t.mem (lane + i)).toNat = (sReg s.sl o.d).toNat / 2 ^ (8 * i) % 256) ∧
      ∀ y, (y < lane ∨ lane + 8 ≤ y) → rd t.mem y = rd s.mem y)) ∧
  (∀ (o : OpLd) (s : State),
    let va := byteAddr s o.a 256 o.o
    tlbFind s (clusterOf s.cur) (dieOf s.cur) s.sl.asn va = none → supAccess s (accAt .ldg va) = false →
    let s1 := s.modMe fun k => { k with useq := k.useq + 1 }
    exec (.ldg o) s = .next ((queueWalk s1 s.cur s.sl.asn va).push
      { loadV s o.d with acc := some { accAt .ldg va with seq := s.me.useq } }))

/-- PREF, CFLUSH and CINV change no byte of memory, no register and no task. On a cached translation to device memory, with
nothing older outstanding, each completes: PREF of a line that its cluster does not hold asks the home for it, CFLUSH leaves
the core's copy without dirty sectors, CINV leaves it none (R284). That a flush sends no message is the model's choice
(log 20). -/
def Obligations.CacheMaintenance : Prop :=
  (∀ (o : OpAddr) (s : State), FreshNumber s.me →
    let va := byteAddr s o.a 256 o.o
    ∀ i ∈ [Instr.pref o, .cflush o, .cinv o],
      (i = .pref o ∨ (supAccess s (accAt .cflush va) = false ∧ supAccess s (accAt .cinv va) = false)) →
      ∃ t, exec i s = .next t ∧ t.sig = s.sig ∧ t.mem = s.mem ∧ t.poison = s.poison ∧ t.tasks = s.tasks ∧ t.cur = s.cur ∧
        RegsKept s.sl t.sl ∧ ControlKept s.me t.me) ∧
  (∀ (o : OpAddr) (s : State) (pa : Addr) (attr : BitVec 2),
    let va := byteAddr s o.a 256 o.o
    let mine (t : State) : L1Line := l1At t (l1Home s s.cur pa.toNat) pa.toNat
    ((∃ e, xlate s s.cur s.sl.asn s.sl.sup .rd va = .ok pa attr e) → l1Kind s pa.toNat attr = true →
      copies s (clusterOf s.cur) pa.toNat = [] →
      ∃ t, exec (.pref o) s = .next t ∧ t.sig = s.sig ∧ t.me.inflight = s.me.inflight ∧
        (reqFor t (clusterOf s.cur) pa.toNat).isSome = true) ∧
    (AtOnce s .wr va pa attr → l1Kind s pa.toNat attr = true →
      (∃ t, exec (.cflush o) s = .next t ∧ t.sig = s.sig ∧ t.me.inflight = s.me.inflight ∧ (mine t).st = (mine s).st ∧
        ((mine s).st ≠ .i → (mine t).dirty = 0)) ∧
      ∃ t, exec (.cinv o) s = .next t ∧ t.sig = s.sig ∧ t.me.inflight = s.me.inflight ∧ (mine t).st = .i))

/-- The ten atomics on device memory, on a cached translation and a line that the cluster may write, with no access
outstanding and nothing withheld or still to be published: the element of 32 or 64 bits that the address aligns down to takes its new value, no other
byte changes, and the old value, sign-extended or, for AFADD, as its encoding, is the result, due after 40 cycles (R113, R297,
R298). -/
def Obligations.AtomicResults : Prop :=
  let runs (i : Instr) (s : State) (a : Word) (d : Dst) (w : Nat) (new : Nat → Nat) (sext : Bool) : Prop :=
    ∀ (pa : Addr) (attr : BitVec 2) (word : SlotWord), encode i = some (word, []) →
      word.setWidth 31 = s.ctx.word.setWidth 31 → s.me.inflight = [] → s.me.withheld = [] → s.me.pubs = [] →
      AtOnce s .wr (a.setWidth 52) pa attr → canOwn s s.cur pa.toNat attr = true → s.poisoned pa.toNat = false →
      let ea := pa.toNat / (w / 8) * (w / 8)
      let old := rdN s.mem ea (w / 8)
      ∃ t x, exec i s = .next t ∧ t.sig = s.sig ∧ t.me.inflight = [x] ∧ x.delay = 40 ∧ x.reg = d.r ∧
        x.file = (if d.n then .none else .scalar) ∧
        x.value.toNat = (if sext then wrapN (sextN old w) 64 else old) ∧
        rdN t.mem ea (w / 8) = new old % 2 ^ w ∧ ∀ y, (y < ea ∨ ea + w / 8 ≤ y) → rd t.mem y = rd s.mem y
  ∀ (o : OpAt) (s : State),
    let w := if o.z then 64 else 32
    let a := srcS s o.a
    let b := (srcS s o.b).toNat % 2 ^ w
    let d := (sReg s.sl o.d.r).toNat % 2 ^ w
    let lo : Int := -2 ^ (w - 1)
    let hi : Int := 2 ^ (w - 1) - 1
    let f := if o.z then FF.f64 else FF.f32
    runs (.aadd o) s a o.d w (fun x => (x + b) % 2 ^ w) true ∧
    runs (.aadds o) s a o.d w (fun x => wrapN (max lo (min hi (sextN x w + sextN b w))) w) true ∧
    runs (.amin o) s a o.d w (fun x => wrapN (min (sextN x w) (sextN b w)) w) true ∧
    runs (.amax o) s a o.d w (fun x => wrapN (max (sextN x w) (sextN b w)) w) true ∧
    runs (.aand o) s a o.d w (fun x => x &&& b) true ∧
    runs (.aor o) s a o.d w (fun x => x ||| b) true ∧
    runs (.axor o) s a o.d w (fun x => x ^^^ b) true ∧
    runs (.axchg o) s a o.d w (fun _ => b) true ∧
    runs (.acas o) s a o.d w (fun x => if x = d then b else x) true ∧
    runs (.afadd o) s a o.d w
      (fun x => (encodeF f .rne (addFV .rne (decodeF f x) (decodeF f (srcSF s f .rne o.b))).1).1) false

/-! ## Copies -/

/-- CPY, CPYM, GATH and SCAT: with their checks passed and room in the channel, the command enters its queue with the
endpoints, shapes and options it names and the predicate is false; without room nothing enters and the predicate is true.
PUBL is a release and publishes the rows of its identifier's completed commands, at once where they lie in the own scratchpad
or where all that the step has done before has performed, elsewhere as soon as it has; CWAIT tells whether the channel has
faulted or has completed its commands, their posts and bytes included, and waits where it has not;
CWAIT.wp passes where the write pointer is far enough, and freezes the core elsewhere (R118, R285 to R296, R405). Where a
follow-on's checks are made and what a SCAT reserves are the model's choice (logs 64, 66), and so is that a release goes on
its way past its bundle (log 28). -/
def Obligations.CopyCommands : Prop :=
  (∀ (o : OpCpy) (s : State),
    let s1 := cpyCkpt o s
    let cmd := cpyCmd o s1
    let n := o.c.toNat
    cpyChecks (cpyReasons cmd.tA cmd.tB o.res o.strm cmd.dst) cmd cmd.src cmd.dst = none →
    (∀ f, cmd.follow = some f → followChecks s1 f = none) →
    cmd.fA.const = true → waited s.me ≤ (sReg s.sl 25).toNat % 2 ^ 32 →
    let s2 := if o.res then s1.deliverP 7 false 1 else s1
    (cmd.bar = none → noRoom s1 s.cur n cmd = false →
      exec (.cpy o) s = .next ((enqueueCmd s2 s.cur n cmd).deliverP o.d false 1)) ∧
    (∀ i t, cmd.bar = some i → noRoom s1 s.cur n cmd = false → sendBar s2 (dieOf s.cur) i (.add cmd.left) .open = some t →
      exec (.cpy o) s = .next ((enqueueCmd t s.cur n cmd).deliverP o.d false 1)) ∧
    (∀ i, cmd.bar = some i → noRoom s1 s.cur n cmd = false → sendBar s2 (dieOf s.cur) i (.add cmd.left) .open = none →
      exec (.cpy o) s = .next (s2.deliverP o.d true 1)) ∧
    (noRoom s1 s.cur n cmd = true → exec (.cpy o) s = .next (s2.deliverP o.d true 1))) ∧
  (∀ (o : OpCpym) (s : State),
    let s1 := askCkpt s
    let a := s.sl.tid o.ta.toNat
    let b := s.sl.tid o.tb.toNat
    let cmd := { newCmd s1 (.cpym o.recv) a b o.tb true (copyRows b) with fA := tileRec s.sl a }
    let n := o.c.toNat
    cpyChecks (cpymReasons s1 a b cmd.dst o.recv) cmd cmd.src cmd.dst = none →
    (noRoom s1 s.cur n cmd = true → exec (.cpym o) s = .next (s1.deliverP o.d true 1)) ∧
    (noRoom s1 s.cur n cmd = false → exec (.cpym o) s =
      .next (((followBoth (modChan s1 s.cur n fun ch => { ch with q := ch.q ++ [cmd] }) n cmd.id
        (receivers s.cur o.recv)).nextFresh).deliverP o.d false 1))) ∧
  (∀ (o : OpGath) (s : State),
    let t := s.sl.tid o.tb.toNat
    let n := o.c.toNat
    let g := { newCmd s .gath .invalid t o.tb true 0 with desc := srcS s o.a }
    let c := { newCmd s .scat .invalid t o.tb false (shpAt t 0) with desc := srcS s o.a }
    t.v = true → shpAt t 0 ≤ 4096 → t.fmt = 15 → t.ndim = 1 →
    (ownSp (sReg s.sl 23) = true → noRoom s s.cur n g = false →
      exec (.gath o) s = .next ((enqueueCmd s s.cur n g).deliverP o.d false 1)) ∧
    (ownSp (sReg s.sl 23) = false → exec (.gath o) s = .next (s.trap 0x0301 4 2)) ∧
    (noRoom s s.cur n c = false →
      exec (.scat o) s = .next ((enqueueCmd s s.cur n c).deliverP o.d false 1)) ∧
    (noRoom s s.cur n c = true → exec (.scat o) s = .next (s.deliverP o.d true 1))) ∧
  (∀ (o : OpT) (s : State), (s.sl.tid o.t.toNat).v = true →
    let r := publishOp s
    let rows := r.me.shrows.filter fun x => x.whole && x.slot == r.me.ctx && x.task == r.sl.task && x.tid == o.t
    let ids := (rows.map ShRow.cmd).eraseDups
    (rows = [] → exec (.publ o) s = .next r) ∧
    (rows ≠ [] → r.passes r.gate = true ∨ (∀ x ∈ rows, ownRow r.cur x = true) →
      exec (.publ o) s = .next (publishRows r r.cur fun x => ids.contains x.cmd)) ∧
    (r.passes r.gate = false → (∃ x ∈ rows, ownRow r.cur x = false) → exec (.publ o) s = .next (r.modMe fun k => { k with
      pubs := k.pubs ++ [⟨k.ctx, k.useq, ids⟩]
      useq := k.useq + 1 }))) ∧
  (∀ (s : State) (c : Nat) (p : Pub), (s.core c).pubs = [p] →
    (settledBefore (s.core c) p.slot p.seq = true →
      landPubs s c = publishRows (s.modCore c fun k => { k with pubs := [] }) c fun x => p.cmds.contains x.cmd) ∧
    (settledBefore (s.core c) p.slot p.seq = false → landPubs s c = s)) ∧
  (∀ (o : OpCwait) (s : State),
    let n := o.c.toNat
    let ch := chanOf s s.cur n
    (ch.fault = true → exec (.cwait o) s =
      .next ((modChan s s.cur n fun x => { x with fault := false }).deliverP o.d true 1)) ∧
    let d := dieOf s.cur
    let t := landPosts (landBars s d) s.cur
    let limit := (opndS s o.b).toNat % 2 ^ 32
    let bytes : Prop := ∃ a ∈ (t.die d).arrivals, ∃ e i n x, a = .barr e i n x
    (ch.fault = false → ch.q = [] → ¬bytes → waited s.me ≤ limit → exec (.cwait o) s = .next (t.deliverP o.d false 1)) ∧
    (ch.fault = false → ch.q ≠ [] → s.me.hold = none → 0 < limit → exec (.cwait o) s = .next (s.hold .wait limit)) ∧
    (ch.fault = false → ch.q ≠ [] → s.me.hold = none → limit = 0 → exec (.cwait o) s = .next (s.deliverP o.d true 1))) ∧
  (∀ (o : OpCwaitWp) (s : State),
    let ch := chanOf s s.cur o.c.toNat
    let n := (srcS s o.a).toNat % 65536
    let there : Prop := n ≤ (vget s.sl.wp o.c.toNat 0).toNat ∨ ch.q = [] ∨ ch.fault = true
    (there → exec (.cwaitWp o) s = .next s) ∧ (¬there → exec (.cwaitWp o) s = .next (s.freezeAt 2 (.wp o.c.toNat n))))

/-! ## Synchronization -/

/-- BIND, ACQ, REL and FENCE: what each does to the regions, the object and the slot, with the predicate it answers. A release
operation first closes the segment's stores, which publish as they can, and its bundle takes a checkpoint; a FENCE above core
scope also marks them, so that the slot's later loads perform after them (R148, R150, R279, R299 to R301). That a release goes
on its way past its bundle, and when a published store asks for its line, are the model's choice (log 28). -/
def Obligations.ObjectInstructions : Prop :=
  (∀ (o : OpBind) (s : State),
    let base := (srcS s o.a).extractLsb' 8 44
    let n : BitVec 32 := (srcS s o.b).setWidth 32
    let it (r : Region) : Bool := r.asn == s.sl.asn && r.base == base
    let meets (r : Region) : Prop := r.asn = s.sl.asn ∧ r.base.toNat < base.toNat + n.toNat ∧
      base.toNat < r.base.toNat + r.nrows.toNat
    let answers (l : List Region) (x : Bool) : Prop :=
      exec (.bind o) s = .next (({ s with regions := l } : State).sending [predTo s o.d 1 x])
    (n = 0 → s.regions.any it = true → answers (s.regions.filter fun r => !it r) false) ∧
    (n = 0 → s.regions.any it = false → answers s.regions true) ∧
    (n ≠ 0 → (∀ r ∈ s.regions, ¬meets r) → s.regions.length < 4096 →
      answers (s.regions ++ [⟨s.sl.asn, o.obj.extractLsb' 14 3, o.obj.extractLsb' 0 14, n, base⟩]) false) ∧
    (n ≠ 0 → ((∃ r ∈ s.regions, meets r) ∨ 4096 ≤ s.regions.length) → answers s.regions true)) ∧
  (∀ (o : OpAcq) (s : State),
    let obj := (srcS s o.a).toNat % 2 ^ 17
    let r := landOwn s s.cur s.me.ctx fun x => x == obj
    let e := tget (r.die (obj / 16384)).sync (obj % 16384) ⟨0, 0, false⟩
    (o.d.r = 0 ∨ 0 ≤ sextN (e.ver.toNat + 2 ^ 64 - (sReg r.sl o.d.r).toNat) 32) →
    waited r.me ≤ (opndS r o.b).toNat % 2 ^ 32 →
    (∀ t, acqTie r e = some t →
      exec (.acq o) s = .next (t.sending [predTo t o.t 1 false, scalarOnly t o.d.r o.d.n 40 (e.ver.setWidth 64)])) ∧
    (acqTie r e = none → exec (.acq o) s = .next (r.sending [predTo r o.t 1 true]))) ∧
  (∀ (o : OpA) (s : State),
    let obj : BitVec 17 := (srcS s o.a).setWidth 17
    let r := publishOp s
    let third : Prop := s.sl.attach.isSome = true ∧ 2 ≤ s.sl.released.length ∧ ∀ e ∈ s.sl.released, e.1 ≠ obj
    (third → exec (.rel o) s = .next (s.trap 0x0501 4 2)) ∧
    (¬third →
      exec (.rel o) s = .next ((r.modSl fun sl => recordRel sl obj).modDie (obj.toNat / 16384) fun x => { x with
        arrivals := x.arrivals ++ [.rel (obj.toNat / 16384) (obj.toNat % 16384) (s.sl.attach.getD 0) s.sl.attach.isSome
          r.cur r.me.ctx r.me.useq] }))) ∧
  (∀ s : State, s.ctx.scope = .core → exec .fence s = .next s) ∧
  (∀ s : State, s.ctx.scope ≠ .core → exec .fence s = .next ((publishOp s).modMe fun k => { k with
    withheld := k.withheld.map fun h => if h.slot == k.ctx && h.closed then { h with fenced := true } else h })) ∧
  (∀ (h : Held) (n : Nat), (h.publish n).closed = true ∧ { h.publish n with closed := h.closed, lag := h.lag } = h) ∧
  (∀ s : State, s.sl.sup = true → publishOp s = s) ∧
  ∀ s : State, s.sl.sup = false → (∀ h ∈ s.me.withheld, h.pa = none) →
    let r := publishOp s
    r.cur = s.cur ∧ r.mem = s.mem ∧ r.poison = s.poison ∧ r.sl = s.sl ∧ r.tasks = s.tasks ∧ r.dies = s.dies ∧
    r.eff.ckpt = true ∧
    r.me.withheld = s.me.withheld.map fun h => if h.slot = s.me.ctx then h.publish s.fresh else h

/-- Counting flags, SYNC and barriers: with its condition met each completes with its effect and its predicate; FWAIT takes what
it waited for, FPOST and FPOSTR send a post, BARR and BARRX arrive, BWAIT tells whether the barrier passed or is poisoned,
REARM sets a new expectation; SYNC holds its core while a core of its mask has not come, and the last to come releases them
all. An operation on a barrier acts at once where nothing on its way to that barrier and no earlier access of its step comes
before it, and behind them elsewhere (log 28). A barrier that its last arrival fills, with no bytes pending and no poison, enters its next phase
with no arrivals; otherwise it stays in its phase (R162 to R164, R302 to R304). -/
def Obligations.FlagsAndBarriers : Prop :=
  let own (s : State) (f n : Nat) (taken : Bool) : State :=
    if s.sl.sup = true then s else s.modMe fun k => { k with fjournal := k.fjournal ++ [(k.ctx, f, n, taken)] }
  let die (x : Word) : Nat := (x.extractLsb' 12 3).toNat
  let ix (x : Word) : Nat := (x.extractLsb' 0 12).toNat
  (∀ (o : OpFwait) (s : State),
    let f := o.f.toNat
    let n := (srcS s o.a).toNat % 65536
    let v := (vget s.me.flags f 0).toNat
    (n ≤ v → waited s.me ≤ (opndS s o.b).toNat % 2 ^ 32 → exec (.fwait o) s = .next
      ((own (s.modMe fun k => { k with flags := vset k.flags f (BitVec.ofNat 16 (v - n)) }) f n true).deliverP o.d false 1)) ∧
    (v < n → (opndS s o.b).toNat % 2 ^ 32 = 0 → exec (.fwait o) s = .next (s.deliverP o.d true 1))) ∧
  (∀ (o : OpFpost) (s : State),
    let n := (srcS s o.a).toNat % 65536
    let behind : Bool := s.me.rposts.any fun p => p.ofStep s.cur s.me.ctx o.f.toNat
    (behind = false → exec (.fpost o) s =
      .next (own (s.modMe fun k => { k with posts := k.posts ++ [(o.f.toNat, n)] }) o.f.toNat n false)) ∧
    (behind = true → exec (.fpost o) s =
      .next (own (s.modCore s.cur fun k => { k with rposts := k.rposts ++ [⟨o.f.toNat, n, s.gate⟩] }) o.f.toNat n false))) ∧
  (∀ (o : OpFpostr) (s : State),
    let r := publishOp s
    exec (.fpostr o) s = .next (r.modCore ((opndS s o.b).toNat % 1024) fun k =>
      { k with rposts := k.rposts ++ [⟨o.f.toNat, (srcS s o.a).toNat % 65536, r.gate⟩] })) ∧
  (∀ (o : OpPab) (s : State) (m : BitVec 8) (w l : Nat) (e : List Nat), s.me.hold = some ⟨.sync m true, w, l, e⟩ →
    exec (.sync o) s = .next ((askCkpt s).deliverP o.d false 1)) ∧
  (∀ (o : OpPab) (s : State), s.cur < 1024 → (∀ h m, s.me.hold = some h → h.kind ≠ .sync m true) →
    let mask : BitVec 8 := (srcS s o.a).setWidth 8 ||| (1 <<< (s.cur % 8))
    let other (i : Nat) : Prop := i < 8 ∧ i ≠ s.cur % 8 ∧ mask.getLsbD i = true
    let at_ (t : State) (i : Nat) : Core := t.core (s.cur / 8 * 8 + i)
    waited s.me < (opndS s o.b).toNat % 2 ^ 32 →
    ((∃ i, other i ∧ syncMask (at_ s i) = none) → ∃ t h, exec (.sync o) s = .next t ∧ t.sig = .held ∧
      t.me.hold = some h ∧ h.kind = .sync mask false) ∧
    ((∀ i, other i → syncMask (at_ s i) = some mask) → s.me.freeze = none → s.me.trapping = none → lateSoon s.me = false →
      ∃ t h, exec (.sync o) s = .next t ∧ t.me.hold = some h ∧ h.kind = .sync mask true ∧
        ∀ i, other i → ∃ h, (at_ t i).hold = some h ∧ h.kind = .sync mask true)) ∧
  (∀ (o : OpPa) (s : State),
    let r := publishOp s
    let sent := sendBar r (die (srcS s o.a)) (ix (srcS s o.a)) (.arrive 0) r.gate
    (∀ t, sent = some t → exec (.barr o) s = .next (t.deliverP o.d false 1)) ∧
    (sent = none → exec (.barr o) s = .next (r.deliverP o.d true 1))) ∧
  (∀ (o : OpPab) (s : State),
    let r := publishOp s
    let sent := sendBar r (die (srcS s o.a)) (ix (srcS s o.a)) (.arrive ((opndS s o.b).toNat % 2 ^ 56)) r.gate
    (∀ t, sent = some t → exec (.barrx o) s = .next (t.deliverP o.d false 1)) ∧
    (sent = none → exec (.barrx o) s = .next (r.deliverP o.d true 1))) ∧
  (∀ (o : OpPab) (s : State),
    let b := barAt s (die (srcS s o.a)) (ix (srcS s o.a))
    let passed : Bool := b.phase != (srcS s o.a).extractLsb' 16 16
    ((passed = true ∨ b.poison = true) → waited s.me ≤ (opndS s o.b).toNat % 2 ^ 32 →
      Gives s (exec (.bwait o) s) [predTo s o.d 1 false, predTo s (o.d + 1) 1 (!passed && b.poison)])) ∧
  (∀ (o : OpPab) (s : State),
    let sent := sendBar s (die (srcS s o.a)) (ix (srcS s o.a)) (.rearm ((opndS s o.b).setWidth 16)) .open
    (∀ t, sent = some t → exec (.rearm o) s = .next (t.deliverP o.d false 1)) ∧
    (sent = none → exec (.rearm o) s = .next (s.deliverP o.d true 1))) ∧
  (∀ (s : State) (d i : Nat) (op : BarOp) (g : Gate),
    let way := (s.die d).arrivals.filter fun a => a.bar == some (d, i)
    (way = [] → s.passes g = true → sendBar s d i op g = (barOp (barAt s d i) op).map (setBar s d i)) ∧
    (way ≠ [] ∨ s.passes g = false → sendBar s d i op g = (barOp (way.foldl barNext (barAt s d i)) op).map fun _ =>
      s.modDie d fun x => { x with arrivals := x.arrivals ++ [.bop d i op g] })) ∧
  (∀ (b : Barrier) (n : Nat) (e : BitVec 16),
    (b.arr ≠ b.exp → b.pend.toNat + n < 2 ^ 56 → barOp b (.arrive n) = some (barEval { b with
      arr := b.arr + 1
      pend := b.pend + BitVec.ofNat 56 n })) ∧
    ((b.arr = b.exp ∨ 2 ^ 56 ≤ b.pend.toNat + n) → barOp b (.arrive n) = none) ∧
    (b.pend.toNat + n < 2 ^ 56 → barOp b (.add n) = some (barEval { b with pend := b.pend + BitVec.ofNat 56 n })) ∧
    (2 ^ 56 ≤ b.pend.toNat + n → barOp b (.add n) = none) ∧
    (b.pend = 0 → barOp b (.rearm e) = some { b with
      exp := e
      arr := 0
      poison := false }) ∧
    (b.pend ≠ 0 → barOp b (.rearm e) = none)) ∧
  ∀ b : Barrier,
    (b.poison = false → b.arr = b.exp → b.pend = 0 → (barEval b).phase = b.phase + 1 ∧ (barEval b).arr = 0) ∧
    ((b.poison = true ∨ b.arr ≠ b.exp ∨ b.pend ≠ 0) → barEval b = b) ∧ (barEval b).exp = b.exp ∧ (barEval b).pend = b.pend

/-- MWAIT passes where no monitor is armed or the line was written, and disarms it; TRIG queues its operation at the
counter's die, unless that queue is full or the image is none of its kinds; TCNT adds to a counter, saturating, or sets it,
and what is then at or below it is due (R137, R165, R305 to R307). That a CPY image is checked with its TRIG is the model's choice
(log 16), and that a step of a launch torn down queues as before is log 93. -/
def Obligations.MonitorAndTriggers : Prop :=
  let die (x : Word) : Nat := (x.extractLsb' 8 3).toNat
  let ctr (x : Word) : Nat := (x.extractLsb' 0 8).toNat
  (∀ (o : OpPb) (s : State),
    ((s.me.monitor = none ∨ s.me.monitorHit = true) → waited s.me ≤ (opndS s o.b).toNat % 2 ^ 32 →
      exec (.mwait o) s = .next ((s.modMe fun k => { k with
        monitor := none
        monitorHit := false }).deliverP o.d false 1)) ∧
    (s.me.monitor ≠ none → s.me.monitorHit = false → (opndS s o.b).toNat % 2 ^ 32 = 0 →
      exec (.mwait o) s = .next (s.deliverP o.d true 1))) ∧
  (∀ (o : OpTrig) (s : State) (i : Instr),
    let s1 := askCkpt s
    let d := die (srcS s o.a)
    let k := ctr (srcS s o.a)
    decodeSlot (o.w.setWidth 32) [] = .ok i →
    let queued (s2 : State) (cmd : Option Cmd) (x y : Word) : Prop :=
      let op : TrigOp := ⟨k, (srcS s o.b).setWidth 32, i, s.cur, s.me.ctx, s.sl.task,
        (s.sl.task.filter fun t => (s.task t).kind != .comp).map fun t => (s.task t).launch, cmd, x, y, s.ctx.scope,
        s.sl.asn, s.sl.sup⟩
      exec (.trig o) s = .next ((setTctr (s2.modDie d fun x => { x with tops := x.tops ++ [op] }) d k (tctrAt s d k)).deliverP
        o.d false 1)
    let held := (s.die d).tops.length + (s.die d).tdue.length
    (held < 1024 →
      (∀ c, i = .cready c → queued s1 none (srcS s c.a) 0) ∧
      (∀ c, i = .fpostr c → queued s1 none (srcS s c.a) (opndS s c.b)) ∧
      (∀ c, i = .cpy c → c.follow = false → c.bar = false → c.ws = [] → c.res = false →
        let cmd := cpyCmd c s1
        cpyChecks (cpyReasons cmd.tA cmd.tB false c.strm cmd.dst) cmd cmd.src cmd.dst = none → queued s1 (some cmd) 0 0)) ∧
    (1024 ≤ held → (∃ c, i = .cready c) → exec (.trig o) s = .next (s1.deliverP o.d true 1)) ∧
    ((∀ c, i ≠ .cready c) → (∀ c, i ≠ .fpostr c) → (∀ c, i ≠ .cpy c) → exec (.trig o) s = .next (s1.trap 0x0301 8 2))) ∧
  (∀ (o : OpAB) (s : State),
    let d := die (srcS s o.a)
    let k := ctr (srcS s o.a)
    exec (.tcntSet o) s = .next (setTctr (askCkpt s) d k ((opndS s o.b).setWidth 32)) ∧
    exec (.tcntAdd o) s = .next (setTctr (askCkpt s) d k
      (BitVec.ofNat 32 (min ((tctrAt s d k).toNat + (opndS s o.b).toNat % 2 ^ 32) (2 ^ 32 - 1))))) ∧
  (∀ (s : State) (d i : Nat) (v : BitVec 32),
    let t := setTctr s d i v
    tctrAt t d i = v ∧ (∀ j, j ≠ i → tctrAt t d j = tctrAt s d j) ∧
    (∀ op, op ∈ (t.die d).tdue ↔ op ∈ (s.die d).tdue ∨ (op ∈ (s.die d).tops ∧ op.ctr = i ∧ op.thr.toNat ≤ v.toNat)) ∧
    ∀ op, op ∈ (t.die d).tops ↔ op ∈ (s.die d).tops ∧ ¬(op.ctr = i ∧ op.thr.toNat ≤ v.toNat))

/-! ## Tasks, residency, activities -/

/-- TLAUNCH, TSPAWN, TDEP and TEND: a launch record in device memory that the step may read and write is queued, unless 256
are; a task is spawned with its identifier and entry, unless the limit or the pool refuses it; a dependency counts on a waiting
task of the launch; TEND ends the step at task level and traps elsewhere. A step that has ended and has nothing outstanding
leaves its slot: its task becomes final with its completion word, CANCELLED where its launch was torn down; each waiting
successor's counter falls by one, and at zero the successor is ready; the launch is done once its last task is final (R17,
R18, R135, R310 to R313). That the word stands in the task's record of the model is log 8, and that a step of a launch torn
down spawns as before is log 93. -/
def Obligations.TaskInstructions : Prop :=
  (∀ (o : OpPa) (s : State) (pa : Addr) (a1 a2 : BitVec 2) (e1 e2 : Tlb),
    let va : Addr := (srcS s o.a).setWidth 52 &&& 0xFFFFFFFFFFF80
    (tlbFind s (clusterOf s.cur) (dieOf s.cur) s.sl.asn va).isSome = true →
    xlate s s.cur s.sl.asn s.sl.sup .rd va = .ok pa a1 e1 → xlate s s.cur s.sl.asn s.sl.sup .wr va = .ok pa a2 e2 →
    ctlBytes s s.sl.sup .rd pa.toNat 128 = false → ctlBytes s s.sl.sup .wr pa.toNat 128 = false →
    let r := publishOp (fillTlb s (clusterOf s.cur) (dieOf s.cur) e1)
    (devTop ≤ pa.toNat → exec (.tlaunch o) s = .next (s.trap 0x0204 (va.setWidth 64) 2)) ∧
    (pa.toNat < devTop → r.tlaunch.length < 256 → exec (.tlaunch o) s =
      .next (({ r with tlaunch := r.tlaunch ++ [(pa, if r.sl.sup then none else some r.sl.asn, r.gate)] } : State).deliverP o.d false 1)) ∧
    (pa.toNat < devTop → 256 ≤ r.tlaunch.length → exec (.tlaunch o) s = .next (r.deliverP o.d true 1))) ∧
  (∀ (o : OpPss) (s : State),
    let r := publishOp s
    (spawnRefused r (curLaunch r) (dieOf r.cur) = true → exec (.tspawn o) s = .next (r.deliverP o.d true 1)) ∧
    (spawnRefused r (curLaunch r) (dieOf r.cur) = false →
      let n := newKey r.tasks
      let x : Task := { Task.none with
        launch := curLaunch r
        kind := .spawned
        die := dieOf r.cur
        wid := srcS s o.a
        entry := if srcS s o.b = 0 then opbEntry (r.launch (curLaunch r)) else (srcS s o.b).setWidth 52
        prio := opbPrio (r.launch (curLaunch r))
        pinned := opbPin (r.launch (curLaunch r))
        gate := r.gate }
      exec (.tspawn o) s = .next ((readyTask { r with tasks := tput r.tasks n x } n).deliverP o.d false 1))) ∧
  (∀ (o : OpPa) (s : State),
    let r := publishOp s
    (tdepTarget r (srcS s o.a) = none → exec (.tdep o) s = .next (r.sending [(predTo r o.d 40 true).away])) ∧
    (∀ t, tdepTarget r (srcS s o.a) = some t →
      let r1 := r.modTask t fun x => { x with ctr := x.ctr + 1 }
      exec (.tdep o) s =
        .next ((r1.modTask (curTask r1) fun x => { x with added := x.added ++ [t] }).sending
          [(predTo r o.d 40 false).away]))) ∧
  (∀ s : State, s.sl.sup = false → inComp s = false → exec .tend s = .next (s.leaveBy (.final .done 0))) ∧
  (∀ s : State, (s.sl.sup = true ∨ inComp s = true) → exec .tend s = .next (s.trap 0x0502 0 2)) ∧
  (∀ (s : State) (n : Nat), s.sl.sup = false → inComp s = false → s.eff.ckpt = false → s.sl.task = some n →
    s.me.inflight = [] → s.me.mq = [] → s.me.mdue = [] → s.me.withheld = [] → s.me.pubs = [] → s.me.shrows = [] →
    hasCommands s.me (some n) = false → (∀ d, ∀ a ∈ (s.die d).arrivals, a.isRel = false) →
    ∃ u, exec .tend s = .next { finalTask u n .done s.cur 0 with sig := .gone } ∧ u.tasks = s.tasks ∧ u.mem = s.mem ∧
      u.launches = s.launches ∧ u.fatal = s.fatal ∧ ((u.core s.cur).slotOf s.me.ctx).task = none) ∧
  (∀ (s : State) (n : Nat) (st : TaskSt) (core cause : Nat), s.fatal = none → (s.task n).st = .running → st.final = true →
    let x := s.task n
    let t := finalTask s n st core cause
    let f : TaskSt := if x.torn = true ∧ st = .done then .cancelled else st
    let can : Bool := f == .cancelled
    (t.task n).st = f ∧ (t.task n).cword = cwordOf f.code x.depcx x.migr core (if f = .faulted then cause else 0) ∧
    (∀ y z, (y, z) ∈ s.tasks → (s.task y).st = .waiting → y ∉ x.added → x.kind = .walked →
      (s.task y).preds.contains (x.launch, x.wid) = true →
      (t.task y).ctr = (s.task y).ctr - 1 ∧ (t.task y).st = (if (s.task y).ctr = 1 then .ready else .waiting) ∧
      (t.task y).depcx = ((s.task y).depcx || (can && (s.task y).launch != x.launch))) ∧
    (∀ y, x.kind ≠ .walked → x.added = [y] → y ≠ n → (s.task y).st = .waiting →
      (t.task y).ctr = (s.task y).ctr - 1 ∧ (t.task y).st = (if (s.task y).ctr = 1 then .ready else .waiting)) ∧
    (x.kind ≠ .comp → (s.launch x.launch).st = .expanded → (∀ e ∈ s.tasks, e.2.launch = x.launch → e.2.kind ≠ .comp →
      e.1 ≠ n → e.2.st.final = true) → s.tasks.Pairwise (fun a b => a.1 < b.1) → (t.launch x.launch).st = .done)) ∧
  ∀ (w : Word) (st : TaskSt) (depcx migr : Bool) (core cause : Nat), w = cwordOf st.code depcx migr core cause →
    core < 2048 → cause < 65536 → (w.extractLsb' 0 4).toNat = st.code ∧ w.getLsbD 4 = depcx ∧ w.getLsbD 5 = migr ∧
    (w.extractLsb' 16 11).toNat = core ∧ (w.extractLsb' 32 16).toNat = cause

/-- RESADV writes the residency entry of its tile into the core's or the die's table, RESDROP clears the valid bit of every match
in both, RESCHK tells whether no current match stands in either (R147, R315, R316). -/
def Obligations.ResidencyInstructions : Prop :=
  (∀ (o : OpResadv) (s : State),
    let t := s.sl.tid o.ta.toNat
    let b := srcS s o.b
    let e (loc : BitVec 23) : Resid := ⟨true, b.getLsbD 63, t.gti, BitVec.ofNat 40 (tileNo t), loc, BitVec.ofNat 24 (tidBytes t),
      o.obj.extractLsb' 14 3, o.obj.extractLsb' 0 14, (sReg s.sl o.d).setWidth 32, s.fresh⟩
    t.v = true →
    (b.getLsbD 63 = true → exec (.resadv o) s = .next (s.nextFresh.modDie (dieOf s.cur) fun x =>
      { x with resid := tput x.resid (residPlace x.resid 4096 t) (e ((b.extractLsb' 0 19).setWidth 23)) })) ∧
    (b.getLsbD 63 = false → exec (.resadv o) s = .next (s.nextFresh.modMe fun k =>
      { k with resid := tput k.resid (residPlace k.resid 512 t) (e ((b.extractLsb' 0 13).setWidth 23)) }))) ∧
  (∀ (o : OpT) (s : State),
    let t := s.sl.tid o.t.toNat
    t.v = true → ∃ u, exec (.resdrop o) s = .next u ∧
      (∀ i x, (i, x) ∈ u.me.resid → matchesTid t x = true → x.v = false) ∧
      (∀ i x, (i, x) ∈ (u.die (dieOf s.cur)).resid → matchesTid t x = true → x.v = false) ∧
      u.mem = s.mem ∧ u.sl = s.sl ∧ u.tasks = s.tasks) ∧
  (∀ (o : OpReschk) (s : State),
    let t := s.sl.tid o.ta.toNat
    let found := (s.me.resid.find? fun e => matchesTid t e.2) <|> ((s.die (dieOf s.cur)).resid.find? fun e => matchesTid t e.2)
    t.v = true → Gives s (exec (.reschk o) s) [(predTo s o.d 40 (match found with
      | none => true
      | some e => !residCurrent s e.2)).away])

/-- The activity instructions: what each does where its checks pass, the result it sends back with latency 40, and the traps
0x0502 inside a compensation task and 0x0501 with its reason (R317 to R326). Which unit acts, reason 5 and the ends of CEND
and ADISCARD that the rules leave open are the model's choice (logs 18, 70, 71), and so is that a step of a launch torn down opens
its activity as before (log 93). -/
def Obligations.ActivityInstructions : Prop :=
  let act (x : Word) : BitVec 12 := x.setWidth 12
  let task (s : State) : Prop := inComp s = false
  (∀ (o : OpD) (s : State), task s →
    (beginAct s = none → Gives s (exec (.abegin o) s) [(scalarOnly s o.d false 40 (BitVec.allOnes 64)).away]) ∧
    (∀ a r, beginAct s = some (a, r) → exec (.abegin o) s =
      .next ((r.modSl fun sl => { sl with attach := some a }).sending [(scalarOnly r o.d false 40 (a.setWidth 64)).away]))) ∧
  (∀ (o : OpApush) (s : State),
    let r := publishOp s
    let a := act (srcS s o.a)
    let x := (srcS s o.b).toNat
    task s → actReason s a true true = none → x < 8192 → s.poisoned (spadRow s.cur x) = false →
    let r1 := landSlot r
    ((actGet r1 a).st ≠ .opened → exec (.apush o) s = .next (r1.sending [(predTo r1 o.d 40 true).away])) ∧
    ((actGet r1 a).st = .opened →
      (pushEntry r1 (dieOf r1.cur) a 0 ((s.rdRow s.cur x).toNat % 2 ^ 384) o.entry.toNat r1.sl.released = none →
        exec (.apush o) s = .next (r1.sending [(predTo r1 o.d 40 true).away])) ∧
      ∀ u, pushEntry r1 (dieOf r1.cur) a 0 ((s.rdRow s.cur x).toNat % 2 ^ 384) o.entry.toNat r1.sl.released = some u →
        exec (.apush o) s = .next ((u.modSl fun sl => { sl with
          released := []
          attach := some a }).sending [(predTo u o.d 40 false).away]))) ∧
  (∀ (o : OpDa) (s u : State),
    let r := publishOp s
    let a := act (srcS s o.a)
    task s → actReason s a true true = none →
    (actGet (landSlot r) a).st = .opened → pushEntry (landSlot r) (dieOf (landSlot r).cur) a 1 0 0 [] = some u →
    let u1 := (modAct u a fun x => { x with nsave := x.nsave + 1 }).modSl fun sl => { sl with
      released := []
      attach := some a }
    exec (.asave o) s = .next (u1.sending [(scalarOnly u1 o.d false 40 ((actGet u1 a).nsave.setWidth 64)).away])) ∧
  (∀ (o : OpPa) (s : State),
    let r := publishOp s
    let a := act (srcS s o.a)
    task s → actReason s a true false = none →
    (tiedLive r a = false → (actGet r a).st = .opened →
      exec (.acommit o) s = .next ((commitAct (landSlot r) a).remoteP o.d false)) ∧
    ((tiedLive r a = true ∨ (actGet r a).st ≠ .opened) →
      exec (.acommit o) s = .next (r.sending [(predTo r o.d 40 true).away]))) ∧
  (∀ (o : OpPss) (s : State),
    let r := publishOp s
    let a := act (srcS s o.a)
    let save : BitVec 16 := (srcS s o.a).extractLsb' 12 16
    task s → actReason s a true false = none → srcS s o.b = 0 →
    let r1 := landSlot r
    ((actGet r1 a).st = .opened → save ≤ (actGet r1 a).nsave → exec (.aabandon o) s =
      .next ((startAbandon r1 a save none r1.sl.asn (dieOf r1.cur) r1.gate).remoteP o.d false)) ∧
    (((actGet r1 a).st ≠ .opened ∨ (actGet r1 a).nsave < save) →
      exec (.aabandon o) s = .next (r1.sending [(predTo r1 o.d 40 true).away]))) ∧
  (∀ (s : State) (d : BitVec 3) (x : Bool), s.remoteP d x = s.sending [(predTo s d 40 x).away]) ∧
  (∀ (o : OpA) (s : State), ((s.task (curTask s)).kind = .comp ∨ s.sl.sup = true) → (srcS s o.a).getLsbD 0 = false →
    exec (.cend o) s = .next ((askCkpt s).leaveBy (.final .done 0))) ∧
  (∀ (o : OpA) (s : State), (s.task (curTask s)).kind ≠ .comp → s.sl.sup = false →
    exec (.cend o) s = .next (s.trap 0x0502 0 2)) ∧
  (∀ (o : OpSS) (s : State),
    let a := act (srcS s o.a)
    (s.sl.sup = false → exec (.aresume o) s = .next s.privilege) ∧
    (s.sl.sup = true → (actGet s a).st = .failed → ∃ t, exec (.aresume o) s = .next t ∧
      (actGet t a).st = .abandoning ∧ (∀ b ∈ t.abandons, b.failed ≠ some a) ∧ t.sl = s.sl ∧ t.mem = s.mem)) ∧
  (∀ (o : OpA) (s : State),
    let a := act (srcS s o.a)
    (s.sl.sup = false → exec (.adiscard o) s = .next s.privilege) ∧
    (s.sl.sup = true → (actGet s a).st = .failed → (∀ b ∈ s.abandons, b.act = a → b.status = none) →
      ∃ t, exec (.adiscard o) s = .next t ∧ (actGet t a).st = .free ∧ t.mem = s.mem ∧ ∀ b ∈ t.abandons, a ∉ b.set)) ∧
  (∀ (o : OpD) (s : State), inComp s = true → exec (.abegin o) s = .next (s.trap 0x0502 0 2)) ∧
  (∀ (o : OpPa) (s : State), inComp s = false → (actGet s (act (srcS s o.a))).st = .free →
    exec (.acommit o) s = .next (s.trap 0x0501 3 2))

/-- CTILE, CREADY, CPLAN and CWAITC: an image that the rules admit enters the die's table, a valid tile not yet ready is
fired once, a plan is set, or released once no firing under it is in flight, a wait ends where the tile is not ready; the rows they read are scratchpad rows (R151,
R327 to R331). The count of switch and port slots on a path is the model's choice (logs 31, 72); that a tile keeps the
address-space number and the level of its CREADY is log 17. -/
def Obligations.CollectiveInstructions : Prop :=
  (∀ (o : OpPss) (s : State),
    let x := (srcS s o.b).toNat
    let row := s.rdRow s.cur x
    let e := (srcS s o.a).toNat % 1024
    let p := (srcS s o.a).toNat % 4096
    let t := tileImage s (row.toNat % 2 ^ 256)
    let n := laneN row 0 16
    let l := (List.range (min n 32)).map fun i => laneN row (i + 1) 16 % 1024
    (8192 ≤ x → exec (.ctile o) s = .next (s.trap 0x0205 (BitVec.ofNat 64 x) 2) ∧
      exec (.cplan o) s = .next (s.trap 0x0205 (BitVec.ofNat 64 x) 2)) ∧
    (x < 8192 → s.poisoned (spadRow s.cur x) = false →
      (tileRefused s (dieOf s.cur) e t = true → exec (.ctile o) s = .next (s.deliverP o.d true 1)) ∧
      (tileRefused s (dieOf s.cur) e t = false →
        exec (.ctile o) s = .next ((setTile s (dieOf s.cur) e t).deliverP o.d false 1)) ∧
      (n = 0 → s.planOut = [] → planBusy s p = false → exec (.cplan o) s =
        .next (({ s with plans := tdel s.plans p } : State).sending [(predTo s o.d 40 false).away])) ∧
      (n = 0 → s.planOut = [] → planBusy s p = true → exec (.cplan o) s =
        .next (({ s with planOut := [(p, s.cur, s.me.ctx)] } : State).sending [(predTo s o.d 40 false).away])) ∧
      (n ≠ 0 → planRefused s p n l = false → exec (.cplan o) s =
        .next (({ s with plans := tput s.plans p l } : State).sending [(predTo s o.d 40 false).away])) ∧
      (n ≠ 0 → planRefused s p n l = true →
        exec (.cplan o) s = .next (s.sending [(predTo s o.d 40 true).away])))) ∧
  (∀ (o : OpPa) (s : State),
    let r := publishOp s
    let e := (srcS s o.a).toNat % 1024
    let d := dieOf r.cur
    let t := tileAt r d e
    ((t.v = false ∨ t.rdy = true ∨ 64 ≤ (r.die d).firings.length) → exec (.cready o) s = .next (r.deliverP o.d true 1)) ∧
    (t.v = true → t.rdy = false → (r.die d).firings.length < 64 → exec (.cready o) s = .next
      (((setTile r d e { t with rdy := true, asn := r.sl.asn, sup := r.sl.sup, gate := r.gate }).modDie d fun x => { x with
        cflt := sdel x.cflt e
        firings := x.firings ++ [e] }).deliverP o.d false 1))) ∧
  (∀ (o : OpPss) (s : State),
    let e := (srcS s o.a).toNat % 1024
    (tileAt s (dieOf s.cur) e).rdy = false → waited s.me ≤ (srcS s o.b).toNat % 2 ^ 32 →
    Gives s (exec (.cwaitc o) s) [predTo s o.d 1 false, predTo s (o.d + 1) 1 ((s.die (dieOf s.cur)).cflt.contains e)])

/-! ## Cache pages -/

/-- BTSET, BTLOOK, BTINV, SACC, GRACE and HANDOVER, where the descriptor and what it names are translated, whole within
their lines and in device memory, and nothing is outstanding or withheld: the entry, score or counter takes its new value,
no other byte changes, buffered entries go, and the result comes with latency 40; BTINV freezes its core while a cluster still
buffers an entry of the descriptor; an exit that leaves its counter at 0 frees the page that is listed for it, and a HANDOVER
that finds the counter at 0 frees the old page at once: its notice word gets the block number with bit 63 set (R6, R16, R152,
R153, R166, R332 to R335). That
BTLOOK reads published memory by the descriptor's physical address, and that D = 0 names no notice, are the model's choice
(logs 69, 73). -/
def Obligations.CachePageInstructions : Prop :=
  let quiet (s : State) : Prop := s.me.inflight = [] ∧ s.me.withheld = [] ∧ s.me.pubs = [] ∧ FreshNumber s.me
  -- the one result on its way, but for the access that it belongs to
  let sent (t : State) (e : InFl) : Prop := ∃ x, t.me.inflight = [x] ∧ { x with acc := none } = e.away
  let page (s : State) (ks : List Kind) (va : Addr) (n : Nat) (pa : Addr) : Prop :=
    (tlbFind s (clusterOf s.cur) (dieOf s.cur) s.sl.asn va).isSome = true ∧
    (∀ k ∈ ks, ∃ attr e, xlate s s.cur s.sl.asn s.sl.sup k va = .ok pa attr e) ∧ va.toNat % 256 + n ≤ 256 ∧
    pa.toNat < devTop ∧ s.poisoned pa.toNat = false
  let nlb (s : State) (d : Addr) : Nat := rdN s.mem d.toNat 64 / 2 ^ 128 % 2 ^ 32
  let entry (s : State) (d : Addr) (b : Nat) : Addr := BitVec.ofNat 52 (rdN s.mem d.toNat 64 % 2 ^ 52 + 4 * b)
  let score (s : State) (d : Addr) (i : Nat) : Addr := BitVec.ofNat 52 (rdN s.mem d.toNat 64 / 2 ^ 192 % 2 ^ 52 + 4 * i)
  let grace (s : State) (d : Addr) (p : Nat) : Addr := BitVec.ofNat 52 (rdN s.mem d.toNat 64 / 2 ^ 256 % 2 ^ 52 + 4 * p)
  let writes (s t : State) (pa : Addr) (v : Nat) : Prop := rdN t.mem pa.toNat 4 = v % 2 ^ 32 ∧
    ∀ y, (y < pa.toNat ∨ pa.toNat + 4 ≤ y) → rd t.mem y = rd s.mem y
  (∀ (o : OpPss) (s : State) (d : Addr), quiet s → page s [.rd] ((srcS s o.a).setWidth 52) 64 d →
    let x := (srcS s o.b).toNat
    let b := x % 2 ^ 32
    (nlb s d ≤ b → ∃ t, exec (.btset o) s = .next t ∧ sent t (predTo s o.d 40 true) ∧ t.mem = s.mem) ∧
    (∀ e, b < nlb s d → page s [.wr] (entry s d b) 4 e → ∃ t, exec (.btset o) s = .next t ∧
      sent t (predTo s o.d 40 false) ∧ writes s t e (x / 2 ^ 32 % 2 ^ 24 + x / 2 ^ 63 * 2 ^ 31) ∧
      ∀ cl, ∀ y ∈ (t.cluster cl).btb, ¬(y.desc = d ∧ y.block = b))) ∧
  (∀ (o : OpDab) (s : State) (d : Addr), page s [.rd] ((srcS s o.a).setWidth 52) 64 d →
    let b := (srcS s o.b).toNat % 2 ^ 32
    let gives (x : Nat) : Prop := ∃ t, exec (.btlook o) s = .next t ∧ t.mem = s.mem ∧
      t.me.inflight = s.me.inflight ++ [(scalarOnly s o.d false 40 (BitVec.ofNat 64 x)).away]
    (nlb s d ≤ b → gives 0) ∧
    (∀ y, b < nlb s d → ((s.cluster (clusterOf s.cur)).btb.find? fun e => e.desc == d && e.block == b) = some y →
      gives (y.pbn.toNat + 2 ^ 31)) ∧
    (∀ e, b < nlb s d → (∀ y ∈ (s.cluster (clusterOf s.cur)).btb, ¬(y.desc = d ∧ y.block = b)) →
      page s [.rd] (entry s d b) 4 e →
      let x := rdN s.mem e.toNat 4
      gives (x % 2 ^ 24 + x / 2 ^ 31 % 2 * 2 ^ 31))) ∧
  (∀ (o : OpA) (s : State) (d : Addr), page s [.rd] ((srcS s o.a).setWidth 52) 1 d →
    ((∀ x ∈ s.clusters, ∀ y ∈ x.2.btb, y.desc ≠ d) → ∃ t, exec (.btinv o) s = .next t ∧ t.sig = s.sig ∧ t.mem = s.mem ∧
      t.sl = s.sl) ∧
    ((∃ x ∈ s.clusters, ∃ y ∈ x.2.btb, y.desc = d) → exec (.btinv o) s = .next (s.freezeAt 6 (.btinv d)))) ∧
  (∀ (o : OpDab) (s : State) (d : Addr) (pa : Nat → Addr), quiet s → page s [.rd] ((srcS s o.a).setWidth 52) 64 d →
    let t0 := (sReg s.sl o.d).toNat
    let inside (i : Nat) : Prop := i < 64 ∧ t0 + i < 16 * nlb s d
    (∀ i, inside i → page s [.rd, .wr] (score s d (t0 + i)) 4 (pa i)) →
    (∀ i j, inside i → inside j → i ≠ j → (pa i).toNat + 4 ≤ (pa j).toNat ∨ (pa j).toNat + 4 ≤ (pa i).toNat) →
    ∃ t, exec (.sacc o) s = .next t ∧ t.me.inflight = [] ∧
      (∀ i, inside i → rdN t.mem (pa i).toNat 4 =
        (encodeF .f32 .rne (addFV .rne (decodeF .f32 (rdN s.mem (pa i).toNat 4))
          (decodeF .f32 (laneN (srcVT s .f32 .rne o.b) i 32))).1).1 % 2 ^ 32) ∧
      ∀ y, (∀ i, inside i → y < (pa i).toNat ∨ (pa i).toNat + 4 ≤ y) → rd t.mem y = rd s.mem y) ∧
  (∀ (o : OpPss) (s : State) (d c : Addr), quiet s → page s [.rd] ((srcS s o.a).setWidth 52) 64 d →
    let x := srcS s o.b
    let n := rdN s.mem c.toNat 4
    page s [.rd, .wr] (grace s d (x.toNat % 2 ^ 24)) 4 c →
    (x.getLsbD 63 = false → n < 2 ^ 32 - 1 → ∃ t, exec (.grace o) s = .next t ∧
      sent t (predTo s o.d 40 false) ∧ writes s t c (n + 1)) ∧
    (x.getLsbD 63 = true → 1 < n → ∃ t, exec (.grace o) s = .next t ∧
      sent t (predTo s o.d 40 false) ∧ writes s t c (n - 1)) ∧
    (x.getLsbD 63 = true → n = 1 → ∃ t u, exec (.grace o) s = .next t ∧ sent t (predTo s o.d 40 false) ∧ writes s u c 0 ∧
      (u.die (homeDie c.toNat)).pendrel = (s.die (homeDie c.toNat)).pendrel ∧ t.mem = (freePage u c.toNat).mem ∧
      ((s.die (homeDie c.toNat)).pendrel.find? (fun r => r.ctr.toNat == c.toNat) = none → writes s t c 0) ∧
      (t.die (homeDie c.toNat)).pendrel = (s.die (homeDie c.toNat)).pendrel.filter fun r => r.ctr.toNat != c.toNat) ∧
    (n = (if x.getLsbD 63 then 0 else 2 ^ 32 - 1) → ∃ t, exec (.grace o) s = .next t ∧
      sent t (predTo s o.d 40 true) ∧ t.mem = s.mem)) ∧
  (∀ (o : OpPss) (s : State) (d e c n : Addr), quiet s → page s [.rd] ((srcS s o.a).setWidth 52) 64 d →
    let x := (srcS s o.b).toNat
    let b := x % 2 ^ 32
    let old := rdN s.mem e.toNat 4 % 2 ^ 24
    (o.d ≠ 0 → page s [.wr] ((sReg s.sl (o.d.setWidth 5)).setWidth 52) 1 n) →
    (nlb s d ≤ b → ∃ t, exec (.handover o) s = .next t ∧ sent t (predTo s o.d 40 true) ∧ t.mem = s.mem) ∧
    (b < nlb s d → page s [.rd, .wr] (entry s d b) 4 e → rdN s.mem e.toNat 4 / 2 ^ 31 % 2 = 1 →
      page s [.rd] (grace s d old) 4 c → (c.toNat + 4 ≤ e.toNat ∨ e.toNat + 4 ≤ c.toNat) →
      (s.die (homeDie c.toNat)).pendrel.length < 256 → rdN s.mem c.toNat 4 ≠ 0 →
      ∃ t, exec (.handover o) s = .next t ∧ sent t (predTo s o.d 40 false) ∧
        writes s t e (x / 2 ^ 32 % 2 ^ 24 + 2 ^ 31) ∧
        (∃ r, (t.die (homeDie c.toNat)).pendrel = (s.die (homeDie c.toNat)).pendrel ++ [r] ∧ r.ctr = c ∧
          r.pbn = BitVec.ofNat 24 old ∧ r.sup = s.sl.sup ∧ (o.d = 0 → r.notice = none)) ∧
        ∀ cl, ∀ y ∈ (t.cluster cl).btb, ¬(y.desc = d ∧ y.block = b)) ∧
    (b < nlb s d → page s [.rd, .wr] (entry s d b) 4 e → rdN s.mem e.toNat 4 / 2 ^ 31 % 2 = 1 →
      page s [.rd] (grace s d old) 4 c → (c.toNat + 4 ≤ e.toNat ∨ e.toNat + 4 ≤ c.toNat) →
      (s.die (homeDie c.toNat)).pendrel.length < 256 → rdN s.mem c.toNat 4 = 0 →
      ∃ t u r, exec (.handover o) s = .next t ∧ sent t (predTo s o.d 40 false) ∧
        writes s u e (x / 2 ^ 32 % 2 ^ 24 + 2 ^ 31) ∧ t.mem = (writeNotice u (homeDie c.toNat) r).mem ∧
        r.pbn = BitVec.ofNat 24 old ∧
        r.notice = (if o.d = 0 then none else some ((sReg s.sl (o.d.setWidth 5)).setWidth 52)) ∧
        (t.die (homeDie c.toNat)).pendrel = (s.die (homeDie c.toNat)).pendrel ∧
        ∀ cl, ∀ y ∈ (t.cluster cl).btb, ¬(y.desc = d ∧ y.block = b))) ∧
  ∀ (s : State) (d : Nat) (r : PendRel),
    (r.notice = none → writeNotice s d r = s) ∧
    ∀ a pa attr e, r.notice = some a → xlateU s (128 * d) (schedMaster d) r.asn r.sup .wr a = .ok pa attr e →
      pa.toNat + 8 ≤ devTop → pa.toNat % 256 ≤ 248 →
      rdN (writeNotice s d r).mem pa.toNat 8 = r.pbn.toNat + 2 ^ 63 ∧
      ∀ y, (y < pa.toNat ∨ pa.toNat + 8 ≤ y) → rd (writeNotice s d r).mem y = rd s.mem y

/-! ## Traps and system instructions -/

/-- Trap entry at task level with nothing in flight, no matrix operation, and a frame that can be written: the frame holds
what the step leaves, TCAUSE, TEPC with PROL and TVAL are set, SUP is 1, the pc is TVEC, and every other register stays, the
loop stack too; TRAP and EBREAK raise it with their causes; at supervisor level any trap takes the fatal path (R336,
R341, R342, R345, R359). That the loop stack stays and that PROL is zero are the model's choice (log 50). -/
def Obligations.TrapEntry : Prop :=
  let enters (s t : State) (cause : BitVec 16) (tval : Word) : Prop :=
    let epc : Word := s.sl.pc.setWidth 64 ||| (s.sl.prol.setWidth 64 <<< 52)
    ∀ u, writeFrame s.cur (frameBase s.me) (frameOf s.me s.sl [] cause epc tval) 0x58 (s.setMe s.me) = .ok u →
      u.me = s.me → u.cur = s.cur → t.mem = u.mem ∧ t.tasks = u.tasks ∧ t.dies = u.dies ∧ t.cur = s.cur ∧
      t.me.tcause = cause ∧ t.me.tepc = epc ∧ t.me.tval = tval ∧ t.sl.sup = true ∧
      t.sl.pc = s.me.tvec.setWidth 52 &&& 0xFFFFFFFFFFFFC ∧ t.sl.loops = s.sl.loops ∧ t.sl.prol = 0 ∧ t.sl.s = s.sl.s ∧
      t.sl.v = s.sl.v ∧ t.sl.p = s.sl.p ∧ t.sl.m = s.sl.m ∧ t.sl.a = s.sl.a ∧ t.sl.sticky = s.sl.sticky ∧
      t.sl.tids = s.sl.tids ∧ t.sl.task = s.sl.task ∧ t.me.withheld = s.me.withheld ∧ t.me.journal = s.me.journal ∧
      t.me.deferred = s.me.deferred ∧ t.me.xpose = s.me.xpose ∧ t.me.tvec = s.me.tvec ∧ t.me.tfbase = s.me.tfbase ∧
      t.me.tscr = s.me.tscr
  let quiet (s : State) : Prop := s.sl.sup = false ∧ s.me.inflight = [] ∧ s.me.mq = [] ∧ s.me.mdue = [] ∧
    s.sl.bubble = false ∧ s.me.slot0.lcause = [] ∧ s.me.slot1.lcause = [] ∧ frameAsk s s.cur .wr = none
  (∀ (s : State) (cause : BitVec 16) (tval : Word), quiet s → enters s (takeTrap s s.cur cause tval) cause tval) ∧
  (∀ (code : BitVec 12) (s : State), quiet s → ∃ t, exec (.trap code) s = .next t ∧ t.sig = .trap 2 ∧
    enters s t (0x1000 + code.setWidth 16) (BitVec.ofNat 64 s.ctx.words)) ∧
  (∀ s : State, quiet s → ∃ t, exec .ebreak s = .next t ∧ t.sig = .trap 2 ∧
    enters s t 0x0011 (BitVec.ofNat 64 s.ctx.words)) ∧
  (∀ (s : State) (cause : BitVec 16) (tval : Word), s.sl.sup = true →
    ∃ t, takeTrap s s.cur cause tval = t ∧ t.cores = s.cores ∧ t.tasks = s.tasks ∧
      (s.fatal = none → ∃ f, t.fatal = some f ∧ f.die.toNat = dieOf s.cur % 8 ∧ f.core.toNat = s.cur % 1024 ∧ f.cause = cause) ∧
      (s.fatal.isSome = true → t = s))

/-- RFT: at task level it raises the privilege trap; at supervisor level, with nothing outstanding and a frame that asks to
resume and holds no in-flight entry, the step's registers are those of the frame, SUP is 0, and the step resumes at the TEPC
register with its PROL; the reserved bits of the sticky records stay zero; while an access of the handler is outstanding, or
a page of the frame has still to be granted, the core holds at the return (R6, R77, R337, R345, R347). That the register TEPC,
and not the frame's image of it, names the resumption, and how the return waits, are the model's reading (logs 24, 28). -/
def Obligations.TrapReturn : Prop :=
  (∀ s : State, s.sl.sup = false → exec .rft s = .next s.privilege) ∧
  (∀ (s : State) (f : Nat), s.sl.sup = true → readFrame s s.cur (frameBase s.me) 0x58 = .ok f →
    (wordAt f 48 4 / 2 ^ 6 % 4 = 0) → wordAt f 48 1 % 64 = 0 → s.sl.cfail = false →
    s.me.inflight = [] → s.me.mq = [] → s.me.mdue = [] → frameAsk s s.cur .rd = none →
    ∃ t, exec .rft s = .next t ∧ t.cur = s.cur ∧ t.sl.sup = false ∧
      t.sl.pc = s.me.tepc.setWidth 52 &&& 0xFFFFFFFFFFFFC ∧ t.sl.prol = s.me.tepc.extractLsb' 52 12 ∧
      (∀ r : BitVec 5, r ≠ 0 → sReg t.sl r = BitVec.ofNat 64 (wordAt f (0x100 + 8 * r.toNat) 8)) ∧
      (∀ r : BitVec 5, vReg t.sl r = BitVec.ofNat 2048 (wordAt f (0x1100 + 256 * r.toNat) 256)) ∧
      (∀ r : BitVec 3, r ≠ 0 → pReg t.sl r = (wordAt f 0x200 1).testBit r.toNat) ∧
      (∀ r : BitVec 3, mReg t.sl r = BitVec.ofNat 128 (wordAt f (0x210 + 16 * r.toNat) 16)) ∧
      (∀ i, i < 8 → vget t.sl.sticky i 0 = BitVec.ofNat 64 (wordAt f (0x300 + 8 * i) 8) &&& 0xBF7FFFFFFFFFFFFF) ∧
      (s.me.qkept = [] → (∀ n, n < 4 → wordAt f (0x5500 + 32 * n) 32 % 2 = 0) → t.me.mq = []) ∧ t.me.returning = false ∧
      t.sl.loops.length = min 4 (wordAt f 24 8 / 2 ^ 8 % 8) ∧ t.sl.replay = (wordAt f 24 8).testBit 4 ∧
      t.sl.a = s.sl.a ∧ t.sl.tids = s.sl.tids ∧ t.me.deferred = s.me.deferred ∧ t.me.xpose = s.me.xpose ∧ t.mem = s.mem) ∧
  (∀ s : State, s.sl.sup = true → pendingAcc s.me = true ∨ (frameAsk s s.cur .rd).isSome = true → ∃ t, exec .rft s = .next t ∧
    t.me.returning = true ∧ t.sl = s.sl ∧ t.mem = s.mem)

/-- SIGNAL publishes what its slot withholds, and appends to the target's queue or reports it full; the interrupt waits for
the accesses before it; XREAD gives the sticky record it names, XCLR clears it; ERRLD reads
64 bits of the record that its selector names (part in [1:0], bank in [3:2], record in [6:4], die in [9:7]), its result is
remote and no record changes, and at task level it raises the privilege trap (R77, R158, R338, R339). How the signal
waits is the model's reading (log 28). -/
def Obligations.SignalsAndStickyRecords : Prop :=
  (∀ (o : OpPss) (s : State),
    let r := publishOp s
    let c := (srcS s o.a).toNat % 1024
    ((r.core c).signals.length < 8 → exec (.signal o) s = .next ((r.modCore c fun k => { k with
      signals := k.signals ++ [((srcS s o.b).setWidth 16, BitVec.ofNat 10 r.cur, r.gate)] }).deliverP o.d false 1)) ∧
    (8 ≤ (r.core c).signals.length → exec (.signal o) s = .next (r.deliverP o.d true 1))) ∧
  (∀ (o : OpXread) (s : State),
    Gives s (exec (.xread o) s) [scalarOnly s o.d false 1 (vget s.sl.sticky o.n.toNat 0)]) ∧
  (∀ (n : BitVec 3) (s : State), ∃ t, exec (.xclr n) s = .next t ∧ vget t.sl.sticky n.toNat 0 = 0 ∧
    (∀ i, i ≠ n.toNat → vget t.sl.sticky i 0 = vget s.sl.sticky i 0) ∧ RegsKept s.sl t.sl ∧ OthersKept s t ∧ UnitsKept s t ∧
    ControlKept s.me t.me) ∧
  (∀ (o : OpDa) (s : State),
    let x := srcS s o.a
    let r := vget (vget (s.die (x.extractLsb' 7 3).toNat).banks (x.extractLsb' 2 2).toNat .reset).recs (x.extractLsb' 4 3).toNat
      .empty
    (s.sl.sup = true → ∃ w : Word, Gives s (exec (.errld o) s) [(scalarOnly s o.d false 40 w).away] ∧
      match (x.extractLsb' 0 2).toNat with
      | 0 => w.getLsbD 0 = r.v ∧ w.extractLsb' 1 2 = r.rank ∧ w.getLsbD 3 = r.ovf ∧ w.extractLsb' 4 4 = r.unit ∧
          w.extractLsb' 8 16 = r.master ∧ w.extractLsb' 24 8 = r.ecode
      | 1 => w = r.addr.setWidth 64
      | 2 => w = r.synd
      | _ => w = r.time) ∧
    (s.sl.sup = false → exec (.errld o) s = .next s.privilege))

/-! ## The outside -/

/-- The accesses of control space: in a module that is READY the register takes its new value, or gives its value, and the
access completes where the access table allows it and no stream that is not secure refuses it; before READY only BOOTSTAT
answers; where the table denies it, it is aborted and the register stays
(R100, R123, R136, R151, R156, R158, R351, R363, R367, R372 to R375). A doorbell is stored where it does not pass the head,
and sets ERR else; ring reset and TBIVC are given with their effects on the ring and on later writes. LQKILL tears down every unfinished launch of
its identifier and no other: its operations leave the counters, its open activities are abandoned, its tasks that have not
begun become CANCELLED with that word, its running steps go on, marked, and it closes once no task of it runs (R137). The numbers of the
access tables, the error of a tail beyond the ring's size, and that a write of SUP or LQKILL by a master that may not write it
changes nothing are the model's choice (logs 10, 43, 47). -/
def Obligations.HostRegisterWrites : Prop :=
  let writes (i : Instr) (m off : Nat) (f : State → State) : Prop := ∀ s : State,
    (s.boot = .ready → accOk s m .wr (3 * 2 ^ 48 + off) = true → linkRefuses s m .bar0 off 8 = false →
      exec i s = .next { f s with reply := .done }) ∧
    (s.boot ≠ .ready → exec i s = .next { s with reply := .abort }) ∧
    (s.boot = .ready → accOk s m .wr (3 * 2 ^ 48 + off) = false → ∃ t, exec i s = .next t ∧ t.reply = .abort ∧
      t.mem = s.mem ∧ t.cores = s.cores ∧ t.rings = s.rings ∧ t.tasks = s.tasks ∧ t.launches = s.launches ∧
      t.tbivc = s.tbivc ∧ t.access = s.access ∧ t.asroot = s.asroot)
  let setRec (d : DieId) (b : Fin 4) (r : Fin 8) (f : ErrRec → ErrRec) (s : State) : State := s.modDie d.val fun x =>
    let k := vget x.banks b.val .reset
    { x with banks := vset x.banks b.val { k with recs := vset k.recs r.val (f (vget k.recs r.val .empty)) } }
  -- the masters that write what the supervisor and the host write; with `mgmt`, the management controller among them
  let writer (m : Master) (mgmt : Bool) : Bool :=
    decide (mKind (Master.code m) ≤ 2) || mKind (Master.code m) == 4 || (mgmt && m == .mgmt)
  (∀ q v, writes (.lqtailDoorbell q v) 0x8000 (0x100000 + 32 * q.val + 16) fun s => s.modRing q.val fun r => ringTail r v) ∧
  (∀ q en, writes (.lqEnable q en) 0x8000 (0x100000 + 32 * q.val + 24) fun s => s.modRing q.val fun r =>
    if en = true ∧ ¬(1 ≤ r.size.toNat ∧ r.size.toNat ≤ 16) then { r with en := false, err := true } else { r with en := en }) ∧
  (∀ q, writes (.ringReset q) 0x8000 (0x100000 + 32 * q.val + 24) fun s => resetRing s q.val) ∧
  (∀ q, writes (.lqctlErrClear q) 0x8000 (0x100000 + 32 * q.val + 24) fun s =>
    s.modRing q.val fun r => { r with err := false }) ∧
  (∀ m off (v : Word), off.toNat % 8 = 0 → writes (.registerWrite m off (.write 8 v.toNat)) (Master.code m) off.toNat fun s =>
    ctlWrite s (Master.code m) off.toNat v) ∧
  (∀ (m : Master) (off : BitVec 26) (s : State), off.toNat % 8 = 0 → s.boot = .ready ∨ off = 0x4000 →
    accOk s (Master.code m) .rd (3 * 2 ^ 48 + off.toNat) = true → linkRefuses s (Master.code m) .bar0 off.toNat 8 = false →
    exec (.registerWrite m off (.read 8)) s = .next { s with reply := .data (ctlRead s off.toNat).toNat }) ∧
  (∀ m lid, writes (.lqkill m lid) (Master.code m) 0x3108 fun s =>
    if writer m false then killLid s lid else s) ∧
  (∀ m v, writes (.tbivc m v) (Master.code m) 0x3100 fun s => tbivcWrite s v) ∧
  (∀ m, writes (.tbivcOvrClear m) (Master.code m) 0x3100 fun s => { s with tbivcOvr := false }) ∧
  (∀ m c, writes (.preemptRequest m c) (Master.code m) (0x1400000 + 8 * c.val) fun s =>
    if writer m true then s.modCore c.val fun k => { k with preempt := true } else s) ∧
  (∀ m d b r, writes (.errorRecordFree m d b r) (Master.code m) (0x1C00000 + 1024 * d.val + 256 * b.val + 32 * r.val)
    (setRec d b r fun e => { e with v := false })) ∧
  (∀ m d b r, writes (.errorOvfClear m d b r) (Master.code m) (0x1C00000 + 1024 * d.val + 256 * b.val + 32 * r.val)
    (setRec d b r fun e => { e with ovf := false })) ∧
  (∀ m d v, writes (.cssegWrite m d v) (Master.code m) (0x3200 + 8 * d.val) fun s =>
    if s.acts.any (fun a => a.2.st != .free) ∨ writer m true = false then s
    else s.modDie d.val fun x => { x with csseg := v &&& 0x000FFFFFFFF00FFF }) ∧
  (∀ m d v, writes (.trpoolWrite m d v) (Master.code m) (0x3300 + 8 * d.val) fun s =>
    if s.tasks.any (fun e => e.2.die == d.val && !e.2.st.final) ∨ writer m true = false then s
    else s.modDie d.val fun x => { x with trpool := v &&& 0x000FFFFFFFF00FFF }) ∧
  (∀ m v, writes (.devidWrite m v) (Master.code m) 0x6200 fun s =>
    if m = .mgmt then { s with devid := v &&& 0x3F } else s) ∧
  (∀ (l : Fin 2) d i, writes (.hostSyncRelease l d i) (0x8000 + l.val) (0x200000 + 8 * (16384 * d.val + i.val)) fun s =>
    s.modDie d.val fun x => { x with
      sync := tput x.sync i.val ⟨(tget x.sync i.val ⟨0, 0, false⟩).ver + 1, 0, false⟩ }) ∧
  (∀ (l : Fin 2) (d : DieId) (i : Fin 16384) (s : State), s.boot = .ready →
    accOk s (0x8000 + l.val) .rd (3 * 2 ^ 48 + (0x200000 + 8 * (16384 * d.val + i.val))) = true →
    linkRefuses s (0x8000 + l.val) .bar0 (0x200000 + 8 * (16384 * d.val + i.val)) 8 = false →
    exec (.hostSyncAcquire l d i) s =
      .next { s with reply := .data (tget (s.die d.val).sync i.val ⟨0, 0, false⟩).ver.toNat }) ∧
  (∀ (m : Master) (t i : Fin 64) (e : BitVec 192) (s : State),
    (m = .mgmt → ∃ u, exec (.accessTableWrite m t i e) s = .next u ∧
      (∀ b, (tget (tget u.access t.val []) i.val 0).getLsbD b = (e.getLsbD b &&
        (decide (b < 4) || decide (16 ≤ b ∧ b < 48) || decide (64 ≤ b ∧ b < 100) || decide (128 ≤ b ∧ b < 164)))) ∧
      ∀ t' i', ¬(t' = t.val ∧ i' = i.val) → tget (tget u.access t' []) i' 0 = tget (tget s.access t' []) i' 0) ∧
    (m ≠ .mgmt → ∃ u, exec (.accessTableWrite m t i e) s = .next u ∧ u.access = s.access)) ∧
  -- the doorbell (R123)
  (∀ (r : Ring) (v : Word), ¬(1 ≤ r.size.toNat ∧ r.size.toNat ≤ 16) → ringTail r v = { r with err := true }) ∧
  (∀ (r : Ring) (k : Nat), 1 ≤ r.size.toNat → r.size.toNat ≤ 16 →
    let n := 2 ^ r.size.toNat
    r.head.toNat < n → r.tail.toNat < n → k < n →
    let v : Word := BitVec.ofNat 64 ((r.tail.toNat + k) % n)
    ((r.tail.toNat + n - r.head.toNat) % n + k < n → ringTail r v = { r with tail := v }) ∧
    (n ≤ (r.tail.toNat + n - r.head.toNat) % n + k → ringTail r v = { r with err := true })) ∧
  -- a ring reset (R136)
  (∀ (s : State) (q : Nat), 1 ≤ (s.ring q).size.toNat → (s.ring q).size.toNat ≤ 16 →
    let r := s.ring q
    let n := 2 ^ r.size.toNat
    let at_ (k : Nat) : Nat := (r.base.toNat / 128 * 128 + 128 * ((r.head.toNat + k) % n)) % 2 ^ 52
    r.head.toNat < n → r.tail.toNat < n → s.fatal = none →
    (∀ k, k < n → engineReach s (at_ k) = true ∧ accOk s (schedMaster 0) .wr (at_ k) = true) →
    let t := resetRing s q
    (t.ring q).head.toNat = r.tail.toNat ∧ (t.ring q).en = r.en ∧ t.launches = s.launches ∧ t.tasks = s.tasks ∧
    ∀ k, k < (r.tail.toNat + n - r.head.toNat) % n →
      rdN t.mem (at_ k) 8 % 16 = 2) ∧
  -- LQKILL and the teardown of a launch (R136, R137)
  (∀ (s : State) (lid : BitVec 16) (l : Nat), let t := killLid s lid
    ((s.launch l).lid = lid → (s.launch l).st ≠ .done → (t.launch l).torn = true ∧ ∀ n, s.task n ≠ .none →
      (s.task n).launch = l → (s.task n).kind ≠ .comp → (s.task n).st.final = false →
      (if (s.task n).st = .running then (t.task n).st = .running ∧ (t.task n).torn = true
        else (t.task n).st = .cancelled)) ∧
    ((∀ e ∈ s.launches, e.1 = l → e.2.lid ≠ lid) → (t.launch l).torn = (s.launch l).torn ∧ (t.launch l).st = (s.launch l).st)) ∧
  (∀ (s : State) (l : Nat), (s.launch l).st ≠ .done → let t := teardown s l
    (∀ d, (t.die d).tops = (s.die d).tops.filter (fun o => o.launch != some l) ∧
      (t.die d).tdue = (s.die d).tdue.filter fun o => o.launch != some l) ∧
    (∀ a : BitVec 12, (actGet s a).st = .opened → (actGet s a).launch = l → (actGet t a).st = .abandoning) ∧
    (∀ n, s.task n ≠ .none → (s.task n).launch = l → (s.task n).kind ≠ .comp → (s.task n).st.final = false →
      (s.task n).st ≠ .running → (s.fatal = none →
        (t.task n).cword = cwordOf 2 (s.task n).depcx (s.task n).migr (s.task n).core 0) ∧
      (∀ d, n ∉ (t.die d).ready ∧ n ∉ (t.die d).overflow) ∧ ∀ c, n ∉ (t.core c).local_) ∧
    (∀ n, (s.task n).launch = l → (s.task n).kind = .comp ∨ (s.task n).st.final = true →
      (t.task n).torn = (s.task n).torn ∧ ((s.task n).st.final = true → (t.task n).st = (s.task n).st)) ∧
    ((∃ n, s.task n ≠ .none ∧ (s.task n).launch = l ∧ (s.task n).kind ≠ .comp ∧ (s.task n).st = .running) →
      (t.launch l).st = (s.launch l).st) ∧
    (s.tasks.Pairwise (fun a b => a.1 < b.1) →
      (∀ n, (s.task n).launch = l → (s.task n).kind ≠ .comp → (s.task n).st ≠ .running) → (t.launch l).st = .done)) ∧
  -- TBIVC (R100)
  (∀ (s : State) (v : Word), s.tbivc = none → (tbivcWrite s v).tbivc =
    some (v.extractLsb' 16 36, v.extractLsb' 52 4, v.extractLsb' 56 2)) ∧
  (∀ (s : State) (v : Word), s.tbivc.isSome = true → (tbivcWrite s v).tbivc = s.tbivc ∧ (tbivcWrite s v).tbivcOvr = true ∧
    (tbivcWrite s v).tbivcWord = s.tbivcWord)

/-- An invalidation completes: no buffer holds a translation of its pages; BUSY clears once no walk begun before the write is
left. With nothing under way it changes nothing (R100; log 3). A register with a field of plain storage reads as a host wrote it,
reserved bits as zero (R7, R100, R364, R369 to R372). -/
def Obligations.InvalidationAndReadback : Prop :=
  (∀ (s : State), s.tbivc = none → exec .tbivcComplete s = .next s) ∧
  (∀ (s : State) (vpn : BitVec 36) (asn : BitVec 4) (size : BitVec 2), s.tbivc = some (vpn, asn, size) →
    ∃ t, exec .tbivcComplete s = .next t ∧ t.mem = s.mem ∧ t.cores = s.cores ∧
      (∀ cl, ∀ e ∈ (t.cluster cl).tlb, e.asn ≠ asn ∨ (size ≠ 3 ∧ e.va.extractLsb' 16 36 ≠ vpn)) ∧
      (∀ d, ∀ e ∈ (t.die d).tlb, e.asn ≠ asn ∨ (size ≠ 3 ∧ e.va.extractLsb' 16 36 ≠ vpn)) ∧
      (t.tbivc = none ↔ ∀ e ∈ s.dies, ∀ w ∈ e.2.walks, w.fresh = true)) ∧
  (∀ (s : State) (l : Fin 2) (v : Word),
    let m := 0x8000 + l.val
    let back (off : Nat) (mask : Word) : Prop := ctlRead (ctlWrite s m off v) off = v &&& mask
    back 0x2000 (BitVec.allOnes 64) ∧ (∀ n, n < 16 → back (0x3000 + 8 * n) 0x000FFFFFFFFFF000) ∧
    (∀ n, n < 16 → back (0x5000 + 8 * n) 0x1FFFFF) ∧ (∀ n, n < 64 → back (0x6000 + 8 * n) 0x7FFFF) ∧
    back 0x7008 0xFFC0000000 ∧ (∀ c k, c < 1024 → 1 ≤ k → k ≤ 4 → back (0x1000000 + 64 * c + 8 * k) (BitVec.allOnes 64)) ∧
    (∀ d k, d < 8 → k < 4 → back (0x1800000 + 32 * d + 8 * k) 0x0000FFFFFFFFFFFF) ∧
    ctlRead (ctlWrite s m 0x7000 v) 0x7000 &&& 0xFFF = v &&& 0xFFF)

/-- BAR2 and peer accesses that are allowed, within one line of device memory, read or write their bytes or perform their
atomic; before READY, and where an IDE stream that is not secure carries them, they are aborted; beyond device memory BAR2 reads all ones and drops writes, with an error record;
where the access table denies them they are aborted and memory stays (R156, R361, R362, R366, R367, R369). The silence beyond the
size of BAR2, and that what a stream refuses is answered with an abort, are the model's choice (logs 39, 32). -/
def Obligations.OutsideAccesses : Prop :=
  let performs (s : State) (o : Out) (op : ExtOp) (pa : Nat) : Prop :=
    let writes (a n v : Nat) (r : Reply) : Prop := ∃ t, o = .next t ∧ t.reply = r ∧ rdN t.mem a n = v % 2 ^ (8 * n) ∧
      ∀ x, (x < a ∨ a + n ≤ x) → rd t.mem x = rd s.mem x
    let width (w : Bool) : Nat := if w then 8 else 4
    match op with
    | .read n => o = .next { s with reply := .data (rdN s.mem pa n) }
    | .write n v => writes pa n v .done
    | .fetchAdd w v => pa % width w = 0 →
        writes pa (width w) (rdN s.mem pa (width w) + v.toNat) (.data (rdN s.mem pa (width w)))
    | .swap w v => pa % width w = 0 → writes pa (width w) v.toNat (.data (rdN s.mem pa (width w)))
    | .cas w old new => pa % width w = 0 →
        writes pa (width w) (if rdN s.mem pa (width w) = old.toNat % 2 ^ (8 * width w) then new.toNat else rdN s.mem pa (width w))
          (.data (rdN s.mem pa (width w)))
  let kind (op : ExtOp) : Kind := match op with
    | .read _ => .rd
    | _ => .wr
  let inLine (op : ExtOp) (pa : Nat) : Prop := 1 ≤ extBytes op ∧ pa % 256 + extBytes op ≤ 256 ∧ pa + extBytes op ≤ devTop
  (∀ (l : Fin 2) (op : ExtOp) (off : BitVec 40) (s : State),
    let m := 0x8000 + l.val
    let pa := s.apbase.toNat + off.toNat
    off.toNat + extBytes op ≤ 2 ^ s.bar2 →
    (s.boot ≠ .ready → exec (.bar2Access l op off) s = .next { s with reply := .abort }) ∧
    let open_ : Prop := s.boot = .ready ∧ linkRefuses s m .bar2 off.toNat (extBytes op) = false
    (linkRefuses s m .bar2 off.toNat (extBytes op) = true → exec (.bar2Access l op off) s = .next { s with reply := .abort }) ∧
    (open_ → inLine op pa → accOk s m (kind op) pa = true → performs s (exec (.bar2Access l op off) s) op pa) ∧
    (open_ → 1 ≤ extBytes op → pa + extBytes op ≤ devTop → accOk s m (kind op) pa = false →
      ∃ t, exec (.bar2Access l op off) s = .next t ∧ t.reply = .abort ∧ t.mem = s.mem) ∧
    (open_ → devTop < pa + extBytes op → ∃ t, exec (.bar2Access l op off) s = .next t ∧ t.mem = s.mem ∧
      (kind op = .rd → t.reply = .data (2 ^ (8 * extBytes op) - 1)))) ∧
  (∀ (p : Fin 64) (op : ExtOp) (pa : Addr) (s : State),
    let m := 0xA000 + p.val
    (s.boot ≠ .ready → exec (.peerRequest p op pa) s = .next { s with reply := .abort }) ∧
    (s.boot = .ready → inLine op pa.toNat → accOk s m (kind op) pa.toNat = true →
      performs s (exec (.peerRequest p op pa) s) op pa.toNat) ∧
    (s.boot = .ready → 1 ≤ extBytes op → accOk s m (kind op) pa.toNat = false →
      ∃ t, exec (.peerRequest p op pa) s = .next t ∧ t.reply = .abort ∧ t.mem = s.mem))

/-- Power-on: every unit is as at reset, device memory and staging read zero, and boot starts at its first step; a reset keeps
memory but for lines that a cache alone held. Boot goes through its steps, which write the DEVID and the areas and extend the
measurements, to READY, or stops with the code of the step that fails. SPDM, IDE, the translation service, the power states,
the ports, MSI-X and the size of BAR2 take the steps of their rules (R84, R357 to R359, R361, R362, R364 to R368, R370, R371,
R375). A page that the host grants lets what waits for it perform; one that it does not grant faults what waits for it. The
content of host and peer memory, the mailbox's encodings, the sizes of the areas, what moves the boot on, the ranges of a
stream, what a line holds after a reset, that a refusal stands where nobody waits for it, and that a happening that is not due
changes nothing are the model's choice (logs 5, 33, 81, 36, 32, 35, 98, 3). -/
def Obligations.BootPowerAndLinks : Prop :=
  -- power-on and reset
  (∀ (b : BootIn) (s : State), (s.boot = .off ∨ s.power = .d3cold) → ∃ t, exec (.powerOn b) s = .next t ∧
    t.cores = [] ∧ t.clusters = [] ∧ t.tasks = [] ∧ t.launches = [] ∧ t.rings = [] ∧ t.access = [] ∧ t.fatal = none ∧
    t.power = .p0 ∧ (∀ a, a < 8 * 2 ^ 48 → rd t.mem a = 0) ∧ (∀ a, 8 * 2 ^ 48 ≤ a → rd t.mem a = rd s.mem a) ∧
    t.boot = .running 1 b) ∧
  (∀ (b : BootIn) (s : State), s.boot ≠ .off → s.power ≠ .d3cold → exec (.powerOn b) s = .next s) ∧
  (∀ (b : BootIn) (s : State), s.power ≠ .d3cold → ∃ t, exec (.reset b) s = .next t ∧
    t.cores = [] ∧ t.clusters = [] ∧ t.tasks = [] ∧ t.launches = [] ∧ t.rings = [] ∧ t.access = [] ∧ t.fatal = none ∧
    t.poison = s.poison ∧ t.stack = [] ∧ (s.stack = [] → t.mem = s.mem) ∧ t.boot = .running 1 b) ∧
  (∀ (b : BootIn) (s : State) (n : Nat), s.boot = .running n b →
    let t := bootStep s
    let fails (code : Nat) : Prop := b.fail = some (n, code) ∧
      ((n = 1 ∧ code = 1) ∨ (n = 3 ∧ (code = 2 ∨ code = 3)) ∨ (n = 4 ∧ code = 4))
    let may (u : State) (off : Nat) : Prop := accOk u 0xC000 .wr (3 * 2 ^ 48 + off) = true
    (∀ (c : Fin 1024) (r : List Move), s.agenda = .issue c :: r → s.fatal = none →
      step s = .next (bootStep { s with agenda := r })) ∧
    (∀ code, fails code → t = { s with boot := .failed n code }) ∧
    ((∀ code, ¬fails code) →
      t.boot = (if n < 5 then .running (n + 1) b else .ready) ∧ t.mem = s.mem ∧ t.cores = s.cores ∧
      (n = 3 → (may t 0x6200 → t.devid = b.devid.setWidth 64) ∧ (¬may t 0x6200 → t.devid = s.devid)) ∧
      (n = 4 → ∀ d, d < 8 →
        (may s (0x3200 + 8 * d) → (t.die d).csseg = 32 + (vget b.cssegs d 0).setWidth 64 <<< 20) ∧
        (¬may s (0x3200 + 8 * d) → (t.die d).csseg = (s.die d).csseg) ∧
        (may s (0x3300 + 8 * d) → (t.die d).trpool = 64 + (vget b.trpools d 0).setWidth 64 <<< 20) ∧
        (¬may s (0x3300 + 8 * d) → (t.die d).trpool = (s.die d).trpool)) ∧
      ∀ i, i < 4 → vget t.meas i 0 = (if (n = 2 ∧ i < 2) ∨ (n = 3 ∧ i = 2) ∨ (n = 4 ∧ i = 3) then
        Config.sha256 (vget s.meas i 0 ++ vget b.digests i 0) else vget s.meas i 0))) ∧
  (∀ (b : BootIn) (s : State), s.power = .d3cold → exec (.reset b) s = .next s) ∧
  (∀ s : State, ∃ t, exec .powerRemoval s = .next t ∧ t.power = .d3cold ∧ t.boot = .off ∧ t.cores = [] ∧ t.dies = [] ∧
    ∀ a, rd t.mem a = if a < 8 * 2 ^ 48 then 0 else rd s.mem a) ∧
  -- the mailbox and IDE
  (∀ (l : Fin 2) (r : DoeReq) (s : State), s.power ≠ .d3cold →
    exec (.spdmRequest l (.secured r)) s = exec (.spdmRequest l r) s ∧
    (∀ i, 1 ≤ i → i ≤ 4 → exec (.spdmRequest l (.measurement i)) s =
      .next { s with reply := .data (vget s.meas (i - 1) 0).toNat }) ∧
    (∀ i, (i = 0 ∨ 4 < i) → exec (.spdmRequest l (.measurement i)) s = .next { s with reply := .abort }) ∧
    exec (.spdmRequest l .version) s = .next { s with reply := .versions [(1, 2), (1, 3)] } ∧
    exec (.spdmRequest l .algorithms) s =
      .next { s with reply := .algorithms [.rsassa3072, .sha256, .aes256gcm, .secp384r1] } ∧
    exec (.spdmRequest l .other) s = .next { s with reply := .abort }) ∧
  (∀ (l : Fin 2) (st : Fin 8) (sp : IdeSpace) (lo hi : BitVec 64) (s : State), s.power ≠ .d3cold →
    ∃ t, exec (.spdmRequest l (.ideKey st sp lo hi)) s = .next t ∧ t.reply = .done ∧ t.mem = s.mem ∧ t.cores = s.cores ∧
      streamSecure t l.val st.val = true ∧ ⟨l.val, st.val, sp, lo.toNat, hi.toNat, true⟩ ∈ t.ide ∧
      ∀ e ∈ t.ide, e.link = l.val → e.stream = st.val → e.secure = true) ∧
  (∀ (l : Fin 2) (st : Fin 8) (s : State), streamSecure s l.val st.val = false →
    exec (.ideIntegrityFailure l st) s = .next s) ∧
  (∀ (l : Fin 2) (st : Fin 8) (s : State), streamSecure s l.val st.val = true →
    ∃ t, exec (.ideIntegrityFailure l st) s = .next t ∧ streamSecure t l.val st.val = false ∧ t.mem = s.mem ∧
      t.cores = s.cores ∧ ∀ k : Fin 2,
        (s.msixFns[k.val].sends 3 = true → (k.val, 3) ∈ t.msixSent) ∧
        (s.msixFns[k.val].sends 3 = false → 3 ∈ t.msixFns[k.val].pending)) ∧
  -- address translation services
  (∀ (asn : Fin 16) (vpn : BitVec 36) (size : BitVec 2) (s : State), (∀ e ∈ s.dies, e.2.walks = []) →
    ∃ t, exec (.atsInvalidation asn vpn size) s = .next t ∧ t.reply = .done ∧ t.mem = s.mem ∧
      (∀ cl, ∀ e ∈ (t.cluster cl).tlb, e.asn.toNat ≠ asn.val ∨ (size ≠ 3 ∧ e.va.extractLsb' 16 36 ≠ vpn)) ∧
      ∀ p ∈ t.hostPages, p.1.toNat ≠ asn.val ∨ (size ≠ 3 ∧ p.2.1 ≠ vpn)) ∧
  (∀ (r : AtsAns) (s : State), s.ats = [] → exec (.atsResponse r) s = .next s) ∧
  (∀ (hpa : BitVec 64) (rd wr ex : Bool) (s : State) (q : PageReq) (rest : List PageReq), s.ats = q :: rest →
    let s1 : State := { s with ats := rest }
    let asked : State := { s1 with pri := s.pri ++ [{ q with link :=
      if (s.pri.filter fun x => x.link == 1).length < (s.pri.filter fun x => x.link == 0).length then 1 else 0 }] }
    let right : Bool := match q.kind with
      | .rd => rd
      | .wr => wr
      | .ex => ex
    let u := grantPage s1 q.asn q.vpn hpa rd wr ex
    let refused : State := flushNotices (if q.again then failPage s1 q.asn q.vpn else asked)
    (hpa.toNat < 2 ^ 50 → right = true →
      exec (.atsResponse (.grant hpa rd wr ex)) s = .next (flushNotices (settlePages u))) ∧
    (hpa.toNat < 2 ^ 50 → right = false → exec (.atsResponse (.grant hpa rd wr ex)) s = .next refused) ∧
    (2 ^ 50 ≤ hpa.toNat →
      exec (.atsResponse (.grant hpa rd wr ex)) s = .next (flushNotices (failPage s1 q.asn q.vpn))) ∧
    exec (.atsResponse .refuse) s = .next refused) ∧
  -- the notices that wait for a page are tried again
  (∀ u : State, ((∀ d, d < 8 → (u.die d).notices = []) → flushNotices u = u) ∧
    ∀ d r, d < 8 → (u.die d).notices = [r] → (∀ b, b < 8 → b ≠ d → (u.die b).notices = []) → r.notice ≠ none →
      (∀ a, r.notice = some a → ∃ pa attr e, xlateU u (128 * d) (schedMaster d) r.asn r.sup .wr a = .ok pa attr e) →
      flushNotices u = writeNotice (u.modDie d fun x => { x with notices := [] }) d r) ∧
  -- a page granted: accesses that wait for it perform
  (∀ u : State, ((∀ e ∈ u.cores, pendingAcc e.2 = false) → settlePages u = u) ∧
    ∀ c k x a pa attr e, u.cores = [(c, k)] → k.inflight = [x] → x.acc = some a → a.st = .pending → cachePage a.word = false →
      k.pubs = [] → k.withheld = [] → (∀ b, (k.slotOf b).parked = []) → u.poison = [] →
      missing u c k.slot.asn a.va = false →
      xlate u c k.slot.asn k.slot.sup a.kind.perm a.va = .ok pa attr e →
      ctlDenied u k.slot.sup a.kind.perm pa.toNat a.kind.bytes = false → hostDenies u a pa.toNat attr = false →
      accReady (fillTlb u (clusterOf c) (dieOf c) e) c k.ctx a pa.toNat attr = true →
      pendingAcc ((settlePages u).core c) = false) ∧
  (∀ (s : State) (asn : BitVec 4) (vpn : BitVec 36) (hpa : BitVec 64) (rd wr ex : Bool),
    let t := grantPage s asn vpn hpa rd wr ex
    t.hostPages = (asn, vpn, hpa, rd, wr, ex) :: s.hostPages.filter (fun p => !(p.1 == asn && p.2.1 == vpn)) ∧
    t.mem = s.mem ∧ t.cores = s.cores ∧ ∀ cl, ∀ e ∈ (t.cluster cl).tlb,
      ¬(e.asn = asn ∧ e.size = 16 ∧ e.va.extractLsb' 16 36 = vpn ∧ e.pa.toNat / 2 ^ 48 = 8)) ∧
  -- a page not granted: accesses, fetches and commands that wait for it fault; nobody waits: the refusal stands
  (∀ (s : State) (asn : BitVec 4) (vpn : BitVec 36), let t := failPage s asn vpn
    let on (va : Addr) : Prop := va.extractLsb' 16 36 = vpn
    ((∀ e ∈ s.cores, coreAsks e.2 asn vpn = false) →
      t = { s with denied := (asn, vpn) :: s.denied.filter (· != (asn, vpn)) }) ∧
    (∀ c, coreAsks (s.core c) asn vpn = true → t.denied = s.denied) ∧ t.mem = s.mem ∧ t.ats = s.ats ∧ t.pri = s.pri ∧
    (∀ c b, ((t.core c).slotOf b).asn = ((s.core c).slotOf b).asn ∧ (((s.core c).slotOf b).asn = asn →
      (∀ e ∈ flightOf (t.core c) b, ∀ a, e.acc = some a → on a.va → a.st ≠ .pending) ∧
      ∀ va, slotWake (s.core c) b = some (.page va) → on va →
        ((t.core c).slotOf b).wfault = some (vpn, 0x0201))) ∧
    ∀ c n x va, x ∈ (chanOf s c n).q → n < 4 → x.asn = asn → x.ask = some va → on va →
      ∃ y ∈ (chanOf t c n).q, y.id = x.id ∧ y.askf = some 0x0201) ∧
  (∀ (l : Fin 2) (n : Fin 512) (ok : Bool) (s : State), (s.pri.filter fun x => x.link == l.val).length ≤ n.val →
    exec (.priResponse ⟨l, n, ok⟩) s = .next s) ∧
  (∀ (l : Fin 2) (n : Fin 512) (s : State) (pre post : List PageReq) (q : PageReq),
    s.pri = pre ++ q :: post → q.link = l.val → (pre.filter fun x => x.link == l.val).length = n.val →
    exec (.priResponse ⟨l, n, true⟩) s = .next { s with
      pri := pre ++ post
      ats := s.ats ++ [{ q with again := true }] } ∧
    exec (.priResponse ⟨l, n, false⟩) s = .next (flushNotices (failPage { s with pri := pre ++ post } q.asn q.vpn))) ∧
  -- power
  (∀ (w : Nat) (hot : Bool) (s : State),
    (s.power = .p0 → s.pstate < 2 → (max 800 (s.powercap.toNat % 4096) < w ∨ hot = true) →
      exec (.powerStepDown w hot) s = .next { s with pstate := s.pstate + 1 }) ∧
    ((w ≤ max 800 (s.powercap.toNat % 4096) ∧ hot = false) → exec (.powerStepDown w hot) s = .next s) ∧
    (2 ≤ s.pstate → exec (.powerStepDown w hot) s = .next s)) ∧
  (∀ s : State, s.power = .p0 → exec .powerStepUp s = .next { s with pstate := s.pstate - 1 }) ∧
  (∀ s : State, (s.power = .p0 → exec .d3hotEntry s = .next { s with power := .d3hot }) ∧
    (s.power = .d3hot → exec .d0Return s = .next { s with power := .p0 }) ∧
    (s.power ≠ .p0 → exec .d3hotEntry s = .next s) ∧ (s.power ≠ .d3hot → exec .d0Return s = .next s)) ∧
  (∀ (d : DieId) (s : State), s.fatal = none → ∃ t f, exec (.junctionLimit d) s = .next t ∧ t.fatal = some f ∧
    f.die.toNat = d.val ∧ f.cause = 0x8071 ∧ t.cores = s.cores ∧
    ∀ (c : Fin 1024) (r : List Move), t.agenda = .issue c :: r → step t = .fault .issueStopped) ∧
  -- ports
  (∀ (p : Fin 18) (s : State),
    (s.ports[p.val] ∈ [448, 336, 224] → ∃ t, exec (.laneStepDown p) s = .next t ∧ t.ports[p.val] = s.ports[p.val] - 112 ∧
      (∀ q : Fin 18, q ≠ p → t.ports[q.val] = s.ports[q.val]) ∧ t.mem = s.mem ∧ t.cores = s.cores) ∧
    (s.ports[p.val] = 112 → exec (.laneStepDown p) s = .next s ∧ ∃ t, exec (.portDown p) s = .next t ∧ t.ports[p.val] = 0 ∧
      (∀ q : Fin 18, q ≠ p → t.ports[q.val] = s.ports[q.val]) ∧ t.mem = s.mem ∧ t.cores = s.cores) ∧
    (s.ports[p.val] ≠ 112 → exec (.portDown p) s = .next s)) ∧
  -- MSI-X and BAR2
  (∀ (l : Fin 2) (w : MsixWrite) (s : State), ∃ t, exec (.msixVectorUnmask ⟨l, w⟩) s = .next t ∧
    let x := s.msixFns[l.val]
    let y := t.msixFns[l.val]
    (match w with
      | .vector v m => (v.val ∈ y.opened ↔ m = false) ∧ (∀ u, u ≠ v.val → (u ∈ y.opened ↔ u ∈ x.opened)) ∧ y.on = x.on ∧
          y.masked = x.masked
      | .control on m => y.on = on ∧ y.masked = m ∧ y.opened = x.opened) ∧
    t.msixSent = s.msixSent ++ (x.pending.filter y.sends).map (fun v => (l.val, v)) ∧
    y.pending = x.pending.filter (fun v => !y.sends v) ∧ ∀ k : Fin 2, k ≠ l → t.msixFns[k.val] = s.msixFns[k.val]) ∧
  (∀ (n : Fin 11) (s : State), exec (.bar2Resize n) s = .next { s with bar2 := 30 + n.val })

/-! ## Scheduling -/

/-- The scheduling path, where each happening is due: a ready ring gives its head record to the module, or asks the host for
a page of the record's parameter block and keeps it; a die takes a waiting share of staging, cleared; a cluster changes its
L1 mode; the role tasks of the die's next launch are queued; the walker creates the next record; the overflow list feeds the
ready queue; a waiting task ages; the task of highest effective priority goes to a core with room and the largest share; the
head of a local queue starts with the registers of a new step, at the saved place of a resumed one, or ends FAULTED at a bad
tensor entry; the balancer names pairs at least three apart, and a command moves unpinned tasks. Where a happening is not
due, nothing changes (R12 to R14, R19, R69, R90, R91, R123 to R132, R141, R156). Which launch a cluster's L1 mode follows
(log 22), that MPC, the write pointers and the sticky records stay at a step's start (log 87), that the starts of a cycle come
before its placement (log 107), how a spawned task waits for its spawner's stores (log 28), and that a happening that is not
due changes nothing (log 3), are the model's choices. -/
def Obligations.SchedulingPath : Prop :=
  (∀ (s : State) (q : Nat), s.fatal = none → s.boot = .ready → s.nextRing = q → q < 256 → (s.ring q).ready = true →
    let r := s.ring q
    let pa : Nat := (r.base.toNat / 128 * 128 + 128 * r.head.toNat) % 2 ^ 52
    let rec_ : Nat := rdN s.mem pa 128
    let asn : BitVec 4 := BitVec.ofNat 4 (rec_ / 2 ^ 116)
    let opb := walkerRead s asn (rec_ / 2 ^ 64 % 2 ^ 52 / 256 * 256) 8
    engineReach s pa = true → accOk s (schedMaster 0) .rd pa = true →
    (∀ va, recordBad (BitVec.ofNat 1024 rec_) = false → opb = .ask va → ∃ t, exec .launchFetch s = .next t ∧
      t.ats = (askPage s asn va .rd).ats ∧ t.rings = s.rings ∧ t.launches = s.launches ∧ t.mem = s.mem) ∧
    (recordBad (BitVec.ofNat 1024 rec_) = true ∨ (∀ va, opb ≠ .ask va) → ∃ t, exec .launchFetch s = .next t ∧ t.nextRing = q + 1 ∧
      (t.ring q).head.toNat = (r.head.toNat + 1) % r.count % 2 ^ 16 ∧ t.launches.length = s.launches.length + 1 ∧
      ∃ k, tget s.launches k .none = .none ∧ (t.launch k).lid.toNat = rec_ / 2 ^ 128 % 2 ^ 16 ∧
        (t.launch k).asn.toNat = rec_ / 2 ^ 116 % 2 ^ 4 ∧ (t.launch k).dies.toNat = rec_ / 2 ^ 120 % 2 ^ 8 ∧
        (t.launch k).ring = some q)) ∧
  (∀ (d : DieId) (s : State),
    (∀ k, (pendingOn s d.val).head? = some k →
      let n := (s.launch k).stage.toNat
      let old := (s.die d.val).staging
      let cw := (s.launch k).cw.toNat
      n ≠ 15 → n ≠ old → dieBusy s d.val = false → ∃ t, exec (.stagingShareApply d) s = .next t ∧
        (t.die d.val).staging = n ∧ ∀ sl off, sl < 16 → min old n * 2 ^ 20 ≤ off → off < max old n * 2 ^ 20 → off < 2 ^ 23 →
          let a := 2 ^ 48 + d.val * 2 ^ 27 + sl * 2 ^ 23 + off
          (a < cw ∨ cw + 8 ≤ a) → rd t.mem a = 0) ∧
    (pendingOn s d.val = [] ∨ dieBusy s d.val = true → exec (.stagingShareApply d) s = .next s)) ∧
  (∀ (cl : ClusterId) (s : State),
    (clusterBusy s cl.val = true → exec (.fuseChange cl) s = .next s) ∧
    ∀ k l, (s.launches.filter fun e => e.2.st != .done && e.2.dies.getLsbD (cl.val / 16)).head? = some (k, l) →
      ((s.cluster cl.val).fused = l.fuse → exec (.fuseChange cl) s = .next s) ∧
      (clusterBusy s cl.val = false → (s.cluster cl.val).fused ≠ l.fuse →
        ∃ t, exec (.fuseChange cl) s = .next t ∧ (t.cluster cl.val).fused = l.fuse)) ∧
  (∀ (cl : ClusterId) (s : State) (k : Nat), (pendingOn s (cl.val / 16)).head? = some k →
    let l := s.launch k
    let d := cl.val / 16
    let placed := ∃ e ∈ s.tasks, e.2.launch = k ∧ e.2.kind = .role ∧ e.2.die = d ∧ e.2.wid = packWid l [cl.val % 16]
    let share := l.stage = 15 ∨ (s.die d).staging = l.stage.toNat
    (l.role = false ∨ (s.cluster cl.val).role.isSome = true ∨ placed ∨ ¬share ∨ poolSize s d < poolUsed s d + 2 →
      exec (.roleModeStart cl) s = .next s) ∧
    (l.role = true → (s.cluster cl.val).role = none → ¬placed → share → poolUsed s d + 2 ≤ poolSize s d →
      (16 ≤ (s.core (8 * cl.val)).local_.length ∨ 16 ≤ (s.core (8 * cl.val + 7)).local_.length →
        exec (.roleModeStart cl) s = .next s) ∧
      ((s.core (8 * cl.val)).local_.length < 16 → (s.core (8 * cl.val + 7)).local_.length < 16 →
        ∃ t a b, exec (.roleModeStart cl) s = .next t ∧ (t.cluster cl.val).role = some k ∧
          (t.core (8 * cl.val)).local_ = (s.core (8 * cl.val)).local_ ++ [a] ∧
          (t.core (8 * cl.val + 7)).local_ = (s.core (8 * cl.val + 7)).local_ ++ [b] ∧
          (t.task a).entry = l.loader ∧ (t.task b).entry = l.storer ∧ (t.task a).wid = packWid l [cl.val % 16] ∧
          (t.task b).wid = packWid l [cl.val % 16] ∧ (t.task a).pinned = true ∧ (t.task b).pinned = true))) ∧
  (∀ (d : DieId) (s : State),
    (pendingOn s d.val = [] → exec (.walkerExpand d) s = .next s) ∧
    ∀ k, (pendingOn s d.val).head? = some k →
      let l := s.launch k
      let x := tget l.nextIx d.val (dieRange l d.val).1
      (launchReady s k d.val = false ∨ shareDone l d.val = true ∨ 4096 ≤ waitingOf s k d.val ∨ poolSize s d.val ≤ poolUsed s d.val →
        exec (.walkerExpand d) s = .next s) ∧
      (launchReady s k d.val = true → shareDone l d.val = false → waitingOf s k d.val < 4096 → poolUsed s d.val < poolSize s d.val →
        ∃ t n, exec (.walkerExpand d) s = .next t ∧ tget s.tasks n .none = .none ∧ (t.task n).launch = k ∧
          (t.task n).die = d.val ∧ (t.task n).wid = packWid l (indexFields l x) ∧ (t.task n).entry = opbEntry l ∧
          tget (t.launch k).nextIx d.val 0 = x + 1)) ∧
  (∀ (d : DieId) (s : State) (x : Nat) (r : List Nat), (s.die d.val).overflow = x :: r →
    ((s.die d.val).ready.length < 8192 → exec (.overflowMove d) s = .next (s.modDie d.val fun y => { y with
      ready := (s.die d.val).ready ++ [x]
      overflow := r })) ∧
    (8192 ≤ (s.die d.val).ready.length → exec (.overflowMove d) s = .next s)) ∧
  (∀ (d : DieId) (k : Nat) (s : State) (x : Nat), ((s.die d.val).ready ++ (s.die d.val).overflow)[k]? = some x →
    ∃ t, exec (.priorityAging d k) s = .next t ∧ (t.task x).waited = (s.task x).waited + 1024 ∧
      effPrio (t.task x) = min 3 (effPrio (s.task x) + 1) ∧ ∀ y, y ≠ x → t.task y = s.task y) ∧
  (∀ (d : DieId) (s : State), startDue s d.val = true → exec (.dispatch d) s = .next s) ∧
  (∀ (d : DieId) (s : State) (x c sh : Nat), startDue s d.val = false → pickReady s d.val = some x →
    pickCore s d.val x = some (c, sh) → ∃ t, exec (.dispatch d) s = .next t ∧ (t.core c).local_ = (s.core c).local_ ++ [x] ∧
      (t.die d.val).ready = (s.die d.val).ready.erase x ∧ (t.task x).st = .queued ∧
      (∃ pre post, (s.die d.val).ready = pre ++ x :: post ∧ s.passes (s.task x).gate = true ∧
        (∀ y ∈ pre, s.passes (s.task y).gate = true → effPrio (s.task y) < effPrio (s.task x)) ∧
        ∀ y ∈ post, s.passes (s.task y).gate = true → effPrio (s.task y) ≤ effPrio (s.task x)) ∧
      dieOf c = d.val ∧ (s.core c).local_.length < 16 ∧ sh = shareOf s (s.launch (s.task x).launch) (s.task x).wid c ∧
      ∀ b, dieOf b = d.val → (s.core b).local_.length < 16 → (s.cluster (clusterOf b)).role ≠ some (s.task x).launch →
        shareOf s (s.launch (s.task x).launch) (s.task x).wid b ≤ sh) ∧
  (∀ (d : DieId) (s : State), (s.die d.val).ready = [] → exec (.dispatch d) s = .next s) ∧
  (∀ (c : CoreId) (s : State), (s.core c.val).local_ = [] → exec (.taskStart c) s = .next s) ∧
  (∀ (c : CoreId) (s : State) (x : Nat) (r : List Nat) (b : Bool), (s.core c.val).local_ = x :: r →
    freeSlot (s.core c.val) = some b → (s.task x).kind ≠ .comp → (s.task x).comp = none → (s.task x).saved = none →
    tidFail s c.val (s.launch (s.task x).launch) = none →
    ∃ t, exec (.taskStart c) s = .next t ∧ (t.core c.val).local_ = r ∧ (t.task x).st = .running ∧ t.mem = s.mem ∧
      let sl := (t.core c.val).slotOf b
      sl.task = some x ∧ sl.pc = (s.task x).entry ∧ sl.wid = (s.task x).wid ∧ sl.asn = (s.launch (s.task x).launch).asn ∧
      sl.sup = false ∧ sl.s = .replicate 32 0 ∧ sl.v = .replicate 32 0 ∧ sl.loops = [] ∧
      sl.tids = tidTable s (s.launch (s.task x).launch) (s.task x).wid ∧ sl.sticky = ((s.core c.val).slotOf b).sticky ∧
      sl.mpc = ((s.core c.val).slotOf b).mpc ∧ sl.wp = ((s.core c.val).slotOf b).wp) ∧
  (∀ (c : CoreId) (s : State) (x : Nat) (r : List Nat) (b : Bool), (s.core c.val).local_ = x :: r →
    freeSlot (s.core c.val) = some b → (s.task x).kind ≠ .comp → (s.task x).comp = none →
    (∀ v, (s.task x).saved = some v → tidFail s c.val (s.launch (s.task x).launch) = none →
      ∃ t, exec (.taskStart c) s = .next t ∧ (t.core c.val).local_ = r ∧ (t.task x).st = .running ∧
        (t.task x).saved = none ∧ ((t.core c.val).slotOf b).pc = v.pc ∧ ((t.core c.val).slotOf b).resumed = true ∧
        ((t.core c.val).slotOf b).wid = (s.task x).wid) ∧
    (∀ pa, tidFail s c.val (s.launch (s.task x).launch) = some pa → ∃ t, exec (.taskStart c) s = .next t ∧
      (t.core c.val).local_ = r ∧ (t.task x).st = .faulted ∧ freeSlot (t.core c.val) = some b)) ∧
  (∀ s : State, exec .balancerSample s = .next { s with migs := s.migs ++ balancerPairs s } ∧
    ∀ e ∈ balancerPairs s,
      let a := (s.core e.1).local_.length
      let b := (s.core e.2.1).local_.length
      b + 3 ≤ a ∧ e.2.2 = min 4 ((a - b) / 2) ∧ e.1 < 1024 ∧ e.2.1 < 1024) ∧
  (∀ s : State, s.migs = [] → exec .migration s = .next s) ∧
  (∀ (s : State) (a b n : Nat) (r : List (Nat × Nat × Nat)), s.migs = (a, b, n) :: r → a ≠ b →
    ∃ t moved, exec .migration s = .next t ∧ t.migs = r ∧ (t.core b).local_ = (s.core b).local_ ++ moved ∧
      (t.core a).local_ = (s.core a).local_.filter (fun x => !moved.contains x) ∧
      moved.Sublist (s.core a).local_ ∧ moved.length ≤ n ∧
      (∀ x ∈ moved, (s.task x).pinned = false ∧ (s.task x).saved = none ∧ (t.task x).migr = true) ∧
      ((s.core b).local_.length ≤ 16 → (t.core b).local_.length ≤ 16))

/-! ## Cores, the array and channels -/

/-- The happenings of a core. Those that are part of its cycle ask for that cycle where they are due: the next step is that
cycle, and in an empty cycle of R196 the array's operation starts, ends a chunk or ends as its cycles have it; results land; a
late value freezes the core and, once there, lets it go on; an interrupt is taken for the oldest signal that has come, a
mismatch that waits going first; the watchdog and a fault at its due cycle take their traps; the first consumption of poison
restores the checkpoint's shadow and the journaled rows, drops what the segment withholds and its commands, marks the partners,
records the error and takes trap 0x0030 at the bundle after the checkpoint, a further one, or one without a shadow, ends the
step POISONED; a full journal closes its segment (R16, R34, R68, R94, R208, R242, R243, R260, R280, R305, R338, R341 to R343,
R350, R354 to R356). That a happening of a core's cycle asks for the cycle, that one that is not due changes nothing, what the
watchdog leaves of an access, and how a core's late values come back are the model's choice (logs 38, 3, 84, 58). -/
def Obligations.CoreEvents : Prop :=
  -- a core whose next cycle is an empty one, with nothing on its way
  let empty (s : State) (c : Nat) : Prop :=
    let k := s.core c
    s.agenda = [] ∧ s.fatal = none ∧ s.boot = .ready ∧ s.power = .p0 ∧ k.slot.task.isSome = true ∧ k.trapping = none ∧
    k.slot.ending = none ∧ k.returning = false ∧ k.slot.bubble = true ∧ k.inflight = [] ∧ k.withheld = [] ∧ k.pubs = [] ∧
    k.slot0.parked = [] ∧ k.slot1.parked = []
  let asks (i : CoreId → Instr) (due : State → Nat → Prop) : Prop := ∀ (c : CoreId) (s : State),
    (due s c.val → ∃ t, exec (i c) s = .next t ∧ t = { s with agenda := s.agenda ++ [.issue c] } ∧
      (s.agenda = [] → step t = issueCore s c.val) ∧
      (empty s c.val →
        let w : State := ({ s with cur := c.val, sig := .none, eff := ⟨none, false, false, false, false, []⟩ } : State).modCore
          c.val fun k => { k with evset := 0 }
        let a := arrayCycle w w c.val (some (s.core c.val).ctx)
        a.2 = none → ∃ u, step t = .next u ∧ u.mem = a.1.mem ∧ (u.core c.val).mq = (a.1.core c.val).mq ∧
          (u.core c.val).mdue = (a.1.core c.val).mdue ∧ (u.core c.val).slot.bubble = false ∧
          (u.core c.val).slot.a = (a.1.core c.val).slot.a ∧ (u.core c.val).slot.reds = (a.1.core c.val).slot.reds)) ∧
    (¬due s c.val → exec (i c) s = .next s)
  let holds (s : State) (c : Nat) (factor late : Bool) : Prop := ∃ h, (s.core c).hold = some h ∧
    (h.kind == .factor) = factor ∧ (late = true → h.limit ≤ h.waited)
  let head (s : State) (c : Nat) (p : MOp → Prop) : Prop := ∃ o r, (s.core c).mq = o :: r ∧ p o
  -- a core that stands at a bundle at task level, with nothing before its interrupts
  let stands (k : Core) : Prop := k.slot.task.isSome = true ∧ k.trapping = none ∧ k.slot.ending = none ∧ k.slot.sup = false ∧
    k.slot.bubble = false ∧ dueFault k = none ∧ dueLate k = false ∧ ∀ h n, k.hold = some h → h.kind ≠ .sync n true
  let reads (s : State) (c : Nat) (pa : Addr) : Prop := s.poisoned pa.toNat = true ∧ (s.core c).slot.task.isSome = true ∧
    (s.core c).slot.sup = false ∧ ∃ e ∈ (s.core c).inflight, ∃ a, e.acc = some a ∧ a.st = .done ∧ a.late = true ∧
      lineOf a.pa.toNat = lineOf pa.toNat
  asks .waitComplete (fun s c => holds s c false false) ∧ asks .waitTimeout (fun s c => holds s c false true) ∧
  asks .factorHoldRelease (fun s c => holds s c true false) ∧ asks .factorHoldExpiry (fun s c => holds s c true true) ∧
  asks .matrixOpStart (fun s c => head s c fun o => o.run = none ∧ o.wait = 0) ∧
  asks .matrixChunkEnd (fun s c => head s c fun o => o.kind.chunked = true ∧ ∃ n, o.run = some n ∧ n + 1 = chunkEnd o o.next) ∧
  asks .matrixOpEnd (fun s c => head s c fun o => ∃ n, o.run = some n ∧ n + 1 = o.occ) ∧
  -- interrupts
  (∀ (c : CoreId) (s : State), let k := s.core c.val
    (∀ pre post code sender g, stands k → (∀ a, (0, a) ∉ k.assay) → k.signals = pre ++ (code, sender, g) :: post →
      s.passes g = true → (∀ e ∈ pre, s.passes e.2.2 = false) → exec (.signalInterrupt c) s =
        .next (takeTrap (s.modCore c.val fun k => { k with signals := pre ++ post }) c.val 0x0020
          (code.setWidth 64 ||| sender.setWidth 64 <<< 16))) ∧
    ((∀ e ∈ k.signals, s.passes e.2.2 = false) → exec (.signalInterrupt c) s = .next s) ∧
    (∀ pre post a, stands k → k.assay = pre ++ (0, a) :: post → (∀ e ∈ pre, e.1 ≠ 0) → exec (.assayMismatch c) s =
      .next (takeTrap (s.modCore c.val fun k => { k with assay := pre ++ post }) c.val 0x0405 (a.setWidth 64))) ∧
    ((∀ a, (0, a) ∉ k.assay) → exec (.assayMismatch c) s = .next s) ∧
    (¬stands k → exec (.signalInterrupt c) s = .next s ∧ exec (.assayMismatch c) s = .next s)) ∧
  -- results, freezes and slots
  (∀ (c : CoreId) (s : State), exec (.resultDeliver c) s = .next ((repliesBack s c.val).modCore c.val landReady)) ∧
  (∀ (c : CoreId) (s : State), dueLate (s.core c.val) = true → (s.core c.val).freeze = none →
    (s.core c.val).slot.task.isSome = true →
    exec (.freezeStart c) s = .next (s.modCore c.val fun k =>
      { k with freeze := some (if k.inflight.any fun e => e.awaited && !e.remote then ⟨1, 0, .access⟩ else ⟨5, 0, .remote⟩) })) ∧
  (∀ (c : CoreId) (s : State), dueLate (s.core c.val) = false → exec (.freezeStart c) s = .next s) ∧
  (∀ (c : CoreId) (s : State), ∃ t, exec (.freezeRelease c) s = .next t ∧ t.mem = s.mem ∧
    (∀ b, b ≠ c.val → t.core b = s.core b) ∧
    (∀ e ∈ (t.core c.val).inflight, ∀ a, e.acc = some a → a.st = .done → a.late = false) ∧
    (∀ e ∈ (t.core c.val).inflight, e.remote = true → ∃ p ∈ s.planOut, p.2 = (c.val, (s.core c.val).ctx)) ∧
    (∀ f, (s.core c.val).freeze = some f → f.wake = .access ∨ f.wake = .remote → dueLate (t.core c.val) = false →
      (t.core c.val).freeze = none) ∧
    (∀ f desc, (s.core c.val).freeze = some f → f.wake = .btinv desc →
      ∀ x ∈ t.clusters, ∀ e ∈ x.2.btb, e.desc ≠ desc)) ∧
  (∀ (c : CoreId) (s : State), (s.core c.val).slot.task = none → slotReady s c.val (!(s.core c.val).ctx) = true →
    ∃ t, exec (.slotResume c) s = .next t ∧ (t.core c.val).ctx = !(s.core c.val).ctx ∧
      (t.core c.val).slot.task = ((s.core c.val).slotOf !(s.core c.val).ctx).task ∧ (t.core c.val).slot.out = none ∧
      t.mem = s.mem) ∧
  (∀ (c : CoreId) (s : State), (s.core c.val).slot.task.isSome = true → exec (.slotResume c) s = .next s) ∧
  (∀ (c : CoreId) (s : State) (f : Freeze), (s.core c.val).freeze = some f →
    (f.cycles < 2 ^ 20 → exec (.stallWatchdog c) s = .next s) ∧
    (2 ^ 20 ≤ f.cycles → let u := giveUp s c.val
      exec (.stallWatchdog c) s = .next (takeTrap u c.val 0x0012 (BitVec.ofNat 64 f.code)) ∧
      (u.core c.val).freeze = none ∧ (u.core c.val).slot.pc = (s.core c.val).slot.pc ∧ u.mem = s.mem ∧
      ∀ e ∈ (u.core c.val).inflight, ∀ a, e.acc = some a → a.st ≠ .pending ∧ a.late = false)) ∧
  (∀ (c : CoreId) (s : State),
    ((s.core c.val).monitor.isSome = true →
      exec (.monitorWake c) s = .next (s.modCore c.val fun k => { k with monitorHit := true })) ∧
    ((s.core c.val).monitor = none → exec (.monitorWake c) s = .next s)) ∧
  -- traps
  (∀ (c : CoreId) (s : State), (s.core c.val).trapping = none → exec (.trapEntry c) s = .next s) ∧
  (∀ (c : CoreId) (s : State) (x : Trapping), (s.core c.val).trapping = some x → x.cycles < 2 ^ 20 →
    (s.core c.val).inflight = [] → (s.core c.val).mq = [] → (s.core c.val).mdue = [] → (s.core c.val).slot.bubble = false →
    (s.core c.val).slot0.lcause = [] → (s.core c.val).slot1.lcause = [] → frameAsk s c.val .wr = none →
    ∃ u, exec (.trapEntry c) s = .next (writeTrap u c.val { x with cycles := x.cycles + 1 } []) ∧
      (u.core c.val).slot = (s.core c.val).slot ∧ u.mem = s.mem) ∧
  (∀ (c : CoreId) (s : State) (f : BitVec 16) (a : Addr), (s.core c.val).slot.task.isSome = true →
    (s.core c.val).trapping = none → dueFault (s.core c.val) = some (f, a) →
    exec (.dueCycleFault c) s = .next (takeTrap s c.val f (a.setWidth 64))) ∧
  (∀ (c : CoreId) (s : State), dueFault (s.core c.val) = none → exec (.dueCycleFault c) s = .next s) ∧
  -- poison
  (∀ (c : CoreId) (pa : Addr) (s : State),
    (s.poisoned pa.toNat = false → exec (.poisonConsumption c pa) s = .next s) ∧
    (reads s c.val pa → (s.core c.val).slot.shadow = none ∨ (s.core c.val).slot.rolled = true →
      ∃ t, exec (.poisonConsumption c pa) s = .next t ∧ (t.core c.val).slot.ending = some (.final .poisoned 0))) ∧
  (∀ (c : CoreId) (pa : Addr) (s : State) (sh : Shadow), reads s c.val pa → (s.core c.val).slot.shadow = some sh →
    (s.core c.val).slot.rolled = false →
    let k := s.core c.val
    let line : Addr := BitVec.ofNat 52 (lineOf pa.toNat)
    let x : Trapping := ⟨0x0030, sh.pc, sh.prol, BitVec.ofNat 64 (lineOf pa.toNat), 0, false⟩
    ∃ w t, exec (.poisonConsumption c pa) s = .next t ∧
      -- the checkpoint's state
      (let y := w.core c.val
        let z := y.slot
        y.ctx = k.ctx ∧ z.pc = sh.pc ∧ z.prol = sh.prol ∧ z.s = sh.s ∧ z.v = sh.v ∧ z.p = sh.p ∧ z.m = sh.m ∧ z.loops = sh.loops ∧
        z.mpc = sh.mpc ∧ z.sticky = sh.sticky ∧ z.a = sh.a ∧ z.factors = sh.factors ∧ z.reds = sh.reds ∧ z.dq = sh.dq ∧
        z.replay = true ∧ z.rolled = true ∧ z.task = k.slot.task ∧ z.sup = false ∧ y.deferred = sh.deferred ∧
        y.inflight.length = sh.inflight.length ∧ y.withheld = k.withheld.filter (fun h => !(h.slot == k.ctx && !h.closed)) ∧
        (∀ n, n < 4 → ∀ q ∈ (chanOf w c.val n).q, ¬(q.slot = k.ctx ∧ q.seg = k.slot.seg)) ∧
        (∀ o ∈ sh.mq, o.follow = none → o ∈ y.mq) ∧ ∀ o ∈ y.mq, o.slot = k.ctx → o.follow = none → o ∈ sh.mq) ∧
      (∀ r v bad, r < 8192 → (k.ctx, r, v, bad) ∈ k.journal →
        (∀ e ∈ k.journal, e.1 = k.ctx → e.2.1 = r → e = (k.ctx, r, v, bad)) → w.rdRow c.val r = v) ∧
      (∀ i n, i ≠ c.val → clusterOf i = clusterOf c.val → (s.core i).slot.task = some n →
        k.slot.task.map (fun m => (s.task m).launch) = some (s.task n).launch → c.val ∈ (w.core i).marks) ∧
      (∀ i : Fin 8, let recs (u : State) : Vector ErrRec 8 := (vget (u.die (dieOf c.val)).banks 1 .reset).recs
        (vget (recs s) i.val .empty).v = false → (∀ j : Fin 8, j < i → (vget (recs s) j.val .empty).v = true) →
        let r := vget (recs w) i.val .empty
        r.v = true ∧ r.rank = 2 ∧ r.ecode = 0x10 ∧ r.addr = line) ∧
      -- the trap, or the wait for its frame and its accesses
      (pendingAcc (w.core c.val) = true ∨ (frameAsk w c.val .wr).isSome = true →
        t = w.modCore c.val fun k => { k with trapping := some x }) ∧
      (pendingAcc (w.core c.val) = false → frameAsk w c.val .wr = none →
        (∀ u, stopAndWrite w c.val x = (u, none) → t = u) ∧
        (sh.inflight = [] → sh.mq = [] → sh.mdue = [] → sh.bubble = false → k.mq = [] → k.mdue = [] →
          k.slot0.lcause = [] → k.slot1.lcause = [] → s.fatal = none → t.fatal = none →
          let y := t.core c.val
          y.slot.sup = true ∧ y.tcause = 0x0030 ∧ y.tval = line.setWidth 64 ∧
          y.tepc = sh.pc.setWidth 64 ||| (sh.prol.setWidth 64 <<< 52) ∧ y.slot.pc = k.tvec.setWidth 52 &&& 0xFFFFFFFFFFFFC ∧
          y.slot.s = sh.s ∧ y.slot.v = sh.v ∧ y.slot.rolled = true))) ∧
  -- a full journal
  (∀ (c : CoreId) (s : State),
    ((s.core c.val).jfull = false → exec (.journalFullCheckpoint c) s = .next s) ∧
    ((s.core c.val).jfull = true → (s.core c.val).slot.task.isSome = true → (s.core c.val).inflight = [] →
      (s.core c.val).withheld = [] → ∃ t, exec (.journalFullCheckpoint c) s = .next t ∧
        (t.core c.val).jfull = false ∧ (∀ e ∈ (t.core c.val).journal, e.1 ≠ (s.core c.val).ctx) ∧ t.mem = s.mem ∧
        ∃ sh, (t.core c.val).slot.shadow = some sh ∧ sh.pc = (s.core c.val).slot.pc ∧ sh.s = (s.core c.val).slot.s ∧
          sh.v = (s.core c.val).slot.v))

/-- The channels: the next command starts; a row counts when it has been copied; a command whose rows are all there posts its
flag and leaves, or waits for its follow-on; a fault takes the command off with a record and the fault flag; a follow-on
enters the array's queue once its entry there is free, an MMA with the factors that the records hold then, or is cancelled with
a record and the fault flag (R249, R250, R288, R290). That where none is due nothing changes, and the wait for the stores before
a command, are the model's choice (logs 3, 28). -/
def Obligations.ChannelEvents : Prop :=
  (∀ (c : CoreId) (n : Fin 4) (s : State), (chanOf s c.val n.val).q = [] →
    exec (.copyStart c n) s = .next s ∧ exec (.copyRow c n) s = .next s ∧ exec (.copyComplete c n) s = .next s ∧
    exec (.copyFault c n) s = .next s ∧ exec (.followOnArrival c n) s = .next s) ∧
  ∀ (c : CoreId) (n : Fin 4) (s : State) (x : Cmd) (r : List Cmd), (chanOf s c.val n.val).q = x :: r →
    (x.st = .queued → x.bad = none → storesAhead (s.core c.val) x = false → (x.kind = .cpy ∨ ∃ v, x.kind = .cpym v) → ∃ t, exec (.copyStart c n) s = .next t ∧
      (chanOf t c.val n.val).q = { x with st := .running } :: r ∧ t.mem = s.mem) ∧
    (x.st ≠ .queued ∨ storesAhead (s.core c.val) x = true → exec (.copyStart c n) s = .next s) ∧
    (storesAhead (s.core c.val) x = true → exec (.copyRow c n) s = .next s) ∧
    (x.st = .running → x.bad = none → x.row < x.rows → x.kind = .cpy → x.strm = false →
      storesAhead (s.core c.val) x = false → ∀ o, copyRow s ⟨c.val, n.val, x⟩ (endCore x.dst c.val) x.row = .ok o → ∃ t, exec (.copyRow c n) s = .next t ∧
        t.mem = s.mem ∧ (∃ y, (chanOf t c.val n.val).q = y :: r ∧ y.row = x.row + 1 ∧ y.st = .running ∧ y.bad = none) ∧
        (∀ i, x.bar = some i → (t.die (dieOf c.val)).arrivals = (s.die (dieOf c.val)).arrivals ++
          [.barr (dieOf c.val) i (if x.row + 1 = x.rows then x.left else min x.left o.bytes) false]) ∧
        ∃ z, (t.core c.val).shrows = (s.core c.val).shrows ++ [z] ∧ z.parts = o.parts ∧ z.cmd = x.id ∧ z.whole = false) ∧
    (x.st ≠ .running → exec (.copyRow c n) s = .next s ∧ exec (.copyComplete c n) s = .next s) ∧
    (x.st = .running → x.bad = none → x.rows ≤ x.row → x.follow = none → ∃ t, exec (.copyComplete c n) s = .next t ∧
      (chanOf t c.val n.val).q = r ∧ t.mem = s.mem ∧ (∀ z ∈ (t.core c.val).shrows, z.cmd = x.id → z.whole = true) ∧
      ∀ k f, x.post = some (k, f) → (t.core k).rposts = (s.core k).rposts ++ [⟨f, 1, ⟨c.val, x.slot, 0⟩⟩]) ∧
    (x.st = .running → x.bad = none → x.rows ≤ x.row → x.follow.isSome = true → ∃ t, exec (.copyComplete c n) s = .next t ∧
      (∃ y, (chanOf t c.val n.val).q = y :: r ∧ y.st = .follow ∧ y.follow = x.follow) ∧
      ∀ k f, x.post = some (k, f) → (t.core k).rposts = (s.core k).rposts ++ [⟨f, 1, ⟨c.val, x.slot, 0⟩⟩]) ∧
    (x.bad = none → exec (.copyFault c n) s = .next s) ∧
    (∀ e a, x.bad = some (e, a) → ∃ t, exec (.copyFault c n) s = .next t ∧ (chanOf t c.val n.val).q = r ∧
      (chanOf t c.val n.val).fault = true ∧ t.mem = s.mem ∧ (∀ z ∈ (t.core c.val).shrows, z.cmd ≠ x.id) ∧
      ∀ i, x.bar = some i → (t.die (dieOf c.val)).arrivals =
        (s.die (dieOf c.val)).arrivals ++ [.barr (dieOf c.val) i x.left true]) ∧
    (x.st ≠ .follow → exec (.followOnArrival c n) s = .next s) ∧
    (∀ o, x.st = .follow → x.follow = some o →
      (∃ p ∈ (s.core c.val).mq, p.follow.isSome = true) ∨ (((s.core c.val).slotOf o.slot).sup = true ∧ x.sup = false) →
      exec (.followOnArrival c n) s = .next s) ∧
    ∀ o, x.st = .follow → x.follow = some o → (∀ p ∈ (s.core c.val).mq, p.follow = none) →
      ((s.core c.val).slotOf o.slot).sup = false ∨ x.sup = true →
      let k := s.core c.val
      let sl := k.slotOf o.slot
      let enters (t : State) (p : MOp) : Prop := exec (.followOnArrival c n) s = .next t ∧ t.mem = s.mem ∧
        (t.core c.val).mq = k.mq ++ [{ p with seq := k.useq }] ∧ (t.core c.val).useq = k.useq + 1 ∧
        ∃ y, (chanOf t c.val n.val).q = y :: r ∧ y.follow = none ∧ y.st = .follow
      let cancelled : Prop := ∃ t, exec (.followOnArrival c n) s = .next t ∧ t.mem = s.mem ∧ (t.core c.val).mq = k.mq ∧
        (chanOf t c.val n.val).q = r ∧ (chanOf t c.val n.val).fault = true
      (o.kind = .aclr ∨ o.kind = .accld ∨ o.kind = .accst → ∃ t, enters t { o with wait := 0 }) ∧
      (o.kind = .mma →
        let p : MOp := { o with
          wait := 0
          fA := tileRec sl o.tA
          fB := tileRec sl o.tB }
        (innerConst p = false ∨ badInner p = true ∨ badShift p = true → cancelled) ∧
        ∀ rec_ ks, innerConst p = true → badInner p = false → badShift p = false → outerFactors s c.val p = (rec_, ks, none) →
          (adoptRec sl (accNo o.instr) rec_ = none → cancelled) ∧
          ∀ sl', adoptRec sl (accNo o.instr) rec_ = some sl' → opScales p 1 = ([], []) →
            ∃ t, enters t { p with
              scA := []
              scB := [] } ∧ ((t.core c.val).slotOf o.slot).factors = sl'.factors)

/-! ## Units -/

/-- Triggers, flags, barriers and objects: the oldest eligible operation of a counter takes its effect, a CREADY or an FPOSTR
after what its party withholds has been published; posts whose party's earlier accesses have performed take part in the core's
next cycle; of the arrivals for one barrier the first that nothing holds back acts, landed bytes leave PEND, an operation of a
core has its effect then; an object's version steps when its release arrives. Where nothing is on its way, nothing changes
(R148, R162, R163, R165, R306). What a triggered operation's release waits for, that a CREADY waits for room, the address space
and level of its tile, and that what is not due changes nothing, are the model's choice (logs 37, 28, 17, 3). -/
def Obligations.TriggersAndArrivals : Prop :=
  (∀ (d : DieId) (k : Fin 256) (s : State), (∀ o ∈ (s.die d.val).tdue, o.ctr ≠ k.val) →
    exec (.triggerFire d k) s = .next s) ∧
  (∀ (d : DieId) (k : Fin 256) (s : State) (o : TrigOp) (pre post : List TrigOp), (s.die d.val).tdue = pre ++ o :: post →
    (∀ p ∈ pre, p.ctr ≠ k.val) → o.ctr = k.val →
    let sl := (s.core o.core).slotOf o.slot
    let u := s.modDie d.val fun x => { x with tdue := pre ++ post }
    -- what the party withholds, published; its accesses before, none once its step has left the slot
    let r := if sl.task = o.task ∧ sl.sup = false then publishHeld u o.core o.slot else u
    let gate : Gate := ⟨o.core, o.slot, if sl.task = o.task then (s.core o.core).useq else 0⟩
    (∀ x, o.img = .fpostr x → exec (.triggerFire d k) s = .next (r.modCore (o.opB.toNat % 1024) fun y =>
      { y with rposts := y.rposts ++ [⟨x.f.toNat, o.opA.toNat % 65536, gate⟩] })) ∧
    (∀ x, o.img = .cready x → (s.die (dieOf o.core)).firings.length < 64 →
      let e := o.opA.toNat % 1024
      (tileAt r (dieOf o.core) e).v = true → (tileAt r (dieOf o.core) e).rdy = false →
      (r.die (dieOf o.core)).firings.length < 64 →
      ∃ t, exec (.triggerFire d k) s = .next t ∧ t.mem = r.mem ∧ (t.die d.val).tdue = (r.die d.val).tdue ∧
        (tileAt t (dieOf o.core) e).rdy = true ∧ (tileAt t (dieOf o.core) e).asn = o.asn ∧
        (tileAt t (dieOf o.core) e).sup = o.sup ∧ (tileAt t (dieOf o.core) e).gate = gate ∧
        (t.die (dieOf o.core)).firings = (r.die (dieOf o.core)).firings ++ [e]) ∧
    (∀ x, o.img = .cready x → 64 ≤ (s.die (dieOf o.core)).firings.length → exec (.triggerFire d k) s = .next s) ∧
    (∀ x y, o.img = .cpy x → o.cmd = some y → (chanOf s o.core x.c.toNat).q = [] → noRoom s o.core x.c.toNat y = false →
      ∃ t z, exec (.triggerFire d k) s = .next t ∧ t.mem = s.mem ∧ (t.die d.val).tdue = pre ++ post ∧
        (chanOf t o.core x.c.toNat).q = [z] ∧ z.src = y.src ∧ z.dst = y.dst ∧ z.rows = y.rows ∧ z.st = y.st ∧
        z.after = (s.core o.core).useq)) ∧
  (∀ (c : CoreId) (f : Fin 16) (s : State),
    let here (p : Post) : Bool := p.flag == f.val && settledBefore (s.core p.gate.core) p.gate.slot p.gate.seq
    exec (.flagPostArrival c f) s = .next (s.modCore c.val fun k => { k with
      posts := (s.core c.val).posts ++ ((s.core c.val).rposts.filter here).map fun p => (p.flag, p.count)
      rposts := (s.core c.val).rposts.filter fun p => !here p })) ∧
  (∀ (d : DieId) (s : State),
    ((∀ a ∈ (s.die d.val).arrivals, ∀ e i, a.bar = some (e, i) →
        ∃ y ∈ (s.die d.val).arrivals, (s.die d.val).arrivals.find? (fun x => x.bar == some (e, i)) = some y ∧ y.passes s = false) →
      exec (.barrierOpArrival d) s = .next s) ∧
    ((∀ e i a v c b q, Arrival.rel e i a v c b q ∈ (s.die d.val).arrivals → settledBefore (s.core c) b q = false) →
      exec (.releaseArrival d) s = .next s)) ∧
  (∀ (d : DieId) (s : State) (x : Arrival) (e i : Nat) (pre post : List Arrival),
    (s.die d.val).arrivals = pre ++ x :: post → x.bar = some (e, i) → x.passes s = true →
    (∀ y ∈ pre, y.bar ≠ some (e, i) ∧ (y.bar.isSome = true → y.passes s = false)) →
    ∃ t, exec (.barrierOpArrival d) s = .next t ∧ t.mem = s.mem ∧ (t.die d.val).arrivals = pre ++ post ∧
      (∀ n f, x = .barr e i n f →
        (barAt t e i).pend = (barAt s e i).pend - BitVec.ofNat 56 n ∧
        (barAt t e i).poison = ((barAt s e i).poison || f) ∧
        ((barAt t e i).poison = false → (barAt t e i).pend = 0 → (barAt s e i).arr = (barAt s e i).exp →
          (barAt t e i).phase = (barAt s e i).phase + 1 ∧ (barAt t e i).arr = 0) ∧
        ((barAt t e i).pend ≠ 0 → (barAt t e i).phase = (barAt s e i).phase)) ∧
      ∀ op g, x = .bop e i op g → barAt t e i = (barOp (barAt s e i) op).getD (barAt s e i)) ∧
  (∀ (d : DieId) (s : State) (e i : Nat) (a : BitVec 12) (v b : Bool) (c q : Nat) (pre post : List Arrival),
    (s.die d.val).arrivals = pre ++ .rel e i a v c b q :: post →
    (∀ e' i' a' v' c' b' q', Arrival.rel e' i' a' v' c' b' q' ∈ pre → settledBefore (s.core c') b' q' = false) →
    settledBefore (s.core c) b q = true →
    ∃ t, exec (.releaseArrival d) s = .next t ∧ t.mem = s.mem ∧ (t.die d.val).arrivals = pre ++ post ∧
      objVer t e i = objVer s e i + 1 ∧ (tget (t.die e).sync i ⟨0, 0, false⟩).lact = a ∧
      (tget (t.die e).sync i ⟨0, 0, false⟩).lav = (v && (actGet s a).st == .opened))

/-- The collective engine reads a tile that has been made ready, publishes the result of a complete plan at each of its members in
plan order once the pages that it needs are there, and ends at every member, without publishing, a firing that fails: at a link,
a translation or an access of a member, a peer's among them (R117, R118, R330). That where none is due nothing changes, and how a
firing waits for the stores before its CREADY, are the model's choice (logs 3, 28). -/
def Obligations.CollectiveEvents : Prop :=
  (∀ (d : DieId) (s : State), nextFiring s d.val = none → exec (.collectiveFiring d) s = .next s) ∧
  (∀ (d : DieId) (s : State) (e : Nat), nextFiring s d.val = some e → e ∈ (s.die d.val).firings ∧
    s.passes (tileAt s d.val e).gate = true ∧
    ∃ bad, exec (.collectiveFiring d) s = .next { s with
      fired := s.fired ++ [⟨d.val, e, rdN s.mem (2 * 2 ^ 48 + d.val * 2 ^ 21 + (tileAt s d.val e).soff.toNat)
        (tileAt s d.val e).bytes.toNat, bad⟩] }) ∧
  (∀ (e : Fin 1024) (ps : List Nat) (s : State), completePlan s e.val ps = none →
    exec (.collectiveComplete e ps) s = .next s) ∧
  (∀ (e : Fin 1024) (ps : List Nat) (s : State) (pre post : List Member) (m : Member) (tiles : List (Nat × List Nat))
      (l : List Nat), completePlan s e.val ps = some (pre ++ m :: post, tiles) → m.isLocal = true →
    (∀ x ∈ pre ++ post, x.isLocal = false) → (pre ++ m :: post).findSome? (memberAsks s e.val) = none →
    let c := tileAt s m.die e.val
    let v := (collResult c (tiles.map Prod.fst) pre.length).1
    resultLines s m.die c = .ok l → l.Nodup → (∀ a ∈ l, a < devTop) →
    ∃ t, exec (.collectiveComplete e ps) s = .next t ∧ (tileAt t m.die e.val).rdy = false ∧
      e.val ∉ (t.die m.die).firings ∧ (t.die m.die).cflt = (s.die m.die).cflt ∧
      (∀ i a, l[i]? = some a → rdN t.mem a 256 = v / 2 ^ (2048 * i) % 2 ^ 2048) ∧
      ∀ x, (∀ a ∈ l, x < a ∨ a + 256 ≤ x) → rd t.mem x = rd s.mem x) ∧
  (∀ (e : Fin 1024) (ps : List Nat) (s : State) (ms : List Member) (tiles : List (Nat × List Nat)) (asn : BitVec 4)
      (va : Addr), completePlan s e.val ps = some (ms, tiles) → ms.findSome? (memberAsks s e.val) = some (asn, va) →
    exec (.collectiveComplete e ps) s = .next (askPage s asn va .wr)) ∧
  -- several members: one after the other, each with its own part
  (∀ (e : Fin 1024) (ps : List Nat) (s : State) (ms : List Member) (tiles : List (Nat × List Nat)),
    completePlan s e.val ps = some (ms, tiles) → ms.findSome? (memberAsks s e.val) = none →
    ∃ t, exec (.collectiveComplete e ps) s = .next t ∧
      t = (ms.zipIdx.foldl (fun u m => publishResult u e.val tiles m.1 m.2) s)) ∧
  (∀ (u : State) (e i : Nat) (tiles : List (Nat × List Nat)) (m : Member) (l : List Nat),
    let c := tileAt u m.die e
    let r := collResult c (tiles.map Prod.fst) i
    let t := publishResult u e tiles m i
    (m.isLocal = false → t = u) ∧
    (m.isLocal = true → resultLines u m.die c = .ok l → l.Nodup → (∀ a ∈ l, a < devTop) →
      (tileAt t m.die e).rdy = false ∧ e ∉ (t.die m.die).firings ∧ (t.die m.die).cflt = (u.die m.die).cflt ∧
      (∀ j a, l[j]? = some a → rdN t.mem a 256 = r.1 / 2 ^ (2048 * j) % 2 ^ 2048) ∧
      ∀ x, (∀ a ∈ l, x < a ∨ a + 256 ≤ x) → rd t.mem x = rd u.mem x)) ∧
  -- a firing that fails
  (∀ (x : CollIn) (s : State),
    let d := x.die.val
    let p (e : Nat) : Nat := (tileAt s d e).plan.toNat
    let plan (e : Nat) : List Nat := tget s.plans (p e) []
    let fails (f : Firing) : Bool := f.die == d && (firingFails s f.entry (plan f.entry) ||
      x.peer.any fun q => (planMembers (plan f.entry)).any fun m => m.peer == some q.val)
    ((∀ f ∈ s.fired, fails f = false) → exec (.collectiveFault x) s = .next s) ∧
    ∀ f, s.fired.find? fails = some f → ∃ t, exec (.collectiveFault x) s = .next t ∧ t.mem = s.mem ∧
      ∀ y ∈ readyMembers s f.entry (p f.entry) (plan f.entry), (tileAt t y f.entry).rdy = false ∧
        f.entry ∈ (t.die y).cflt ∧ f.entry ∉ (t.die y).firings)

/-- The long-activity unit ends an abandonment that has nothing left to undo, and starts one compensation task for the head
that R324 names; a walker takes the oldest miss, and the result of its walk enters the buffers of those who wait, or its fault
goes to each of their accesses, fetches and commands (R99, R100, R323 to R325). The unit's die and master, what it does not queue
for a walker, how an AABANDON waits for the stores before it, and that what is not due changes nothing, are the model's choice
(logs 18, 75, 28, 3). -/
def Obligations.ActivityUnitAndWalkers : Prop :=
  (∀ s : State, s.abandons = [] → exec .abandonment s = .next s ∧ exec .compensationTaskRun s = .next s) ∧
  (∀ (s : State) (b : Abandon), s.abandons = [b] → b.task = none → b.failed = none → b.owed = none →
    s.passes b.gate = true →
    (heads s b = [] →
      (b.dropped = true ∨ ∀ w, b.status = some w → xlateU s (128 * b.die) lauMaster b.asn false .wr w ≠ .ask) →
      ∃ t, exec .abandonment s = .next t ∧ t.abandons = []) ∧
    (∀ w, heads s b = [] → b.dropped = false → b.status = some w →
      xlateU s (128 * b.die) lauMaster b.asn false .wr w = .ask → ∃ t, exec .abandonment s = .next t ∧
        t.abandons = [{ b with
          set := []
          owed := some 1 }] ∧ asking t b.asn w = true ∧ t.mem = s.mem) ∧
    (heads s b ≠ [] → (∀ h ∈ heads s b, isSave s h.2 = false) → exec .abandonment s = .next s) ∧
    (∀ a e, (∀ h ∈ heads s b, isSave s h.2 = false) → chooseHead s b (heads s b) = some (a, e) →
      ∃ t n, exec .compensationTaskRun s = .next t ∧ t.abandons = [{ b with task := some n }] ∧
        tget s.tasks n .none = .none ∧ (t.task n).kind = .comp ∧ (t.task n).comp = some (a, e) ∧ (t.task n).st = .ready ∧
        (n ∈ (t.die e.1).ready ∨ n ∈ (t.die e.1).overflow) ∧ t.mem = s.mem)) ∧
  (∀ (s : State) (b : Abandon), s.abandons = [b] → b.task = none → b.owed = none → s.passes b.gate = false →
    exec .abandonment s = .next s ∧ exec .compensationTaskRun s = .next s) ∧
  (∀ (s : State) (b : Abandon) (n : Nat), s.abandons = [b] → b.task = some n →
    exec .compensationTaskRun s = .next s ∧
    (b.owed = none → (s.task n).st.final = false → exec .abandonment s = .next s)) ∧
  (∀ (d : DieId) (s : State) (w : Walk) (r : List Walk), (s.die d.val).missq = w :: r → (s.die d.val).walks.length < 64 →
    exec (.pageWalk d) s = .next (s.modDie d.val fun x => { x with
      missq := r
      walks := (s.die d.val).walks ++ [{ w with fresh := true }] })) ∧
  (∀ (d : DieId) (s : State), ((s.die d.val).missq = [] ∨ 64 ≤ (s.die d.val).walks.length) → ∃ t,
    exec (.pageWalk d) s = .next t ∧ ∀ e, t.die e = s.die e) ∧
  (∀ (d : DieId) (k : Nat) (s : State), (s.die d.val).walks[k]? = none → exec (.walkComplete d k) s = .next s) ∧
  (∀ (d : DieId) (k : Nat) (s : State) (w : Walk), (s.die d.val).walks[k]? = some w →
    (w.fresh = false → ∃ t, exec (.walkComplete d k) s = .next t ∧ (t.die d.val).tlb = (s.die d.val).tlb ∧
      (t.die d.val).walks[k]? = some { w with fresh := true } ∧ t.clusters = s.clusters ∧ t.mem = s.mem) ∧
    (w.fresh = true →
      let va : Addr := BitVec.ofNat 52 (w.vpn.toNat * 65536)
      let u := s.modDie d.val fun x => { x with walks := x.walks.eraseIdx k }
      (∀ e, walk s d.val w.asn va = .leaf e → ∃ v, exec (.walkComplete d k) s = .next (settleCores v w.cores) ∧
        v.mem = s.mem ∧ v.cores = s.cores ∧ (v.die d.val).walks = (s.die d.val).walks.eraseIdx k ∧
        ∀ c, c ∈ w.cores ∨ c ∈ w.chans.map Prod.fst → (∃ x ∈ (v.die d.val).tlb, x.matches e.asn e.va = true) ∧
          ∃ x ∈ (v.cluster (clusterOf c)).tlb, x.matches e.asn e.va = true) ∧
      (walk s d.val w.asn va = .ask → ∃ t, exec (.walkComplete d k) s = .next t ∧ t = settleCores u w.cores ∧
        ∀ c x a, w.cores = [c] → (s.core c).inflight = [x] → x.acc = some a → a.st = .pending →
          ((s.core c).withheld.any Held.closed) = false → ((s.core c).slotOf !(s.core c).ctx).parked = [] →
          (s.core c).pubs = [] → cachePage a.word = false → missing u c (s.core c).slot.asn a.va = false →
          xlate u c (s.core c).slot.asn (s.core c).slot.sup a.kind.perm a.va = .ask →
          asking t (s.core c).slot.asn a.va = true ∧ t.mem = s.mem) ∧
      (∀ f, walk s d.val w.asn va = .fault f → let l := (w.cores ++ w.chans.map Prod.fst).eraseDups
        exec (.walkComplete d k) s = .next (settleCores (giveFault u l w.asn w.vpn f) w.cores)))) ∧
  (∀ (s : State) (l : List Nat) (asn : BitVec 4) (vpn : BitVec 36) (f : BitVec 16) (c : Nat), l.Nodup → c ∈ l →
    let v := giveFault s l asn vpn f
    let on (va : Addr) : Prop := va.extractLsb' 16 36 = vpn
    v.mem = s.mem ∧ (∀ b, ((s.core c).slotOf b).asn = asn →
      (∀ e ∈ flightOf (s.core c) b, ∀ a, e.acc = some a → a.st = .pending → on a.va →
        ∃ x ∈ flightOf (v.core c) b, ∃ y, x.acc = some y ∧ y.va = a.va ∧ y.st = .fault f) ∧
      (∀ e ∈ flightOf (v.core c) b, ∀ a, e.acc = some a → on a.va → a.st ≠ .pending) ∧
      ∀ va, slotWake (s.core c) b = some (.page va) → on va → ((v.core c).slotOf b).wfault = some (vpn, f)) ∧
    ∀ n x va, x ∈ (chanOf s c n).q → n < 4 → x.asn = asn → x.ask = some va → on va →
      ∃ y ∈ (chanOf v c n).q, y.id = x.id ∧ y.askf = some f)

/-- A corrected error is counted and recorded; an uncorrectable one poisons its line too; an error in a table takes the
fatal path, which records the cause and stops issue; an L1 hold that has run out ends, and the accesses of the cluster
that wait are tried again. An error that the named memory cannot
have changes nothing (R20, R94, R158, R159, R169, R357, R359). The record, CORE and CAUSE of the fatal path that the rules
leave open, UNIT of a record, and that an error that cannot be changes nothing are the model's choice (logs 25, 77, 3). -/
def Obligations.ErrorEvents : Prop :=
  (∀ (d : DieId) (b : Fin 4) (u : BitVec 4) (pa : Addr) (s : State),
    let old := vget (s.die d.val).banks b.val .reset
    let recorded (t : State) (rank : BitVec 2) (ecode : BitVec 8) : Prop :=
      ∀ i : Fin 8, (vget old.recs i.val .empty).v = false → (∀ j : Fin 8, j < i → (vget old.recs j.val .empty).v = true) →
        let r := vget (vget (t.die d.val).banks b.val .reset).recs i.val .empty
        r.v = true ∧ r.rank = rank ∧ r.unit = u ∧ r.ecode = ecode ∧ r.addr = pa ∧
        ∀ j : Fin 8, j ≠ i → vget (vget (t.die d.val).banks b.val .reset).recs j.val .empty = vget old.recs j.val .empty
    (eccOk s d.val b.val pa.toNat = true → ∃ t, exec (.correctedError d b u pa) s = .next t ∧ t.mem = s.mem ∧
      t.poison = s.poison ∧ t.cores = s.cores ∧ recorded t 1 0x01 ∧
      (vget (t.die d.val).banks b.val .reset).ccnt = (if old.ccnt = 0xFFFF then 0xFFFF else old.ccnt + 1)) ∧
    (eccOk s d.val b.val pa.toNat = true → ∃ t, exec (.uncorrectableError d b u pa) s = .next t ∧ t.mem = s.mem ∧
      t.poisoned pa.toNat = true ∧ t.cores = s.cores ∧ recorded t 2 0x02 ∧
      (vget (t.die d.val).banks b.val .reset).dcnt = (if old.dcnt = 0xFFFF then 0xFFFF else old.dcnt + 1)) ∧
    (eccOk s d.val b.val pa.toNat = false → exec (.correctedError d b u pa) s = .next s ∧
      exec (.uncorrectableError d b u pa) s = .next s)) ∧
  (∀ (d : DieId) (ecode : BitVec 8) (lost : List Nat) (s : State),
    (s.fatal = none → ∃ t f, exec (.fatalPath d ⟨ecode, lost⟩) s = .next t ∧ t.fatal = some f ∧ f.die.toNat = d.val ∧
      f.cause = 0x8000 + ecode.setWidth 16 ∧ t.cores = s.cores ∧ t.tasks = s.tasks ∧ t.launches = s.launches ∧
      ∀ (c : Fin 1024) (r : List Move), t.agenda = .issue c :: r → step t = .fault .issueStopped) ∧
    (s.fatal.isSome = true → exec (.fatalPath d ⟨ecode, lost⟩) s = .next s)) ∧
  (∀ (c : CoreId) (s : State), ∃ u, exec (.atomicHoldExpiry c) s = .next (retryCluster u (clusterOf c.val)) ∧
    u.mem = s.mem ∧ (∀ b, b ≠ c.val → u.core b = s.core b) ∧ ∀ a, l1At u c.val a = (if (l1At s c.val a).hold = 1 then
      { l1At s c.val a with hold := 0 } else l1At s c.val a))

/-! ## Coherence -/

/-- A message that may not arrive yet changes nothing; a request that reaches a home whose line is idle is served by the
table of R387, and one that finds its set full evicts the entry allocated earliest, once no transaction on that line is open; an
answer ends its transaction or its part of it; a message that reaches a cluster completes the request that waits for it, after
which the cluster's waiting accesses are tried again (before it, where an invalidation keeps the line out), or takes or shares
the copies and is answered (R20, R92, R386 to R388). Data for a GetM of a sharer that has dropped its line, what a write-back
carries and leaves in L2, and that a message that may not arrive changes nothing are the model's choice (logs 21, 30, 3). -/
def Obligations.CoherenceMessages : Prop :=
  let msg (i : Nat → Instr) (kind : MsgKind) (f : State → Msg → State → Out → Prop) : Prop := ∀ (k : Nat) (s : State),
    (arriving s kind k = none → exec (i k) s = .next s) ∧
    ∀ m u, arriving s kind k = some (m, u) → m.kind = kind ∧ u.msgs = s.msgs.eraseIdx k ∧ f s m u (exec (i k) s)
  let bit (c : Nat) : BitVec 128 := 1 <<< c
  let idle (m : Msg) (u : State) : Prop := homeBusy u m.pa = false ∧ ∀ x ∈ u.homeq, x.pa ≠ m.pa
  let entry (t : State) (pa : Addr) (st : Moesi) (owner : Nat) (sharers : BitVec 128) : Prop :=
    ∃ e, dirFind t pa = some e ∧ e.st = st ∧ e.owner = owner ∧ e.sharers = sharers
  let data (m : Msg) (st : Moesi) : Msg := ⟨.data, m.pa, m.req, m.req, m.core, st, 0, m.atomic⟩
  let answered (k : MsgKind) (m : Msg) (d : BitVec 4) : Msg := ⟨k, m.pa, m.cl, m.req, m.core, .i, d, false⟩
  msg .gets .gets (fun _ m u o => idle m u →
    (dirFind u m.pa = none → (dirOf u m.pa.toNat).length < 16 → ∃ t, o = .next t ∧ t.msgs = u.msgs ++ [data m .e] ∧
      entry t m.pa .e m.req (bit m.req) ∧ t.mem = u.mem) ∧
    (∀ e, dirFind u m.pa = some e → e.st = .s → e.sharers ≠ 0 → ∃ t, o = .next t ∧ t.msgs = u.msgs ++ [data m .s] ∧
      entry t m.pa .s e.owner (e.sharers ||| bit m.req) ∧ t.mem = u.mem) ∧
    (∀ e, dirFind u m.pa = some e → e.st ≠ .s → ∃ t x, o = .next t ∧ t.home = u.home ++ [x] ∧ x.pa = m.pa ∧ x.req = m ∧
      x.fwd = some e.owner ∧ t.dies = u.dies ∧ t.mem = u.mem ∧
      t.msgs = u.msgs ++ [⟨.fwds, m.pa, e.owner, m.req, m.core, .i, 0, false⟩]) ∧
    (∀ v, dirFind u m.pa = none → 16 ≤ (dirOf u m.pa.toNat).length → v ∈ dirOf u m.pa.toNat →
      (∀ e ∈ dirOf u m.pa.toNat, e = v ∨ v.stamp < e.stamp) →
      (homeBusy u v.pa = true → o = .next { u with homeq := u.homeq ++ [m] }) ∧
      (homeBusy u v.pa = false → v.sharers ≠ 0 → ∃ t x, o = .next t ∧ t.home = u.home ++ [x] ∧ x.pa = v.pa ∧ x.req = m ∧
        x.evict = true ∧ t.mem = u.mem ∧ ∀ c, c < 128 → v.sharers.getLsbD c = true →
          c ∈ x.invs ∧ ⟨.binv, v.pa, c, m.req, m.core, .i, 0, false⟩ ∈ t.msgs))) ∧
  msg .getm .getm (fun _ m u o => idle m u →
    (dirFind u m.pa = none → (dirOf u m.pa.toNat).length < 16 → ∃ t, o = .next t ∧ t.msgs = u.msgs ++ [data m .m] ∧
      entry t m.pa .m m.req (bit m.req) ∧ t.mem = u.mem) ∧
    (∀ e, dirFind u m.pa = some e → e.st = .s → e.sharers = bit m.req → m.req < 128 → m.st ≠ .i → ∃ t, o = .next t ∧
      t.msgs = u.msgs ++ [⟨.grant, m.pa, m.req, m.req, m.core, .m, m.dirty, m.atomic⟩] ∧ entry t m.pa .m m.req (bit m.req) ∧
      t.mem = u.mem) ∧
    (∀ e, dirFind u m.pa = some e → (∃ c, c < 128 ∧ c ≠ m.req ∧ e.sharers.getLsbD c = true) → ∃ t x, o = .next t ∧
      t.home = u.home ++ [x] ∧ x.pa = m.pa ∧ x.req = m ∧ t.mem = u.mem ∧
      ∀ c, c < 128 → c ≠ m.req → e.sharers.getLsbD c = true →
        if e.st ≠ .s ∧ c = e.owner then
          x.fwd = some c ∧ ⟨.fwdm, m.pa, c, m.req, m.core, .i, 0, m.atomic⟩ ∈ t.msgs
        else c ∈ x.invs ∧ ⟨.inv, m.pa, c, m.req, m.core, .i, 0, false⟩ ∈ t.msgs)) ∧
  msg .putm .putm (fun _ m u o => idle m u →
    let ack : Msg := ⟨.putack, m.pa, m.cl, m.cl, m.core, .i, 0, false⟩
    (∀ e, dirFind u m.pa = some e → (e.st = .s ∨ e.owner ≠ m.cl) → o = .next { u with msgs := u.msgs ++ [ack] }) ∧
    (∀ e, dirFind u m.pa = some e → (e.st = .m ∨ e.st = .e) → e.owner = m.cl → ∃ t, o = .next t ∧
      t.msgs = u.msgs ++ [ack] ∧ dirFind t m.pa = none ∧ t.mem = u.mem ∧
      (∀ l ∈ l2Set t m.pa.toNat, lineOf l.pa.toNat = lineOf m.pa.toNat → l.dirty = false) ∧
      ∀ i, i < 4 → ((wbOf u m.cl m.pa).elim m.dirty fun w => m.dirty &&& w.dirty).getLsbD i = true →
        (stackRow t m.pa.toNat).extractLsb' (512 * i) 512 = (u.rdLine m.pa.toNat).extractLsb' (512 * i) 512) ∧
    (∀ e, dirFind u m.pa = some e → e.st = .o → e.owner = m.cl → e.sharers &&& ~~~(bit m.cl) ≠ 0 → ∃ t, o = .next t ∧
      t.msgs = u.msgs ++ [ack] ∧ entry t m.pa .s e.owner (e.sharers &&& ~~~(bit m.cl)) ∧ t.mem = u.mem)) ∧
  msg .fwdack .fwdack (fun _ m u o => ∀ x e, txnOf u m.pa false (fun t => t.fwd == some m.cl) = some x → u.homeq = [] →
    dirFind u m.pa = some e →
    (x.req.kind = .gets → ∃ t, o = .next t ∧ x ∉ t.home ∧ t.msgs = u.msgs ∧ t.mem = u.mem ∧
      entry t m.pa (if e.st = .e then .s else .o) e.owner (e.sharers ||| bit x.req.req)) ∧
    -- the Grant says that the data come with the owner's DataF
    (x.req.kind = .getm → x.invs = [] → x.full = false → x.req.pa = m.pa → ∃ t, o = .next t ∧ t.mem = u.mem ∧
      entry t m.pa .m x.req.req (bit x.req.req) ∧
      t.msgs = u.msgs ++ [⟨.grant, m.pa, x.req.req, x.req.req, x.req.core, .m, 15, x.req.atomic⟩])) ∧
  msg .fwdnack .fwdnack (fun _ m u o => ∀ x e, txnOf u m.pa false (fun t => t.fwd == some m.cl) = some x → u.homeq = [] →
    x.req.kind = .gets → x.req.pa = m.pa → dirFind u m.pa = some e → e.sharers &&& ~~~(bit m.cl) = 0 →
    ∃ t, o = .next t ∧ x ∉ t.home ∧ t.msgs = u.msgs ++ [data x.req .e] ∧ t.mem = u.mem ∧
      entry t m.pa .e x.req.req (bit x.req.req)) ∧
  msg .invack .invack (fun _ m u o => ∀ x, txnOf u m.pa false (fun t => t.invs.contains m.cl) = some x →
    (∀ c ∈ x.invs, c = m.cl) → x.fwd = none → u.homeq = [] → x.req.pa = m.pa → ∃ t, o = .next t ∧ t.mem = u.mem ∧
      entry t m.pa .m x.req.req (bit x.req.req) ∧ t.msgs = u.msgs ++ [if x.full then data x.req .m
        else ⟨.grant, m.pa, x.req.req, x.req.req, x.req.core, .m, x.req.dirty, x.req.atomic⟩]) ∧
  msg .back .back (fun _ m u o => ∀ x, txnOf u m.pa true (fun t => t.invs.contains m.cl) = some x →
    (∃ c ∈ x.invs, c ≠ m.cl) → ∃ t, o = .next t ∧ t.mem = u.mem ∧ t.msgs = u.msgs ∧
      ∃ y ∈ t.home, y.pa = m.pa ∧ y.req = x.req ∧ y.invs = x.invs.filter (· != m.cl)) ∧
  msg .data .data (fun _ m u o => ∀ r, (u.cluster m.cl).reqs = [r] → lineOf r.pa.toNat = lineOf m.pa.toNat → r.more = false →
    (r.gone = false → m.st ≠ .i → ∃ t, o = .next (retryCluster t m.cl) ∧ (t.cluster m.cl).reqs = [] ∧ t.mem = u.mem ∧
      (l1At t r.core r.pa.toNat).st = m.st ∧ (l1At t r.core r.pa.toNat).valid = 15) ∧
    (r.gone = true →
      let r' : Req := { r with
        data := .got
        grant := some m.st }
      (∃ v, v.mem = u.mem ∧ v.cores = u.cores ∧ (v.cluster m.cl).reqs = [r'] ∧
        o = .next (completeReq (retryCluster v m.cl) m.cl ((reqFor (retryCluster v m.cl) m.cl m.pa.toNat).getD r'))) ∧
      ((∀ c, c / 8 = m.cl → (u.core c).inflight = [] ∧ (u.core c).withheld = [] ∧ (u.core c).pubs = [] ∧
          (u.core c).slot0.parked = [] ∧ (u.core c).slot1.parked = []) →
        ∃ t, o = .next t ∧ (t.cluster m.cl).reqs = [] ∧ t.mem = u.mem ∧ ∀ c pa, l1At t c pa = l1At u c pa))) ∧
  msg .grant .grant (fun _ m u o => ∀ r, (u.cluster m.cl).reqs = [r] → lineOf r.pa.toNat = lineOf m.pa.toNat →
    (r.data = .no ∨ (r.data = .own ∧ m.dirty ≠ 0) → ∃ t, o = .next t ∧ (t.cluster m.cl).reqs = [{ r with
        data := .no
        grant := some m.st }] ∧
      t.cores = u.cores ∧ t.mem = u.mem) ∧
    (r.data = .got ∨ (r.data = .own ∧ m.dirty = 0) → r.gone = false → r.more = false → m.st ≠ .i →
      ∃ t, o = .next (retryCluster t m.cl) ∧
      (t.cluster m.cl).reqs = [] ∧ t.mem = u.mem ∧ (l1At t r.core r.pa.toNat).st = m.st)) ∧
  msg .dataf .dataf (fun _ m u o => ∀ r, (u.cluster m.req).reqs = [r] → lineOf r.pa.toNat = lineOf m.pa.toNat →
    (r.excl = true → r.grant = none → ∃ t, o = .next t ∧ t.cores = u.cores ∧ t.mem = u.mem ∧
      (t.cluster m.req).reqs = [{ r with
        data := .got
        dirty := r.dirty ||| m.dirty }]) ∧
    (∀ st, r.excl = true → r.grant = some st → st ≠ .i → r.gone = false → r.more = false → copies u m.req r.pa.toNat = [] →
      ∃ t, o = .next (retryCluster t m.req) ∧ (t.cluster m.req).reqs = [] ∧ t.mem = u.mem ∧
        (l1At t r.core r.pa.toNat).st = st ∧ (l1At t r.core r.pa.toNat).dirty = r.dirty ||| m.dirty) ∧
    (r.excl = false → r.gone = false → r.more = false → ∃ t, o = .next (retryCluster t m.req) ∧
      (t.cluster m.req).reqs = [] ∧ t.mem = u.mem ∧ (l1At t r.core r.pa.toNat).st = .s)) ∧
  msg .fwds .fwds (fun _ m u o =>
    (copies u m.cl m.pa.toNat ≠ [] → ∃ t, o = .next t ∧ t.mem = u.mem ∧ t.msgs = u.msgs ++
      [⟨.dataf, m.pa, m.cl, m.req, m.core, .i, copiesDirty u m.cl m.pa.toNat, m.atomic⟩, answered .fwdack m 0] ∧
      ∀ c, c / 8 = m.cl → (l1At t c m.pa.toNat).st =
        (match (l1At u c m.pa.toNat).st with | .m => .o | .e => .s | x => x)) ∧
    (copies u m.cl m.pa.toNat = [] → wbOf u m.cl m.pa = none → ∃ t, o = .next t ∧ t.mem = u.mem ∧
      t.msgs = u.msgs ++ [answered .fwdnack m 0])) ∧
  msg .fwdm .fwdm (fun _ m u o =>
    (copies u m.cl m.pa.toNat ≠ [] → ∃ t, o = .next t ∧ t.mem = u.mem ∧ copies t m.cl m.pa.toNat = [] ∧
      t.msgs = u.msgs ++ [⟨.dataf, m.pa, m.cl, m.req, m.core, .i, copiesDirty u m.cl m.pa.toNat, m.atomic⟩,
        answered .fwdack m 0]) ∧
    (copies u m.cl m.pa.toNat = [] → wbOf u m.cl m.pa = none → ∃ t, o = .next t ∧ t.mem = u.mem ∧
      t.msgs = u.msgs ++ [answered .fwdnack m 0])) ∧
  msg .inv .inv (fun _ m u o => ∃ t, o = .next t ∧ t.mem = u.mem ∧ copies t m.cl m.pa.toNat = [] ∧
    t.msgs = u.msgs ++ [answered .invack m 0]) ∧
  msg .binv .binv (fun _ m u o => wbOf u m.cl m.pa = none → ∃ t, o = .next t ∧ t.mem = u.mem ∧
    copies t m.cl m.pa.toNat = [] ∧ t.msgs = u.msgs ++ [answered .back m (copiesDirty u m.cl m.pa.toNat)] ∧
    ∀ c, c / 8 = m.cl → (u.core c).monitor = some (BitVec.ofNat 52 (lineOf m.pa.toNat)) →
      (t.core c).monitorHit = true) ∧
  msg .putack .putack (fun _ m u o => ∃ t, o = .next t ∧ t.mem = u.mem ∧ t.cores = u.cores ∧
    ∀ w r, (u.cluster m.cl).wbuf = w :: r → w.pa = m.pa → (t.cluster m.cl).wbuf = r)

/-! ## The whole machine -/

/-- No instruction and no happening stops the module, in any state: each ends in a next state, a trap and the fatal path being
such states; the only step that faults asks a core to issue after the fatal path, and after it every such step faults: no core
issues on any die (R359). -/
def Obligations.NoInstructionStops : Prop :=
  (∀ (i : Instr) (s : State), ∃ t, exec i s = .next t) ∧ (∀ s : State, SafeStep s) ∧
  ∀ (s : State) (c : Fin 1024) (r : List Move), s.agenda = .issue c :: r → s.fatal.isSome = true →
    step s = .fault .issueStopped

/-- Every step keeps memory in its canonical form, from whatever state in which it has that form. -/
def Obligations.MemoryStaysCanonical : Prop :=
  ∀ s t : State, Inv s → step s = .next t → Inv t

/-- Reset leaves memory in its canonical form, and every register as the specification says: no step, launch, message or
buffered entry; zero registers, all lanes unmasked, s0 zero and p0 true; rings disabled; TVEC, TFBASE and the flags zero;
every access permitted; 2300 W, P0, 64 GiB of BAR2, ports at 448 Gb/s (R69, R76, R84, R123, R138, R156, R358, R362, R371).
The staging share, the rates of the ports and GTTBASE at reset, and what host and peer memory reads as, are the model's choice
(logs 4, 5). -/
def Obligations.ResetState : Prop :=
  let s := State.reset
  Inv s ∧ (∀ a, rd s.mem a = 0) ∧ s.poison = [] ∧ s.boot = .off ∧ s.power = .p0 ∧ s.pstate = 0 ∧ s.powercap = 2300 ∧
  s.bar2 = 36 ∧ s.apbase = 0 ∧ s.gttbase = 0 ∧ s.devid = 0 ∧ s.fatal = none ∧ s.tasks = [] ∧ s.launches = [] ∧
  s.tlaunch = [] ∧ s.msgs = [] ∧ s.tbivc = none ∧ s.regions = [] ∧ s.acts = [] ∧ s.plans = [] ∧
  s.planOut = [] ∧ s.home = [] ∧ s.homeq = [] ∧ s.ats = [] ∧ s.pri = [] ∧ s.ide = [] ∧ s.msixSent = [] ∧
  (∀ n, vget s.asroot n 0 = 0 ∧ vget s.aspasid n 0 = 0) ∧ (∀ p : Fin 18, s.ports[p.val] = 448) ∧
  (∀ q, (s.ring q).en = false ∧ (s.ring q).err = false ∧ (s.ring q).head = 0) ∧
  (∀ m k pa, accOk s m k pa = true) ∧
  (∀ c, let k := s.core c
    k.slot0.task = none ∧ k.slot1.task = none ∧ k.ctx = false ∧ k.cycle = 0 ∧ k.tvec = 0 ∧ k.tfbase = 0 ∧ k.tcause = 0 ∧
    k.tepc = 0 ∧ k.tval = 0 ∧ k.tscr = 0 ∧ k.inflight = [] ∧ k.withheld = [] ∧ k.journal = [] ∧ k.mq = [] ∧ k.l1 = [] ∧
    k.icache = [] ∧ k.mcache = [] ∧ k.rposts = [] ∧ k.assay = [] ∧ k.local_ = [] ∧ k.deferred = [] ∧ k.signals = [] ∧ k.monitor = none ∧ k.preempt = false ∧
    k.freeze = none ∧ k.hold = none ∧ (∀ f, vget k.flags f 0 = 0) ∧ (∀ n, vget k.chans n ⟨[], false⟩ = ⟨[], false⟩) ∧
    ∀ b, (∀ r, sReg (k.slotOf b) r = 0) ∧ (∀ r, vReg (k.slotOf b) r = 0) ∧
      (∀ r, pReg (k.slotOf b) r = decide (r = 0)) ∧ (∀ r, mReg (k.slotOf b) r = BitVec.allOnes 128) ∧
      (k.slotOf b).sup = false ∧ (∀ n, vget (k.slotOf b).sticky n 0 = 0)) ∧
  (∀ cl, (s.cluster cl).tlb = [] ∧ (s.cluster cl).btb = [] ∧ (s.cluster cl).fused = false ∧ (s.cluster cl).role = none) ∧
  ∀ d, (s.die d).tlb = [] ∧ (s.die d).l2 = [] ∧ (s.die d).dir = [] ∧ (s.die d).staging = 0 ∧ (s.die d).ready = [] ∧
    (s.die d).csseg = 0 ∧ (s.die d).trpool = 0 ∧ ∀ i, objVer s d i = 0 ∧ barAt s d i = ⟨0, 0, 0, 0, false⟩
end

