-- ==== Sys2Proof/Laws/PerInstr.lean ====
section
/-!
SUPPORT. PerInstr.lean: the family Encoding, a fact about each instruction as syntax: a slot instruction has words, and a
happening of a unit has none.
-/
namespace Sys2Proof.Laws

/-- A slot instruction has words; a happening has none. -/
def Encoding.Statement (i : Instr) : Prop := (encode i).isSome = i.isSlot

theorem Encoding.nop : Encoding.Statement .nop := rfl
theorem Encoding.pfx a0 : Encoding.Statement (.pfx a0) := rfl
theorem Encoding.add a0 : Encoding.Statement (.add a0) := rfl
theorem Encoding.sub a0 : Encoding.Statement (.sub a0) := rfl
theorem Encoding.adds a0 : Encoding.Statement (.adds a0) := rfl
theorem Encoding.mul a0 : Encoding.Statement (.mul a0) := rfl
theorem Encoding.mulh a0 : Encoding.Statement (.mulh a0) := rfl
theorem Encoding.mulhu a0 : Encoding.Statement (.mulhu a0) := rfl
theorem Encoding.min a0 : Encoding.Statement (.min a0) := rfl
theorem Encoding.max a0 : Encoding.Statement (.max a0) := rfl
theorem Encoding.minu a0 : Encoding.Statement (.minu a0) := rfl
theorem Encoding.maxu a0 : Encoding.Statement (.maxu a0) := rfl
theorem Encoding.and a0 : Encoding.Statement (.and a0) := rfl
theorem Encoding.or a0 : Encoding.Statement (.or a0) := rfl
theorem Encoding.xor a0 : Encoding.Statement (.xor a0) := rfl
theorem Encoding.andn a0 : Encoding.Statement (.andn a0) := rfl
theorem Encoding.shl a0 : Encoding.Statement (.shl a0) := rfl
theorem Encoding.shr a0 : Encoding.Statement (.shr a0) := rfl
theorem Encoding.sar a0 : Encoding.Statement (.sar a0) := rfl
theorem Encoding.rot a0 : Encoding.Statement (.rot a0) := rfl
theorem Encoding.clz a0 : Encoding.Statement (.clz a0) := rfl
theorem Encoding.popc a0 : Encoding.Statement (.popc a0) := rfl
theorem Encoding.brev a0 : Encoding.Statement (.brev a0) := rfl
theorem Encoding.movi a0 : Encoding.Statement (.movi a0) := rfl
theorem Encoding.cmp a0 : Encoding.Statement (.cmp a0) := rfl
theorem Encoding.sel a0 : Encoding.Statement (.sel a0) := rfl
theorem Encoding.pand a0 : Encoding.Statement (.pand a0) := rfl
theorem Encoding.por a0 : Encoding.Statement (.por a0) := rfl
theorem Encoding.pxor a0 : Encoding.Statement (.pxor a0) := rfl
theorem Encoding.pnot a0 : Encoding.Statement (.pnot a0) := rfl
theorem Encoding.sfadd a0 : Encoding.Statement (.sfadd a0) := rfl
theorem Encoding.sfmul a0 : Encoding.Statement (.sfmul a0) := rfl
theorem Encoding.sfma a0 : Encoding.Statement (.sfma a0) := rfl
theorem Encoding.sfcmp a0 : Encoding.Statement (.sfcmp a0) := rfl
theorem Encoding.sfcvt a0 : Encoding.Statement (.sfcvt a0) := rfl
theorem Encoding.mfc a0 : Encoding.Statement (.mfc a0) := rfl
theorem Encoding.mtc a0 : Encoding.Statement (.mtc a0) := rfl
theorem Encoding.rdwid a0 : Encoding.Statement (.rdwid a0) := rfl
theorem Encoding.br a0 : Encoding.Statement (.br a0) := rfl
theorem Encoding.brc a0 : Encoding.Statement (.brc a0) := rfl
theorem Encoding.call a0 : Encoding.Statement (.call a0) := rfl
theorem Encoding.jmpr a0 : Encoding.Statement (.jmpr a0) := rfl
theorem Encoding.ret a0 : Encoding.Statement (.ret a0) := rfl
theorem Encoding.loop a0 : Encoding.Statement (.loop a0) := rfl
theorem Encoding.mloop a0 : Encoding.Statement (.mloop a0) := rfl
theorem Encoding.lbrk a0 : Encoding.Statement (.lbrk a0) := rfl
theorem Encoding.ppt : Encoding.Statement .ppt := rfl
theorem Encoding.ckpt : Encoding.Statement .ckpt := rfl
theorem Encoding.rdz a0 : Encoding.Statement (.rdz a0) := rfl
theorem Encoding.vadd a0 : Encoding.Statement (.vadd a0) := rfl
theorem Encoding.vsub a0 : Encoding.Statement (.vsub a0) := rfl
theorem Encoding.vmul a0 : Encoding.Statement (.vmul a0) := rfl
theorem Encoding.vfma a0 : Encoding.Statement (.vfma a0) := rfl
theorem Encoding.vfms a0 : Encoding.Statement (.vfms a0) := rfl
theorem Encoding.vmin a0 : Encoding.Statement (.vmin a0) := rfl
theorem Encoding.vmax a0 : Encoding.Statement (.vmax a0) := rfl
theorem Encoding.vadds a0 : Encoding.Statement (.vadds a0) := rfl
theorem Encoding.vsubs a0 : Encoding.Statement (.vsubs a0) := rfl
theorem Encoding.vmulh a0 : Encoding.Statement (.vmulh a0) := rfl
theorem Encoding.vabs a0 : Encoding.Statement (.vabs a0) := rfl
theorem Encoding.vneg a0 : Encoding.Statement (.vneg a0) := rfl
theorem Encoding.vcmp a0 : Encoding.Statement (.vcmp a0) := rfl
theorem Encoding.vand a0 : Encoding.Statement (.vand a0) := rfl
theorem Encoding.vor a0 : Encoding.Statement (.vor a0) := rfl
theorem Encoding.vxor a0 : Encoding.Statement (.vxor a0) := rfl
theorem Encoding.vshl a0 : Encoding.Statement (.vshl a0) := rfl
theorem Encoding.vshr a0 : Encoding.Statement (.vshr a0) := rfl
theorem Encoding.vsar a0 : Encoding.Statement (.vsar a0) := rfl
theorem Encoding.vsel a0 : Encoding.Statement (.vsel a0) := rfl
theorem Encoding.vcvt a0 : Encoding.Statement (.vcvt a0) := rfl
theorem Encoding.vpack a0 : Encoding.Statement (.vpack a0) := rfl
theorem Encoding.vunpk a0 : Encoding.Statement (.vunpk a0) := rfl
theorem Encoding.vbcast a0 : Encoding.Statement (.vbcast a0) := rfl
theorem Encoding.vext a0 : Encoding.Statement (.vext a0) := rfl
theorem Encoding.vlane a0 : Encoding.Statement (.vlane a0) := rfl
theorem Encoding.vperm a0 : Encoding.Statement (.vperm a0) := rfl
theorem Encoding.vrm a0 : Encoding.Statement (.vrm a0) := rfl
theorem Encoding.vreds a0 : Encoding.Statement (.vreds a0) := rfl
theorem Encoding.vredmMax a0 : Encoding.Statement (.vredmMax a0) := rfl
theorem Encoding.vredmMin a0 : Encoding.Statement (.vredmMin a0) := rfl
theorem Encoding.vscan a0 : Encoding.Statement (.vscan a0) := rfl
theorem Encoding.topk a0 : Encoding.Statement (.topk a0) := rfl
theorem Encoding.vexp2 a0 : Encoding.Statement (.vexp2 a0) := rfl
theorem Encoding.vlog2 a0 : Encoding.Statement (.vlog2 a0) := rfl
theorem Encoding.vrcp a0 : Encoding.Statement (.vrcp a0) := rfl
theorem Encoding.vrsq a0 : Encoding.Statement (.vrsq a0) := rfl
theorem Encoding.vsig a0 : Encoding.Statement (.vsig a0) := rfl
theorem Encoding.vtanh a0 : Encoding.Statement (.vtanh a0) := rfl
theorem Encoding.vsilu a0 : Encoding.Statement (.vsilu a0) := rfl
theorem Encoding.vgelu a0 : Encoding.Statement (.vgelu a0) := rfl
theorem Encoding.vexpd a0 : Encoding.Statement (.vexpd a0) := rfl
theorem Encoding.mand a0 : Encoding.Statement (.mand a0) := rfl
theorem Encoding.mor a0 : Encoding.Statement (.mor a0) := rfl
theorem Encoding.mnot a0 : Encoding.Statement (.mnot a0) := rfl
theorem Encoding.mpop a0 : Encoding.Statement (.mpop a0) := rfl
theorem Encoding.mfirst a0 : Encoding.Statement (.mfirst a0) := rfl
theorem Encoding.xpush a0 : Encoding.Statement (.xpush a0) := rfl
theorem Encoding.xpop a0 : Encoding.Statement (.xpop a0) := rfl
theorem Encoding.defer a0 : Encoding.Statement (.defer a0) := rfl
theorem Encoding.drain a0 : Encoding.Statement (.drain a0) := rfl
theorem Encoding.mma a0 : Encoding.Statement (.mma a0) := rfl
theorem Encoding.mmas a0 : Encoding.Statement (.mmas a0) := rfl
theorem Encoding.mmat a0 : Encoding.Statement (.mmat a0) := rfl
theorem Encoding.mpcset a0 : Encoding.Statement (.mpcset a0) := rfl
theorem Encoding.aclr a0 : Encoding.Statement (.aclr a0) := rfl
theorem Encoding.accld a0 : Encoding.Statement (.accld a0) := rfl
theorem Encoding.accst a0 : Encoding.Statement (.accst a0) := rfl
theorem Encoding.kat a0 : Encoding.Statement (.kat a0) := rfl
theorem Encoding.texpd a0 : Encoding.Statement (.texpd a0) := rfl
theorem Encoding.tadd a0 : Encoding.Statement (.tadd a0) := rfl
theorem Encoding.tsub a0 : Encoding.Statement (.tsub a0) := rfl
theorem Encoding.tmul a0 : Encoding.Statement (.tmul a0) := rfl
theorem Encoding.tscale a0 : Encoding.Statement (.tscale a0) := rfl
theorem Encoding.trelu a0 : Encoding.Statement (.trelu a0) := rfl
theorem Encoding.tcvt a0 : Encoding.Statement (.tcvt a0) := rfl
theorem Encoding.fset a0 : Encoding.Statement (.fset a0) := rfl
theorem Encoding.fclr a0 : Encoding.Statement (.fclr a0) := rfl
theorem Encoding.fcopy a0 : Encoding.Statement (.fcopy a0) := rfl
theorem Encoding.fcopyAcc a0 : Encoding.Statement (.fcopyAcc a0) := rfl
theorem Encoding.fbind a0 : Encoding.Statement (.fbind a0) := rfl
theorem Encoding.fread a0 : Encoding.Statement (.fread a0) := rfl
theorem Encoding.rrow a0 : Encoding.Statement (.rrow a0) := rfl
theorem Encoding.rcol a0 : Encoding.Statement (.rcol a0) := rfl
theorem Encoding.rseal a0 : Encoding.Statement (.rseal a0) := rfl
theorem Encoding.rrtalloc a0 : Encoding.Statement (.rrtalloc a0) := rfl
theorem Encoding.rrtfree a0 : Encoding.Statement (.rrtfree a0) := rfl
theorem Encoding.resolve a0 : Encoding.Statement (.resolve a0) := rfl
theorem Encoding.ldr a0 : Encoding.Statement (.ldr a0) := rfl
theorem Encoding.str a0 : Encoding.Statement (.str a0) := rfl
theorem Encoding.lds a0 : Encoding.Statement (.lds a0) := rfl
theorem Encoding.sts a0 : Encoding.Statement (.sts a0) := rfl
theorem Encoding.ldg a0 : Encoding.Statement (.ldg a0) := rfl
theorem Encoding.stg a0 : Encoding.Statement (.stg a0) := rfl
theorem Encoding.ldgs a0 : Encoding.Statement (.ldgs a0) := rfl
theorem Encoding.stgs a0 : Encoding.Statement (.stgs a0) := rfl
theorem Encoding.pref a0 : Encoding.Statement (.pref a0) := rfl
theorem Encoding.cflush a0 : Encoding.Statement (.cflush a0) := rfl
theorem Encoding.cinv a0 : Encoding.Statement (.cinv a0) := rfl
theorem Encoding.cpy a0 : Encoding.Statement (.cpy a0) := rfl
theorem Encoding.cpym a0 : Encoding.Statement (.cpym a0) := rfl
theorem Encoding.gath a0 : Encoding.Statement (.gath a0) := rfl
theorem Encoding.scat a0 : Encoding.Statement (.scat a0) := rfl
theorem Encoding.publ a0 : Encoding.Statement (.publ a0) := rfl
theorem Encoding.cwait a0 : Encoding.Statement (.cwait a0) := rfl
theorem Encoding.cwaitWp a0 : Encoding.Statement (.cwaitWp a0) := rfl
theorem Encoding.aadd a0 : Encoding.Statement (.aadd a0) := rfl
theorem Encoding.aadds a0 : Encoding.Statement (.aadds a0) := rfl
theorem Encoding.amin a0 : Encoding.Statement (.amin a0) := rfl
theorem Encoding.amax a0 : Encoding.Statement (.amax a0) := rfl
theorem Encoding.aand a0 : Encoding.Statement (.aand a0) := rfl
theorem Encoding.aor a0 : Encoding.Statement (.aor a0) := rfl
theorem Encoding.axor a0 : Encoding.Statement (.axor a0) := rfl
theorem Encoding.axchg a0 : Encoding.Statement (.axchg a0) := rfl
theorem Encoding.acas a0 : Encoding.Statement (.acas a0) := rfl
theorem Encoding.afadd a0 : Encoding.Statement (.afadd a0) := rfl
theorem Encoding.bind a0 : Encoding.Statement (.bind a0) := rfl
theorem Encoding.acq a0 : Encoding.Statement (.acq a0) := rfl
theorem Encoding.rel a0 : Encoding.Statement (.rel a0) := rfl
theorem Encoding.fence : Encoding.Statement .fence := rfl
theorem Encoding.fwait a0 : Encoding.Statement (.fwait a0) := rfl
theorem Encoding.fpost a0 : Encoding.Statement (.fpost a0) := rfl
theorem Encoding.fpostr a0 : Encoding.Statement (.fpostr a0) := rfl
theorem Encoding.sync a0 : Encoding.Statement (.sync a0) := rfl
theorem Encoding.barr a0 : Encoding.Statement (.barr a0) := rfl
theorem Encoding.barrx a0 : Encoding.Statement (.barrx a0) := rfl
theorem Encoding.bwait a0 : Encoding.Statement (.bwait a0) := rfl
theorem Encoding.rearm a0 : Encoding.Statement (.rearm a0) := rfl
theorem Encoding.marm a0 : Encoding.Statement (.marm a0) := rfl
theorem Encoding.mwait a0 : Encoding.Statement (.mwait a0) := rfl
theorem Encoding.trig a0 : Encoding.Statement (.trig a0) := rfl
theorem Encoding.tcntAdd a0 : Encoding.Statement (.tcntAdd a0) := rfl
theorem Encoding.tcntSet a0 : Encoding.Statement (.tcntSet a0) := rfl
theorem Encoding.tlaunch a0 : Encoding.Statement (.tlaunch a0) := rfl
theorem Encoding.tspawn a0 : Encoding.Statement (.tspawn a0) := rfl
theorem Encoding.tdep a0 : Encoding.Statement (.tdep a0) := rfl
theorem Encoding.tend : Encoding.Statement .tend := rfl
theorem Encoding.resadv a0 : Encoding.Statement (.resadv a0) := rfl
theorem Encoding.resdrop a0 : Encoding.Statement (.resdrop a0) := rfl
theorem Encoding.reschk a0 : Encoding.Statement (.reschk a0) := rfl
theorem Encoding.abegin a0 : Encoding.Statement (.abegin a0) := rfl
theorem Encoding.apush a0 : Encoding.Statement (.apush a0) := rfl
theorem Encoding.asave a0 : Encoding.Statement (.asave a0) := rfl
theorem Encoding.acommit a0 : Encoding.Statement (.acommit a0) := rfl
theorem Encoding.aabandon a0 : Encoding.Statement (.aabandon a0) := rfl
theorem Encoding.cend a0 : Encoding.Statement (.cend a0) := rfl
theorem Encoding.aresume a0 : Encoding.Statement (.aresume a0) := rfl
theorem Encoding.adiscard a0 : Encoding.Statement (.adiscard a0) := rfl
theorem Encoding.ctile a0 : Encoding.Statement (.ctile a0) := rfl
theorem Encoding.cready a0 : Encoding.Statement (.cready a0) := rfl
theorem Encoding.cplan a0 : Encoding.Statement (.cplan a0) := rfl
theorem Encoding.cwaitc a0 : Encoding.Statement (.cwaitc a0) := rfl
theorem Encoding.btset a0 : Encoding.Statement (.btset a0) := rfl
theorem Encoding.btlook a0 : Encoding.Statement (.btlook a0) := rfl
theorem Encoding.btinv a0 : Encoding.Statement (.btinv a0) := rfl
theorem Encoding.sacc a0 : Encoding.Statement (.sacc a0) := rfl
theorem Encoding.grace a0 : Encoding.Statement (.grace a0) := rfl
theorem Encoding.handover a0 : Encoding.Statement (.handover a0) := rfl
theorem Encoding.trap a0 : Encoding.Statement (.trap a0) := rfl
theorem Encoding.rft : Encoding.Statement .rft := rfl
theorem Encoding.ebreak : Encoding.Statement .ebreak := rfl
theorem Encoding.signal a0 : Encoding.Statement (.signal a0) := rfl
theorem Encoding.xread a0 : Encoding.Statement (.xread a0) := rfl
theorem Encoding.xclr a0 : Encoding.Statement (.xclr a0) := rfl
theorem Encoding.errld a0 : Encoding.Statement (.errld a0) := rfl
theorem Encoding.lqtailDoorbell a0 a1 : Encoding.Statement (.lqtailDoorbell a0 a1) := rfl
theorem Encoding.lqEnable a0 a1 : Encoding.Statement (.lqEnable a0 a1) := rfl
theorem Encoding.ringReset a0 : Encoding.Statement (.ringReset a0) := rfl
theorem Encoding.lqctlErrClear a0 : Encoding.Statement (.lqctlErrClear a0) := rfl
theorem Encoding.registerWrite a0 a1 a2 : Encoding.Statement (.registerWrite a0 a1 a2) := rfl
theorem Encoding.lqkill a0 a1 : Encoding.Statement (.lqkill a0 a1) := rfl
theorem Encoding.tbivc a0 a1 : Encoding.Statement (.tbivc a0 a1) := rfl
theorem Encoding.tbivcComplete : Encoding.Statement .tbivcComplete := rfl
theorem Encoding.tbivcOvrClear a0 : Encoding.Statement (.tbivcOvrClear a0) := rfl
theorem Encoding.preemptRequest a0 a1 : Encoding.Statement (.preemptRequest a0 a1) := rfl
theorem Encoding.errorRecordFree a0 a1 a2 a3 : Encoding.Statement (.errorRecordFree a0 a1 a2 a3) := rfl
theorem Encoding.errorOvfClear a0 a1 a2 a3 : Encoding.Statement (.errorOvfClear a0 a1 a2 a3) := rfl
theorem Encoding.accessTableWrite a0 a1 a2 a3 : Encoding.Statement (.accessTableWrite a0 a1 a2 a3) := rfl
theorem Encoding.cssegWrite a0 a1 a2 : Encoding.Statement (.cssegWrite a0 a1 a2) := rfl
theorem Encoding.trpoolWrite a0 a1 a2 : Encoding.Statement (.trpoolWrite a0 a1 a2) := rfl
theorem Encoding.devidWrite a0 a1 : Encoding.Statement (.devidWrite a0 a1) := rfl
theorem Encoding.hostSyncAcquire a0 a1 a2 : Encoding.Statement (.hostSyncAcquire a0 a1 a2) := rfl
theorem Encoding.hostSyncRelease a0 a1 a2 : Encoding.Statement (.hostSyncRelease a0 a1 a2) := rfl
theorem Encoding.bar2Access a0 a1 a2 : Encoding.Statement (.bar2Access a0 a1 a2) := rfl
theorem Encoding.peerRequest a0 a1 a2 : Encoding.Statement (.peerRequest a0 a1 a2) := rfl
theorem Encoding.powerOn a0 : Encoding.Statement (.powerOn a0) := rfl
theorem Encoding.reset a0 : Encoding.Statement (.reset a0) := rfl
theorem Encoding.spdmRequest a0 a1 : Encoding.Statement (.spdmRequest a0 a1) := rfl
theorem Encoding.ideIntegrityFailure a0 a1 : Encoding.Statement (.ideIntegrityFailure a0 a1) := rfl
theorem Encoding.atsInvalidation a0 a1 a2 : Encoding.Statement (.atsInvalidation a0 a1 a2) := rfl
theorem Encoding.atsResponse a0 : Encoding.Statement (.atsResponse a0) := rfl
theorem Encoding.priResponse a0 : Encoding.Statement (.priResponse a0) := rfl
theorem Encoding.powerStepDown a0 a1 : Encoding.Statement (.powerStepDown a0 a1) := rfl
theorem Encoding.powerStepUp : Encoding.Statement .powerStepUp := rfl
theorem Encoding.junctionLimit a0 : Encoding.Statement (.junctionLimit a0) := rfl
theorem Encoding.d3hotEntry : Encoding.Statement .d3hotEntry := rfl
theorem Encoding.d0Return : Encoding.Statement .d0Return := rfl
theorem Encoding.powerRemoval : Encoding.Statement .powerRemoval := rfl
theorem Encoding.laneStepDown a0 : Encoding.Statement (.laneStepDown a0) := rfl
theorem Encoding.portDown a0 : Encoding.Statement (.portDown a0) := rfl
theorem Encoding.launchFetch : Encoding.Statement .launchFetch := rfl
theorem Encoding.stagingShareApply a0 : Encoding.Statement (.stagingShareApply a0) := rfl
theorem Encoding.fuseChange a0 : Encoding.Statement (.fuseChange a0) := rfl
theorem Encoding.roleModeStart a0 : Encoding.Statement (.roleModeStart a0) := rfl
theorem Encoding.walkerExpand a0 : Encoding.Statement (.walkerExpand a0) := rfl
theorem Encoding.overflowMove a0 : Encoding.Statement (.overflowMove a0) := rfl
theorem Encoding.priorityAging a0 a1 : Encoding.Statement (.priorityAging a0 a1) := rfl
theorem Encoding.dispatch a0 : Encoding.Statement (.dispatch a0) := rfl
theorem Encoding.taskStart a0 : Encoding.Statement (.taskStart a0) := rfl
theorem Encoding.balancerSample : Encoding.Statement .balancerSample := rfl
theorem Encoding.migration : Encoding.Statement .migration := rfl
theorem Encoding.resultDeliver a0 : Encoding.Statement (.resultDeliver a0) := rfl
theorem Encoding.freezeStart a0 : Encoding.Statement (.freezeStart a0) := rfl
theorem Encoding.freezeRelease a0 : Encoding.Statement (.freezeRelease a0) := rfl
theorem Encoding.slotResume a0 : Encoding.Statement (.slotResume a0) := rfl
theorem Encoding.stallWatchdog a0 : Encoding.Statement (.stallWatchdog a0) := rfl
theorem Encoding.waitComplete a0 : Encoding.Statement (.waitComplete a0) := rfl
theorem Encoding.waitTimeout a0 : Encoding.Statement (.waitTimeout a0) := rfl
theorem Encoding.factorHoldRelease a0 : Encoding.Statement (.factorHoldRelease a0) := rfl
theorem Encoding.factorHoldExpiry a0 : Encoding.Statement (.factorHoldExpiry a0) := rfl
theorem Encoding.monitorWake a0 : Encoding.Statement (.monitorWake a0) := rfl
theorem Encoding.trapEntry a0 : Encoding.Statement (.trapEntry a0) := rfl
theorem Encoding.dueCycleFault a0 : Encoding.Statement (.dueCycleFault a0) := rfl
theorem Encoding.signalInterrupt a0 : Encoding.Statement (.signalInterrupt a0) := rfl
theorem Encoding.assayMismatch a0 : Encoding.Statement (.assayMismatch a0) := rfl
theorem Encoding.poisonConsumption a0 a1 : Encoding.Statement (.poisonConsumption a0 a1) := rfl
theorem Encoding.journalFullCheckpoint a0 : Encoding.Statement (.journalFullCheckpoint a0) := rfl
theorem Encoding.matrixOpStart a0 : Encoding.Statement (.matrixOpStart a0) := rfl
theorem Encoding.matrixChunkEnd a0 : Encoding.Statement (.matrixChunkEnd a0) := rfl
theorem Encoding.matrixOpEnd a0 : Encoding.Statement (.matrixOpEnd a0) := rfl
theorem Encoding.followOnArrival a0 a1 : Encoding.Statement (.followOnArrival a0 a1) := rfl
theorem Encoding.copyStart a0 a1 : Encoding.Statement (.copyStart a0 a1) := rfl
theorem Encoding.copyRow a0 a1 : Encoding.Statement (.copyRow a0 a1) := rfl
theorem Encoding.copyComplete a0 a1 : Encoding.Statement (.copyComplete a0 a1) := rfl
theorem Encoding.copyFault a0 a1 : Encoding.Statement (.copyFault a0 a1) := rfl
theorem Encoding.collectiveFiring a0 : Encoding.Statement (.collectiveFiring a0) := rfl
theorem Encoding.collectiveComplete a0 a1 : Encoding.Statement (.collectiveComplete a0 a1) := rfl
theorem Encoding.collectiveFault a0 : Encoding.Statement (.collectiveFault a0) := rfl
theorem Encoding.triggerFire a0 a1 : Encoding.Statement (.triggerFire a0 a1) := rfl
theorem Encoding.flagPostArrival a0 a1 : Encoding.Statement (.flagPostArrival a0 a1) := rfl
theorem Encoding.barrierOpArrival a0 : Encoding.Statement (.barrierOpArrival a0) := rfl
theorem Encoding.releaseArrival a0 : Encoding.Statement (.releaseArrival a0) := rfl
theorem Encoding.abandonment : Encoding.Statement .abandonment := rfl
theorem Encoding.compensationTaskRun : Encoding.Statement .compensationTaskRun := rfl
theorem Encoding.pageWalk a0 : Encoding.Statement (.pageWalk a0) := rfl
theorem Encoding.walkComplete a0 a1 : Encoding.Statement (.walkComplete a0 a1) := rfl
theorem Encoding.gets a0 : Encoding.Statement (.gets a0) := rfl
theorem Encoding.getm a0 : Encoding.Statement (.getm a0) := rfl
theorem Encoding.putm a0 : Encoding.Statement (.putm a0) := rfl
theorem Encoding.data a0 : Encoding.Statement (.data a0) := rfl
theorem Encoding.grant a0 : Encoding.Statement (.grant a0) := rfl
theorem Encoding.fwds a0 : Encoding.Statement (.fwds a0) := rfl
theorem Encoding.fwdm a0 : Encoding.Statement (.fwdm a0) := rfl
theorem Encoding.dataf a0 : Encoding.Statement (.dataf a0) := rfl
theorem Encoding.fwdack a0 : Encoding.Statement (.fwdack a0) := rfl
theorem Encoding.fwdnack a0 : Encoding.Statement (.fwdnack a0) := rfl
theorem Encoding.inv a0 : Encoding.Statement (.inv a0) := rfl
theorem Encoding.invack a0 : Encoding.Statement (.invack a0) := rfl
theorem Encoding.binv a0 : Encoding.Statement (.binv a0) := rfl
theorem Encoding.back a0 : Encoding.Statement (.back a0) := rfl
theorem Encoding.putack a0 : Encoding.Statement (.putack a0) := rfl
theorem Encoding.correctedError a0 a1 a2 a3 : Encoding.Statement (.correctedError a0 a1 a2 a3) := rfl
theorem Encoding.uncorrectableError a0 a1 a2 a3 : Encoding.Statement (.uncorrectableError a0 a1 a2 a3) := rfl
theorem Encoding.fatalPath a0 a1 : Encoding.Statement (.fatalPath a0 a1) := rfl
theorem Encoding.atomicHoldExpiry a0 : Encoding.Statement (.atomicHoldExpiry a0) := rfl
theorem Encoding.msixVectorUnmask a0 : Encoding.Statement (.msixVectorUnmask a0) := rfl
theorem Encoding.bar2Resize a0 : Encoding.Statement (.bar2Resize a0) := rfl

end Sys2Proof.Laws
end

