-- ==== Sys2Proof/Laws/Store.lean ====
section
/-!
SUPPORT. Laws of tables, vectors, memory and lanes: what a read gives after a write, and that every memory operation keeps
the canonical form.
-/
namespace Sys2Proof.Machine

/-! ## Tables -/

theorem tget_tput_same {α : Type} (t : Tab α) (k : Nat) (x d : α) : tget (tput t k x) k d = x := by
  induction t with
  | nil => simp [tput, tget]
  | cons e r ih =>
    obtain ⟨j, y⟩ := e
    simp only [tput]
    split
    · simp [tget]
    · split <;> simp_all [tget]

theorem tget_tput_ne {α : Type} (t : Tab α) {j k : Nat} (x d : α) (h : j ≠ k) : tget (tput t k x) j d = tget t j d := by
  induction t with
  | nil => simp [tput, tget, h]
  | cons e r ih =>
    obtain ⟨i, y⟩ := e
    simp only [tput]
    split
    · subst_vars; simp [tget, h]
    · split <;> simp_all [tget]

theorem tput_tput {α : Type} (t : Tab α) (k : Nat) (x y : α) : tput (tput t k x) k y = tput t k y := by
  induction t with
  | nil => simp [tput]
  | cons e r ih =>
    simp only [tput]
    split_ifs <;> simp_all [tput]

theorem tget_tmap {α : Type} (t : Tab α) (f : Nat → α → α) (k : Nat) (d : α) (hd : ∀ i, f i d = d) :
    tget (tmap t f) k d = f k (tget t k d) := by
  induction t with
  | nil => simp [tmap, tget, hd]
  | cons e r ih =>
    obtain ⟨j, y⟩ := e
    simp only [tmap, List.map_cons, tget] at ih ⊢
    split
    · subst_vars; rfl
    · exact ih

/-! ## Vectors -/

theorem vget_vset_same {α : Type} {n : Nat} (v : Vector α n) {i : Nat} (x d : α) (h : i < n) :
    vget (vset v i x) i d = x := by
  simp [vget, vset, h]

theorem vget_vset_ne {α : Type} {n : Nat} (v : Vector α n) {i j : Nat} (x d : α) (h : i ≠ j) :
    vget (vset v i x) j d = vget v j d := by
  simp [vget, vset, h]

/-! ## Memory -/

theorem rd_append (l r : List Host.Cell) (a : Nat) :
    rd (l ++ r) a = if ∃ c ∈ l, c.1 = a then rd l a else rd r a := by
  induction l with
  | nil => simp
  | cons c l ih =>
    simp only [List.cons_append, rd]
    split <;> simp_all

theorem rd_filter (m : List Host.Cell) (p : Nat → Bool) (a : Nat) :
    rd (m.filter fun c => p c.1) a = if p a then rd m a else 0 := by
  induction m with
  | nil => simp [rd]
  | cons c m ih =>
    simp only [List.filter_cons, rd]
    by_cases hp : p c.1 = true <;> by_cases hc : c.1 = a <;> simp_all [rd]

theorem rd_eq_zero (m : List Host.Cell) (a : Nat) (h : ∀ c ∈ m, c.1 ≠ a) : rd m a = 0 := by
  induction m with
  | nil => rfl
  | cons c m ih => simp_all [rd]

theorem mem_cellsOf {a v n : Nat} {c : Host.Cell} (h : c ∈ cellsOf a v n) :
    a ≤ c.1 ∧ c.1 < a + n ∧ c.2 ≠ 0 := by
  induction n generalizing a v with
  | zero => simp [cellsOf] at h
  | succ n ih =>
    simp only [cellsOf] at h
    split at h
    · obtain ⟨h1, h2, h3⟩ := ih h; exact ⟨by omega, by omega, h3⟩
    · rename_i hv
      rcases List.mem_cons.1 h with rfl | h
      · refine ⟨Nat.le_refl _, by omega, fun h0 => hv ?_⟩
        have := congrArg BitVec.toNat h0
        simpa using this
      · obtain ⟨h1, h2, h3⟩ := ih h; exact ⟨by omega, by omega, h3⟩

theorem rd_cellsOf (a v n x : Nat) :
    rd (cellsOf a v n) x = if a ≤ x ∧ x < a + n then BitVec.ofNat 8 (v >>> (8 * (x - a))) else 0 := by
  induction n generalizing a v with
  | zero => rw [cellsOf, rd, if_neg (by omega)]
  | succ n ih =>
    have shift (h : a + 1 ≤ x) : (v / 256) >>> (8 * (x - (a + 1))) = v >>> (8 * (x - a)) := by
      rw [show 8 * (x - a) = 8 + 8 * (x - (a + 1)) by omega, Nat.shiftRight_add, Nat.shiftRight_eq_div_pow v 8]
    simp only [cellsOf]
    split
    · rename_i hv
      rw [ih]
      by_cases hx : x = a
      · subst hx
        simp only [Nat.sub_self, Nat.mul_zero, Nat.shiftRight_zero]
        rw [if_neg (by omega), if_pos (by omega)]
        apply BitVec.eq_of_toNat_eq
        simp [hv]
      · by_cases h1 : a + 1 ≤ x
        · rw [shift h1]
          by_cases h2 : x < a + (n + 1)
          · rw [if_pos (by omega), if_pos (by omega)]
          · rw [if_neg (by omega), if_neg (by omega)]
        · rw [if_neg (by omega), if_neg (by omega)]
    · simp only [rd]
      split
      · subst_vars; simp
      · rw [ih]
        by_cases h1 : a + 1 ≤ x
        · rw [shift h1]
          by_cases h2 : x < a + (n + 1)
          · rw [if_pos (by omega), if_pos (by omega)]
          · rw [if_neg (by omega), if_neg (by omega)]
        · rw [if_neg (by omega), if_neg (by omega)]

/-- A byte after a write: of the value written inside its bytes, as before elsewhere. -/
theorem rd_wrN (m : List Host.Cell) (a n v x : Nat) :
    rd (wrN m a n v) x = if a ≤ x ∧ x < a + n then BitVec.ofNat 8 (v >>> (8 * (x - a))) else rd m x := by
  have low := rd_filter m (fun y => decide (y < a)) x
  have high := rd_filter m (fun y => decide (a + n ≤ y)) x
  simp only [wrN, List.append_assoc]
  rw [rd_append, rd_append, low, high]
  by_cases h1 : x < a
  · rw [if_neg (show ¬(a ≤ x ∧ x < a + n) by omega)]
    split
    · simp [h1]
    · rename_i hn
      rw [if_neg fun ⟨c, hc, e⟩ => by have := mem_cellsOf hc; omega, if_neg (by simp; omega)]
      exact (rd_eq_zero m x fun c hc e => hn ⟨c, by simp [hc, e, h1], e⟩).symm
  · rw [if_neg fun ⟨c, hc, e⟩ => by simp at hc; omega]
    split
    · rename_i hin
      obtain ⟨c, hc, e⟩ := hin
      have := mem_cellsOf hc
      rw [rd_cellsOf]
      rw [if_pos (by omega), if_pos (by omega)]
    · rename_i hn
      by_cases h2 : x < a + n
      · rw [if_pos (show a ≤ x ∧ x < a + n by omega), if_neg (by simp; omega)]
        have := rd_eq_zero (cellsOf a v n) x fun c hc e => hn ⟨c, hc, e⟩
        rw [rd_cellsOf, if_pos (by omega)] at this
        exact this.symm
      · rw [if_neg (show ¬(a ≤ x ∧ x < a + n) by omega)]
        simp [Nat.le_of_not_lt h2]

theorem rd_wrN_out (m : List Host.Cell) {a n v x : Nat} (h : x < a ∨ a + n ≤ x) : rd (wrN m a n v) x = rd m x := by
  rw [rd_wrN, if_neg (by omega)]

theorem wf_nil : Memory.wf [] := ⟨List.Pairwise.nil, fun _ h => nomatch h⟩

/-- Reset's memory lists nothing. -/
theorem wf_reset : Memory.wf State.reset.mem := wf_nil

theorem wf_filter {m : List Host.Cell} (h : Memory.wf m) (p : Host.Cell → Bool) : Memory.wf (m.filter p) :=
  ⟨h.1.filter p, fun c hc => h.2 c (List.mem_of_mem_filter hc)⟩

theorem sorted_cellsOf (a v n : Nat) : (cellsOf a v n).Pairwise fun x y => x.1 < y.1 := by
  induction n generalizing a v with
  | zero => exact List.Pairwise.nil
  | succ n ih =>
    simp only [cellsOf]
    split
    · exact ih _ _
    · refine List.Pairwise.cons (fun c hc => ?_) (ih _ _)
      have := mem_cellsOf hc
      show a < c.1
      omega

/-- A write keeps the canonical form. -/
theorem wf_wrN {m : List Host.Cell} (h : Memory.wf m) (a n v : Nat) : Memory.wf (wrN m a n v) := by
  refine ⟨?_, ?_⟩
  · rw [wrN, List.append_assoc, List.pairwise_append]
    refine ⟨h.1.filter _, ?_, ?_⟩
    · rw [List.pairwise_append]
      refine ⟨sorted_cellsOf a v n, h.1.filter _, fun x hx y hy => ?_⟩
      have := mem_cellsOf hx
      simp at hy
      omega
    · intro x hx y hy
      simp at hx
      rcases List.mem_append.1 hy with hy | hy
      · have := mem_cellsOf hy; omega
      · simp at hy; omega
  · intro c hc
    simp only [wrN, List.mem_append] at hc
    rcases hc with (hc | hc) | hc
    · exact h.2 c (List.mem_of_mem_filter hc)
    · exact (mem_cellsOf hc).2.2
    · exact h.2 c (List.mem_of_mem_filter hc)

theorem wf_wr {m : List Host.Cell} (h : Memory.wf m) (a : Nat) (b : Byte) : Memory.wf (wr m a b) := wf_wrN h a 1 b.toNat

/-! ## Lanes -/

theorem rowNat_lane (w : Nat) (l : List Nat) (i : Nat) :
    (l.foldr (fun x acc => (acc <<< w) + x % 2 ^ w) 0) >>> (w * i) % 2 ^ w = l.getD i 0 % 2 ^ w := by
  induction l generalizing i with
  | nil => simp
  | cons x l ih =>
    have hp : 0 < 2 ^ w := Nat.two_pow_pos w
    cases i with
    | zero => simp [Nat.shiftLeft_eq]
    | succ i =>
      have e : ((l.foldr (fun x acc => (acc <<< w) + x % 2 ^ w) 0) <<< w + x % 2 ^ w) >>> w =
          l.foldr (fun x acc => (acc <<< w) + x % 2 ^ w) 0 := by
        rw [Nat.shiftRight_eq_div_pow, Nat.shiftLeft_eq, Nat.mul_comm, Nat.mul_add_div hp,
          Nat.div_eq_of_lt (Nat.mod_lt x hp)]
        simp
      rw [List.foldr_cons, Nat.mul_succ, Nat.add_comm (w * i), Nat.shiftRight_add, e, ih]
      simp

/-- Lane `i` of a row made of lanes. -/
theorem laneN_rowOf {w i : Nat} (l : List Nat) (h : w * (i + 1) ≤ 2048) : laneN (rowOf w l) i w = l.getD i 0 % 2 ^ w := by
  have e : w * (i + 1) = w * i + w := Nat.mul_succ w i
  rw [laneN, rowOf, BitVec.toNat_ofNat, ← rowNat_lane w l i, Nat.shiftRight_eq_div_pow, Nat.shiftRight_eq_div_pow]
  generalize l.foldr (fun x acc => (acc <<< w) + x % 2 ^ w) 0 = N
  rw [show (2 : Nat) ^ 2048 = 2 ^ (w * i) * 2 ^ (2048 - w * i) by rw [← Nat.pow_add]; congr 1; omega,
    Nat.mod_mul_right_div_self, Nat.mod_mod_of_dvd]
  exact Nat.pow_dvd_pow 2 (by omega)

end Sys2Proof.Machine
end

