-- ==== Sys2Proof/Laws/State.lean ====
section
/-!
SUPPORT. Laws of the state: what each update of a unit leaves of each field, and what the units read after it.
-/
namespace Sys2Proof.Machine

/-! ## setCore -/

@[simp] theorem setCore_mem (s : State) (c : Nat) (x : Core) : (s.setCore c x).mem = s.mem := rfl
@[simp] theorem setCore_poison (s : State) (c : Nat) (x : Core) : (s.setCore c x).poison = s.poison := rfl
@[simp] theorem setCore_stack (s : State) (c : Nat) (x : Core) : (s.setCore c x).stack = s.stack := rfl
@[simp] theorem setCore_clusters (s : State) (c : Nat) (x : Core) : (s.setCore c x).clusters = s.clusters := rfl
@[simp] theorem setCore_dies (s : State) (c : Nat) (x : Core) : (s.setCore c x).dies = s.dies := rfl
@[simp] theorem setCore_tasks (s : State) (c : Nat) (x : Core) : (s.setCore c x).tasks = s.tasks := rfl
@[simp] theorem setCore_launches (s : State) (c : Nat) (x : Core) : (s.setCore c x).launches = s.launches := rfl
@[simp] theorem setCore_rings (s : State) (c : Nat) (x : Core) : (s.setCore c x).rings = s.rings := rfl
@[simp] theorem setCore_tlaunch (s : State) (c : Nat) (x : Core) : (s.setCore c x).tlaunch = s.tlaunch := rfl
@[simp] theorem setCore_nextRing (s : State) (c : Nat) (x : Core) : (s.setCore c x).nextRing = s.nextRing := rfl
@[simp] theorem setCore_regions (s : State) (c : Nat) (x : Core) : (s.setCore c x).regions = s.regions := rfl
@[simp] theorem setCore_acts (s : State) (c : Nat) (x : Core) : (s.setCore c x).acts = s.acts := rfl
@[simp] theorem setCore_abandons (s : State) (c : Nat) (x : Core) : (s.setCore c x).abandons = s.abandons := rfl
@[simp] theorem setCore_plans (s : State) (c : Nat) (x : Core) : (s.setCore c x).plans = s.plans := rfl
@[simp] theorem setCore_planOut (s : State) (c : Nat) (x : Core) : (s.setCore c x).planOut = s.planOut := rfl
@[simp] theorem setCore_msgs (s : State) (c : Nat) (x : Core) : (s.setCore c x).msgs = s.msgs := rfl
@[simp] theorem setCore_home (s : State) (c : Nat) (x : Core) : (s.setCore c x).home = s.home := rfl
@[simp] theorem setCore_homeq (s : State) (c : Nat) (x : Core) : (s.setCore c x).homeq = s.homeq := rfl
@[simp] theorem setCore_fired (s : State) (c : Nat) (x : Core) : (s.setCore c x).fired = s.fired := rfl
@[simp] theorem setCore_migs (s : State) (c : Nat) (x : Core) : (s.setCore c x).migs = s.migs := rfl
@[simp] theorem setCore_fatal (s : State) (c : Nat) (x : Core) : (s.setCore c x).fatal = s.fatal := rfl
@[simp] theorem setCore_gttbase (s : State) (c : Nat) (x : Core) : (s.setCore c x).gttbase = s.gttbase := rfl
@[simp] theorem setCore_asroot (s : State) (c : Nat) (x : Core) : (s.setCore c x).asroot = s.asroot := rfl
@[simp] theorem setCore_tbivc (s : State) (c : Nat) (x : Core) : (s.setCore c x).tbivc = s.tbivc := rfl
@[simp] theorem setCore_tbivcWord (s : State) (c : Nat) (x : Core) : (s.setCore c x).tbivcWord = s.tbivcWord := rfl
@[simp] theorem setCore_tbivcOvr (s : State) (c : Nat) (x : Core) : (s.setCore c x).tbivcOvr = s.tbivcOvr := rfl
@[simp] theorem setCore_boot (s : State) (c : Nat) (x : Core) : (s.setCore c x).boot = s.boot := rfl
@[simp] theorem setCore_aspasid (s : State) (c : Nat) (x : Core) : (s.setCore c x).aspasid = s.aspasid := rfl
@[simp] theorem setCore_peermap (s : State) (c : Nat) (x : Core) : (s.setCore c x).peermap = s.peermap := rfl
@[simp] theorem setCore_devid (s : State) (c : Nat) (x : Core) : (s.setCore c x).devid = s.devid := rfl
@[simp] theorem setCore_powercap (s : State) (c : Nat) (x : Core) : (s.setCore c x).powercap = s.powercap := rfl
@[simp] theorem setCore_pstate (s : State) (c : Nat) (x : Core) : (s.setCore c x).pstate = s.pstate := rfl
@[simp] theorem setCore_power (s : State) (c : Nat) (x : Core) : (s.setCore c x).power = s.power := rfl
@[simp] theorem setCore_apbase (s : State) (c : Nat) (x : Core) : (s.setCore c x).apbase = s.apbase := rfl
@[simp] theorem setCore_bar2 (s : State) (c : Nat) (x : Core) : (s.setCore c x).bar2 = s.bar2 := rfl
@[simp] theorem setCore_access (s : State) (c : Nat) (x : Core) : (s.setCore c x).access = s.access := rfl
@[simp] theorem setCore_msixFns (s : State) (c : Nat) (x : Core) : (s.setCore c x).msixFns = s.msixFns := rfl
@[simp] theorem setCore_msixSent (s : State) (c : Nat) (x : Core) : (s.setCore c x).msixSent = s.msixSent := rfl
@[simp] theorem setCore_ats (s : State) (c : Nat) (x : Core) : (s.setCore c x).ats = s.ats := rfl
@[simp] theorem setCore_pri (s : State) (c : Nat) (x : Core) : (s.setCore c x).pri = s.pri := rfl
@[simp] theorem setCore_denied (s : State) (c : Nat) (x : Core) : (s.setCore c x).denied = s.denied := rfl
@[simp] theorem setCore_hostPages (s : State) (c : Nat) (x : Core) : (s.setCore c x).hostPages = s.hostPages := rfl
@[simp] theorem setCore_ide (s : State) (c : Nat) (x : Core) : (s.setCore c x).ide = s.ide := rfl
@[simp] theorem setCore_ports (s : State) (c : Nat) (x : Core) : (s.setCore c x).ports = s.ports := rfl
@[simp] theorem setCore_meas (s : State) (c : Nat) (x : Core) : (s.setCore c x).meas = s.meas := rfl
@[simp] theorem setCore_agenda (s : State) (c : Nat) (x : Core) : (s.setCore c x).agenda = s.agenda := rfl
@[simp] theorem setCore_tick (s : State) (c : Nat) (x : Core) : (s.setCore c x).tick = s.tick := rfl
@[simp] theorem setCore_fresh (s : State) (c : Nat) (x : Core) : (s.setCore c x).fresh = s.fresh := rfl
@[simp] theorem setCore_cur (s : State) (c : Nat) (x : Core) : (s.setCore c x).cur = s.cur := rfl
@[simp] theorem setCore_ctx (s : State) (c : Nat) (x : Core) : (s.setCore c x).ctx = s.ctx := rfl
@[simp] theorem setCore_sig (s : State) (c : Nat) (x : Core) : (s.setCore c x).sig = s.sig := rfl
@[simp] theorem setCore_eff (s : State) (c : Nat) (x : Core) : (s.setCore c x).eff = s.eff := rfl
@[simp] theorem setCore_reply (s : State) (c : Nat) (x : Core) : (s.setCore c x).reply = s.reply := rfl

/-! ## modCore -/

@[simp] theorem modCore_mem (s : State) (c : Nat) (f : Core → Core) : (s.modCore c f).mem = s.mem := rfl
@[simp] theorem modCore_poison (s : State) (c : Nat) (f : Core → Core) : (s.modCore c f).poison = s.poison := rfl
@[simp] theorem modCore_stack (s : State) (c : Nat) (f : Core → Core) : (s.modCore c f).stack = s.stack := rfl
@[simp] theorem modCore_clusters (s : State) (c : Nat) (f : Core → Core) : (s.modCore c f).clusters = s.clusters := rfl
@[simp] theorem modCore_dies (s : State) (c : Nat) (f : Core → Core) : (s.modCore c f).dies = s.dies := rfl
@[simp] theorem modCore_tasks (s : State) (c : Nat) (f : Core → Core) : (s.modCore c f).tasks = s.tasks := rfl
@[simp] theorem modCore_launches (s : State) (c : Nat) (f : Core → Core) : (s.modCore c f).launches = s.launches := rfl
@[simp] theorem modCore_rings (s : State) (c : Nat) (f : Core → Core) : (s.modCore c f).rings = s.rings := rfl
@[simp] theorem modCore_tlaunch (s : State) (c : Nat) (f : Core → Core) : (s.modCore c f).tlaunch = s.tlaunch := rfl
@[simp] theorem modCore_nextRing (s : State) (c : Nat) (f : Core → Core) : (s.modCore c f).nextRing = s.nextRing := rfl
@[simp] theorem modCore_regions (s : State) (c : Nat) (f : Core → Core) : (s.modCore c f).regions = s.regions := rfl
@[simp] theorem modCore_acts (s : State) (c : Nat) (f : Core → Core) : (s.modCore c f).acts = s.acts := rfl
@[simp] theorem modCore_abandons (s : State) (c : Nat) (f : Core → Core) : (s.modCore c f).abandons = s.abandons := rfl
@[simp] theorem modCore_plans (s : State) (c : Nat) (f : Core → Core) : (s.modCore c f).plans = s.plans := rfl
@[simp] theorem modCore_planOut (s : State) (c : Nat) (f : Core → Core) : (s.modCore c f).planOut = s.planOut := rfl
@[simp] theorem modCore_msgs (s : State) (c : Nat) (f : Core → Core) : (s.modCore c f).msgs = s.msgs := rfl
@[simp] theorem modCore_home (s : State) (c : Nat) (f : Core → Core) : (s.modCore c f).home = s.home := rfl
@[simp] theorem modCore_homeq (s : State) (c : Nat) (f : Core → Core) : (s.modCore c f).homeq = s.homeq := rfl
@[simp] theorem modCore_fired (s : State) (c : Nat) (f : Core → Core) : (s.modCore c f).fired = s.fired := rfl
@[simp] theorem modCore_migs (s : State) (c : Nat) (f : Core → Core) : (s.modCore c f).migs = s.migs := rfl
@[simp] theorem modCore_fatal (s : State) (c : Nat) (f : Core → Core) : (s.modCore c f).fatal = s.fatal := rfl
@[simp] theorem modCore_gttbase (s : State) (c : Nat) (f : Core → Core) : (s.modCore c f).gttbase = s.gttbase := rfl
@[simp] theorem modCore_asroot (s : State) (c : Nat) (f : Core → Core) : (s.modCore c f).asroot = s.asroot := rfl
@[simp] theorem modCore_tbivc (s : State) (c : Nat) (f : Core → Core) : (s.modCore c f).tbivc = s.tbivc := rfl
@[simp] theorem modCore_tbivcWord (s : State) (c : Nat) (f : Core → Core) : (s.modCore c f).tbivcWord = s.tbivcWord := rfl
@[simp] theorem modCore_tbivcOvr (s : State) (c : Nat) (f : Core → Core) : (s.modCore c f).tbivcOvr = s.tbivcOvr := rfl
@[simp] theorem modCore_boot (s : State) (c : Nat) (f : Core → Core) : (s.modCore c f).boot = s.boot := rfl
@[simp] theorem modCore_aspasid (s : State) (c : Nat) (f : Core → Core) : (s.modCore c f).aspasid = s.aspasid := rfl
@[simp] theorem modCore_peermap (s : State) (c : Nat) (f : Core → Core) : (s.modCore c f).peermap = s.peermap := rfl
@[simp] theorem modCore_devid (s : State) (c : Nat) (f : Core → Core) : (s.modCore c f).devid = s.devid := rfl
@[simp] theorem modCore_powercap (s : State) (c : Nat) (f : Core → Core) : (s.modCore c f).powercap = s.powercap := rfl
@[simp] theorem modCore_pstate (s : State) (c : Nat) (f : Core → Core) : (s.modCore c f).pstate = s.pstate := rfl
@[simp] theorem modCore_power (s : State) (c : Nat) (f : Core → Core) : (s.modCore c f).power = s.power := rfl
@[simp] theorem modCore_apbase (s : State) (c : Nat) (f : Core → Core) : (s.modCore c f).apbase = s.apbase := rfl
@[simp] theorem modCore_bar2 (s : State) (c : Nat) (f : Core → Core) : (s.modCore c f).bar2 = s.bar2 := rfl
@[simp] theorem modCore_access (s : State) (c : Nat) (f : Core → Core) : (s.modCore c f).access = s.access := rfl
@[simp] theorem modCore_msixFns (s : State) (c : Nat) (f : Core → Core) : (s.modCore c f).msixFns = s.msixFns := rfl
@[simp] theorem modCore_msixSent (s : State) (c : Nat) (f : Core → Core) : (s.modCore c f).msixSent = s.msixSent := rfl
@[simp] theorem modCore_ats (s : State) (c : Nat) (f : Core → Core) : (s.modCore c f).ats = s.ats := rfl
@[simp] theorem modCore_pri (s : State) (c : Nat) (f : Core → Core) : (s.modCore c f).pri = s.pri := rfl
@[simp] theorem modCore_denied (s : State) (c : Nat) (f : Core → Core) : (s.modCore c f).denied = s.denied := rfl
@[simp] theorem modCore_hostPages (s : State) (c : Nat) (f : Core → Core) : (s.modCore c f).hostPages = s.hostPages := rfl
@[simp] theorem modCore_ide (s : State) (c : Nat) (f : Core → Core) : (s.modCore c f).ide = s.ide := rfl
@[simp] theorem modCore_ports (s : State) (c : Nat) (f : Core → Core) : (s.modCore c f).ports = s.ports := rfl
@[simp] theorem modCore_meas (s : State) (c : Nat) (f : Core → Core) : (s.modCore c f).meas = s.meas := rfl
@[simp] theorem modCore_agenda (s : State) (c : Nat) (f : Core → Core) : (s.modCore c f).agenda = s.agenda := rfl
@[simp] theorem modCore_tick (s : State) (c : Nat) (f : Core → Core) : (s.modCore c f).tick = s.tick := rfl
@[simp] theorem modCore_fresh (s : State) (c : Nat) (f : Core → Core) : (s.modCore c f).fresh = s.fresh := rfl
@[simp] theorem modCore_cur (s : State) (c : Nat) (f : Core → Core) : (s.modCore c f).cur = s.cur := rfl
@[simp] theorem modCore_ctx (s : State) (c : Nat) (f : Core → Core) : (s.modCore c f).ctx = s.ctx := rfl
@[simp] theorem modCore_sig (s : State) (c : Nat) (f : Core → Core) : (s.modCore c f).sig = s.sig := rfl
@[simp] theorem modCore_eff (s : State) (c : Nat) (f : Core → Core) : (s.modCore c f).eff = s.eff := rfl
@[simp] theorem modCore_reply (s : State) (c : Nat) (f : Core → Core) : (s.modCore c f).reply = s.reply := rfl

/-! ## setDie -/

@[simp] theorem setDie_mem (s : State) (d : Nat) (x : Die) : (s.setDie d x).mem = s.mem := rfl
@[simp] theorem setDie_poison (s : State) (d : Nat) (x : Die) : (s.setDie d x).poison = s.poison := rfl
@[simp] theorem setDie_stack (s : State) (d : Nat) (x : Die) : (s.setDie d x).stack = s.stack := rfl
@[simp] theorem setDie_cores (s : State) (d : Nat) (x : Die) : (s.setDie d x).cores = s.cores := rfl
@[simp] theorem setDie_clusters (s : State) (d : Nat) (x : Die) : (s.setDie d x).clusters = s.clusters := rfl
@[simp] theorem setDie_tasks (s : State) (d : Nat) (x : Die) : (s.setDie d x).tasks = s.tasks := rfl
@[simp] theorem setDie_launches (s : State) (d : Nat) (x : Die) : (s.setDie d x).launches = s.launches := rfl
@[simp] theorem setDie_rings (s : State) (d : Nat) (x : Die) : (s.setDie d x).rings = s.rings := rfl
@[simp] theorem setDie_tlaunch (s : State) (d : Nat) (x : Die) : (s.setDie d x).tlaunch = s.tlaunch := rfl
@[simp] theorem setDie_nextRing (s : State) (d : Nat) (x : Die) : (s.setDie d x).nextRing = s.nextRing := rfl
@[simp] theorem setDie_regions (s : State) (d : Nat) (x : Die) : (s.setDie d x).regions = s.regions := rfl
@[simp] theorem setDie_acts (s : State) (d : Nat) (x : Die) : (s.setDie d x).acts = s.acts := rfl
@[simp] theorem setDie_abandons (s : State) (d : Nat) (x : Die) : (s.setDie d x).abandons = s.abandons := rfl
@[simp] theorem setDie_plans (s : State) (d : Nat) (x : Die) : (s.setDie d x).plans = s.plans := rfl
@[simp] theorem setDie_planOut (s : State) (d : Nat) (x : Die) : (s.setDie d x).planOut = s.planOut := rfl
@[simp] theorem setDie_msgs (s : State) (d : Nat) (x : Die) : (s.setDie d x).msgs = s.msgs := rfl
@[simp] theorem setDie_home (s : State) (d : Nat) (x : Die) : (s.setDie d x).home = s.home := rfl
@[simp] theorem setDie_homeq (s : State) (d : Nat) (x : Die) : (s.setDie d x).homeq = s.homeq := rfl
@[simp] theorem setDie_fired (s : State) (d : Nat) (x : Die) : (s.setDie d x).fired = s.fired := rfl
@[simp] theorem setDie_migs (s : State) (d : Nat) (x : Die) : (s.setDie d x).migs = s.migs := rfl
@[simp] theorem setDie_fatal (s : State) (d : Nat) (x : Die) : (s.setDie d x).fatal = s.fatal := rfl
@[simp] theorem setDie_gttbase (s : State) (d : Nat) (x : Die) : (s.setDie d x).gttbase = s.gttbase := rfl
@[simp] theorem setDie_asroot (s : State) (d : Nat) (x : Die) : (s.setDie d x).asroot = s.asroot := rfl
@[simp] theorem setDie_tbivc (s : State) (d : Nat) (x : Die) : (s.setDie d x).tbivc = s.tbivc := rfl
@[simp] theorem setDie_tbivcWord (s : State) (d : Nat) (x : Die) : (s.setDie d x).tbivcWord = s.tbivcWord := rfl
@[simp] theorem setDie_tbivcOvr (s : State) (d : Nat) (x : Die) : (s.setDie d x).tbivcOvr = s.tbivcOvr := rfl
@[simp] theorem setDie_boot (s : State) (d : Nat) (x : Die) : (s.setDie d x).boot = s.boot := rfl
@[simp] theorem setDie_aspasid (s : State) (d : Nat) (x : Die) : (s.setDie d x).aspasid = s.aspasid := rfl
@[simp] theorem setDie_peermap (s : State) (d : Nat) (x : Die) : (s.setDie d x).peermap = s.peermap := rfl
@[simp] theorem setDie_devid (s : State) (d : Nat) (x : Die) : (s.setDie d x).devid = s.devid := rfl
@[simp] theorem setDie_powercap (s : State) (d : Nat) (x : Die) : (s.setDie d x).powercap = s.powercap := rfl
@[simp] theorem setDie_pstate (s : State) (d : Nat) (x : Die) : (s.setDie d x).pstate = s.pstate := rfl
@[simp] theorem setDie_power (s : State) (d : Nat) (x : Die) : (s.setDie d x).power = s.power := rfl
@[simp] theorem setDie_apbase (s : State) (d : Nat) (x : Die) : (s.setDie d x).apbase = s.apbase := rfl
@[simp] theorem setDie_bar2 (s : State) (d : Nat) (x : Die) : (s.setDie d x).bar2 = s.bar2 := rfl
@[simp] theorem setDie_access (s : State) (d : Nat) (x : Die) : (s.setDie d x).access = s.access := rfl
@[simp] theorem setDie_msixFns (s : State) (d : Nat) (x : Die) : (s.setDie d x).msixFns = s.msixFns := rfl
@[simp] theorem setDie_msixSent (s : State) (d : Nat) (x : Die) : (s.setDie d x).msixSent = s.msixSent := rfl
@[simp] theorem setDie_ats (s : State) (d : Nat) (x : Die) : (s.setDie d x).ats = s.ats := rfl
@[simp] theorem setDie_pri (s : State) (d : Nat) (x : Die) : (s.setDie d x).pri = s.pri := rfl
@[simp] theorem setDie_denied (s : State) (d : Nat) (x : Die) : (s.setDie d x).denied = s.denied := rfl
@[simp] theorem setDie_hostPages (s : State) (d : Nat) (x : Die) : (s.setDie d x).hostPages = s.hostPages := rfl
@[simp] theorem setDie_ide (s : State) (d : Nat) (x : Die) : (s.setDie d x).ide = s.ide := rfl
@[simp] theorem setDie_ports (s : State) (d : Nat) (x : Die) : (s.setDie d x).ports = s.ports := rfl
@[simp] theorem setDie_meas (s : State) (d : Nat) (x : Die) : (s.setDie d x).meas = s.meas := rfl
@[simp] theorem setDie_agenda (s : State) (d : Nat) (x : Die) : (s.setDie d x).agenda = s.agenda := rfl
@[simp] theorem setDie_tick (s : State) (d : Nat) (x : Die) : (s.setDie d x).tick = s.tick := rfl
@[simp] theorem setDie_fresh (s : State) (d : Nat) (x : Die) : (s.setDie d x).fresh = s.fresh := rfl
@[simp] theorem setDie_cur (s : State) (d : Nat) (x : Die) : (s.setDie d x).cur = s.cur := rfl
@[simp] theorem setDie_ctx (s : State) (d : Nat) (x : Die) : (s.setDie d x).ctx = s.ctx := rfl
@[simp] theorem setDie_sig (s : State) (d : Nat) (x : Die) : (s.setDie d x).sig = s.sig := rfl
@[simp] theorem setDie_eff (s : State) (d : Nat) (x : Die) : (s.setDie d x).eff = s.eff := rfl
@[simp] theorem setDie_reply (s : State) (d : Nat) (x : Die) : (s.setDie d x).reply = s.reply := rfl

/-! ## modDie -/

@[simp] theorem modDie_mem (s : State) (d : Nat) (f : Die → Die) : (s.modDie d f).mem = s.mem := rfl
@[simp] theorem modDie_poison (s : State) (d : Nat) (f : Die → Die) : (s.modDie d f).poison = s.poison := rfl
@[simp] theorem modDie_stack (s : State) (d : Nat) (f : Die → Die) : (s.modDie d f).stack = s.stack := rfl
@[simp] theorem modDie_cores (s : State) (d : Nat) (f : Die → Die) : (s.modDie d f).cores = s.cores := rfl
@[simp] theorem modDie_clusters (s : State) (d : Nat) (f : Die → Die) : (s.modDie d f).clusters = s.clusters := rfl
@[simp] theorem modDie_tasks (s : State) (d : Nat) (f : Die → Die) : (s.modDie d f).tasks = s.tasks := rfl
@[simp] theorem modDie_launches (s : State) (d : Nat) (f : Die → Die) : (s.modDie d f).launches = s.launches := rfl
@[simp] theorem modDie_rings (s : State) (d : Nat) (f : Die → Die) : (s.modDie d f).rings = s.rings := rfl
@[simp] theorem modDie_tlaunch (s : State) (d : Nat) (f : Die → Die) : (s.modDie d f).tlaunch = s.tlaunch := rfl
@[simp] theorem modDie_nextRing (s : State) (d : Nat) (f : Die → Die) : (s.modDie d f).nextRing = s.nextRing := rfl
@[simp] theorem modDie_regions (s : State) (d : Nat) (f : Die → Die) : (s.modDie d f).regions = s.regions := rfl
@[simp] theorem modDie_acts (s : State) (d : Nat) (f : Die → Die) : (s.modDie d f).acts = s.acts := rfl
@[simp] theorem modDie_abandons (s : State) (d : Nat) (f : Die → Die) : (s.modDie d f).abandons = s.abandons := rfl
@[simp] theorem modDie_plans (s : State) (d : Nat) (f : Die → Die) : (s.modDie d f).plans = s.plans := rfl
@[simp] theorem modDie_planOut (s : State) (d : Nat) (f : Die → Die) : (s.modDie d f).planOut = s.planOut := rfl
@[simp] theorem modDie_msgs (s : State) (d : Nat) (f : Die → Die) : (s.modDie d f).msgs = s.msgs := rfl
@[simp] theorem modDie_home (s : State) (d : Nat) (f : Die → Die) : (s.modDie d f).home = s.home := rfl
@[simp] theorem modDie_homeq (s : State) (d : Nat) (f : Die → Die) : (s.modDie d f).homeq = s.homeq := rfl
@[simp] theorem modDie_fired (s : State) (d : Nat) (f : Die → Die) : (s.modDie d f).fired = s.fired := rfl
@[simp] theorem modDie_migs (s : State) (d : Nat) (f : Die → Die) : (s.modDie d f).migs = s.migs := rfl
@[simp] theorem modDie_fatal (s : State) (d : Nat) (f : Die → Die) : (s.modDie d f).fatal = s.fatal := rfl
@[simp] theorem modDie_gttbase (s : State) (d : Nat) (f : Die → Die) : (s.modDie d f).gttbase = s.gttbase := rfl
@[simp] theorem modDie_asroot (s : State) (d : Nat) (f : Die → Die) : (s.modDie d f).asroot = s.asroot := rfl
@[simp] theorem modDie_tbivc (s : State) (d : Nat) (f : Die → Die) : (s.modDie d f).tbivc = s.tbivc := rfl
@[simp] theorem modDie_tbivcWord (s : State) (d : Nat) (f : Die → Die) : (s.modDie d f).tbivcWord = s.tbivcWord := rfl
@[simp] theorem modDie_tbivcOvr (s : State) (d : Nat) (f : Die → Die) : (s.modDie d f).tbivcOvr = s.tbivcOvr := rfl
@[simp] theorem modDie_boot (s : State) (d : Nat) (f : Die → Die) : (s.modDie d f).boot = s.boot := rfl
@[simp] theorem modDie_aspasid (s : State) (d : Nat) (f : Die → Die) : (s.modDie d f).aspasid = s.aspasid := rfl
@[simp] theorem modDie_peermap (s : State) (d : Nat) (f : Die → Die) : (s.modDie d f).peermap = s.peermap := rfl
@[simp] theorem modDie_devid (s : State) (d : Nat) (f : Die → Die) : (s.modDie d f).devid = s.devid := rfl
@[simp] theorem modDie_powercap (s : State) (d : Nat) (f : Die → Die) : (s.modDie d f).powercap = s.powercap := rfl
@[simp] theorem modDie_pstate (s : State) (d : Nat) (f : Die → Die) : (s.modDie d f).pstate = s.pstate := rfl
@[simp] theorem modDie_power (s : State) (d : Nat) (f : Die → Die) : (s.modDie d f).power = s.power := rfl
@[simp] theorem modDie_apbase (s : State) (d : Nat) (f : Die → Die) : (s.modDie d f).apbase = s.apbase := rfl
@[simp] theorem modDie_bar2 (s : State) (d : Nat) (f : Die → Die) : (s.modDie d f).bar2 = s.bar2 := rfl
@[simp] theorem modDie_access (s : State) (d : Nat) (f : Die → Die) : (s.modDie d f).access = s.access := rfl
@[simp] theorem modDie_msixFns (s : State) (d : Nat) (f : Die → Die) : (s.modDie d f).msixFns = s.msixFns := rfl
@[simp] theorem modDie_msixSent (s : State) (d : Nat) (f : Die → Die) : (s.modDie d f).msixSent = s.msixSent := rfl
@[simp] theorem modDie_ats (s : State) (d : Nat) (f : Die → Die) : (s.modDie d f).ats = s.ats := rfl
@[simp] theorem modDie_pri (s : State) (d : Nat) (f : Die → Die) : (s.modDie d f).pri = s.pri := rfl
@[simp] theorem modDie_denied (s : State) (d : Nat) (f : Die → Die) : (s.modDie d f).denied = s.denied := rfl
@[simp] theorem modDie_hostPages (s : State) (d : Nat) (f : Die → Die) : (s.modDie d f).hostPages = s.hostPages := rfl
@[simp] theorem modDie_ide (s : State) (d : Nat) (f : Die → Die) : (s.modDie d f).ide = s.ide := rfl
@[simp] theorem modDie_ports (s : State) (d : Nat) (f : Die → Die) : (s.modDie d f).ports = s.ports := rfl
@[simp] theorem modDie_meas (s : State) (d : Nat) (f : Die → Die) : (s.modDie d f).meas = s.meas := rfl
@[simp] theorem modDie_agenda (s : State) (d : Nat) (f : Die → Die) : (s.modDie d f).agenda = s.agenda := rfl
@[simp] theorem modDie_tick (s : State) (d : Nat) (f : Die → Die) : (s.modDie d f).tick = s.tick := rfl
@[simp] theorem modDie_fresh (s : State) (d : Nat) (f : Die → Die) : (s.modDie d f).fresh = s.fresh := rfl
@[simp] theorem modDie_cur (s : State) (d : Nat) (f : Die → Die) : (s.modDie d f).cur = s.cur := rfl
@[simp] theorem modDie_ctx (s : State) (d : Nat) (f : Die → Die) : (s.modDie d f).ctx = s.ctx := rfl
@[simp] theorem modDie_sig (s : State) (d : Nat) (f : Die → Die) : (s.modDie d f).sig = s.sig := rfl
@[simp] theorem modDie_eff (s : State) (d : Nat) (f : Die → Die) : (s.modDie d f).eff = s.eff := rfl
@[simp] theorem modDie_reply (s : State) (d : Nat) (f : Die → Die) : (s.modDie d f).reply = s.reply := rfl

/-! ## setCluster -/

@[simp] theorem setCluster_mem (s : State) (c : Nat) (x : Cluster) : (s.setCluster c x).mem = s.mem := rfl
@[simp] theorem setCluster_poison (s : State) (c : Nat) (x : Cluster) : (s.setCluster c x).poison = s.poison := rfl
@[simp] theorem setCluster_stack (s : State) (c : Nat) (x : Cluster) : (s.setCluster c x).stack = s.stack := rfl
@[simp] theorem setCluster_cores (s : State) (c : Nat) (x : Cluster) : (s.setCluster c x).cores = s.cores := rfl
@[simp] theorem setCluster_dies (s : State) (c : Nat) (x : Cluster) : (s.setCluster c x).dies = s.dies := rfl
@[simp] theorem setCluster_tasks (s : State) (c : Nat) (x : Cluster) : (s.setCluster c x).tasks = s.tasks := rfl
@[simp] theorem setCluster_launches (s : State) (c : Nat) (x : Cluster) : (s.setCluster c x).launches = s.launches := rfl
@[simp] theorem setCluster_rings (s : State) (c : Nat) (x : Cluster) : (s.setCluster c x).rings = s.rings := rfl
@[simp] theorem setCluster_tlaunch (s : State) (c : Nat) (x : Cluster) : (s.setCluster c x).tlaunch = s.tlaunch := rfl
@[simp] theorem setCluster_nextRing (s : State) (c : Nat) (x : Cluster) : (s.setCluster c x).nextRing = s.nextRing := rfl
@[simp] theorem setCluster_regions (s : State) (c : Nat) (x : Cluster) : (s.setCluster c x).regions = s.regions := rfl
@[simp] theorem setCluster_acts (s : State) (c : Nat) (x : Cluster) : (s.setCluster c x).acts = s.acts := rfl
@[simp] theorem setCluster_abandons (s : State) (c : Nat) (x : Cluster) : (s.setCluster c x).abandons = s.abandons := rfl
@[simp] theorem setCluster_plans (s : State) (c : Nat) (x : Cluster) : (s.setCluster c x).plans = s.plans := rfl
@[simp] theorem setCluster_planOut (s : State) (c : Nat) (x : Cluster) : (s.setCluster c x).planOut = s.planOut := rfl
@[simp] theorem setCluster_msgs (s : State) (c : Nat) (x : Cluster) : (s.setCluster c x).msgs = s.msgs := rfl
@[simp] theorem setCluster_home (s : State) (c : Nat) (x : Cluster) : (s.setCluster c x).home = s.home := rfl
@[simp] theorem setCluster_homeq (s : State) (c : Nat) (x : Cluster) : (s.setCluster c x).homeq = s.homeq := rfl
@[simp] theorem setCluster_fired (s : State) (c : Nat) (x : Cluster) : (s.setCluster c x).fired = s.fired := rfl
@[simp] theorem setCluster_migs (s : State) (c : Nat) (x : Cluster) : (s.setCluster c x).migs = s.migs := rfl
@[simp] theorem setCluster_fatal (s : State) (c : Nat) (x : Cluster) : (s.setCluster c x).fatal = s.fatal := rfl
@[simp] theorem setCluster_gttbase (s : State) (c : Nat) (x : Cluster) : (s.setCluster c x).gttbase = s.gttbase := rfl
@[simp] theorem setCluster_asroot (s : State) (c : Nat) (x : Cluster) : (s.setCluster c x).asroot = s.asroot := rfl
@[simp] theorem setCluster_tbivc (s : State) (c : Nat) (x : Cluster) : (s.setCluster c x).tbivc = s.tbivc := rfl
@[simp] theorem setCluster_tbivcWord (s : State) (c : Nat) (x : Cluster) : (s.setCluster c x).tbivcWord = s.tbivcWord := rfl
@[simp] theorem setCluster_tbivcOvr (s : State) (c : Nat) (x : Cluster) : (s.setCluster c x).tbivcOvr = s.tbivcOvr := rfl
@[simp] theorem setCluster_boot (s : State) (c : Nat) (x : Cluster) : (s.setCluster c x).boot = s.boot := rfl
@[simp] theorem setCluster_aspasid (s : State) (c : Nat) (x : Cluster) : (s.setCluster c x).aspasid = s.aspasid := rfl
@[simp] theorem setCluster_peermap (s : State) (c : Nat) (x : Cluster) : (s.setCluster c x).peermap = s.peermap := rfl
@[simp] theorem setCluster_devid (s : State) (c : Nat) (x : Cluster) : (s.setCluster c x).devid = s.devid := rfl
@[simp] theorem setCluster_powercap (s : State) (c : Nat) (x : Cluster) : (s.setCluster c x).powercap = s.powercap := rfl
@[simp] theorem setCluster_pstate (s : State) (c : Nat) (x : Cluster) : (s.setCluster c x).pstate = s.pstate := rfl
@[simp] theorem setCluster_power (s : State) (c : Nat) (x : Cluster) : (s.setCluster c x).power = s.power := rfl
@[simp] theorem setCluster_apbase (s : State) (c : Nat) (x : Cluster) : (s.setCluster c x).apbase = s.apbase := rfl
@[simp] theorem setCluster_bar2 (s : State) (c : Nat) (x : Cluster) : (s.setCluster c x).bar2 = s.bar2 := rfl
@[simp] theorem setCluster_access (s : State) (c : Nat) (x : Cluster) : (s.setCluster c x).access = s.access := rfl
@[simp] theorem setCluster_msixFns (s : State) (c : Nat) (x : Cluster) : (s.setCluster c x).msixFns = s.msixFns := rfl
@[simp] theorem setCluster_msixSent (s : State) (c : Nat) (x : Cluster) : (s.setCluster c x).msixSent = s.msixSent := rfl
@[simp] theorem setCluster_ats (s : State) (c : Nat) (x : Cluster) : (s.setCluster c x).ats = s.ats := rfl
@[simp] theorem setCluster_pri (s : State) (c : Nat) (x : Cluster) : (s.setCluster c x).pri = s.pri := rfl
@[simp] theorem setCluster_denied (s : State) (c : Nat) (x : Cluster) : (s.setCluster c x).denied = s.denied := rfl
@[simp] theorem setCluster_hostPages (s : State) (c : Nat) (x : Cluster) : (s.setCluster c x).hostPages = s.hostPages := rfl
@[simp] theorem setCluster_ide (s : State) (c : Nat) (x : Cluster) : (s.setCluster c x).ide = s.ide := rfl
@[simp] theorem setCluster_ports (s : State) (c : Nat) (x : Cluster) : (s.setCluster c x).ports = s.ports := rfl
@[simp] theorem setCluster_meas (s : State) (c : Nat) (x : Cluster) : (s.setCluster c x).meas = s.meas := rfl
@[simp] theorem setCluster_agenda (s : State) (c : Nat) (x : Cluster) : (s.setCluster c x).agenda = s.agenda := rfl
@[simp] theorem setCluster_tick (s : State) (c : Nat) (x : Cluster) : (s.setCluster c x).tick = s.tick := rfl
@[simp] theorem setCluster_fresh (s : State) (c : Nat) (x : Cluster) : (s.setCluster c x).fresh = s.fresh := rfl
@[simp] theorem setCluster_cur (s : State) (c : Nat) (x : Cluster) : (s.setCluster c x).cur = s.cur := rfl
@[simp] theorem setCluster_ctx (s : State) (c : Nat) (x : Cluster) : (s.setCluster c x).ctx = s.ctx := rfl
@[simp] theorem setCluster_sig (s : State) (c : Nat) (x : Cluster) : (s.setCluster c x).sig = s.sig := rfl
@[simp] theorem setCluster_eff (s : State) (c : Nat) (x : Cluster) : (s.setCluster c x).eff = s.eff := rfl
@[simp] theorem setCluster_reply (s : State) (c : Nat) (x : Cluster) : (s.setCluster c x).reply = s.reply := rfl

/-! ## modCluster -/

@[simp] theorem modCluster_mem (s : State) (c : Nat) (f : Cluster → Cluster) : (s.modCluster c f).mem = s.mem := rfl
@[simp] theorem modCluster_poison (s : State) (c : Nat) (f : Cluster → Cluster) : (s.modCluster c f).poison = s.poison := rfl
@[simp] theorem modCluster_stack (s : State) (c : Nat) (f : Cluster → Cluster) : (s.modCluster c f).stack = s.stack := rfl
@[simp] theorem modCluster_cores (s : State) (c : Nat) (f : Cluster → Cluster) : (s.modCluster c f).cores = s.cores := rfl
@[simp] theorem modCluster_dies (s : State) (c : Nat) (f : Cluster → Cluster) : (s.modCluster c f).dies = s.dies := rfl
@[simp] theorem modCluster_tasks (s : State) (c : Nat) (f : Cluster → Cluster) : (s.modCluster c f).tasks = s.tasks := rfl
@[simp] theorem modCluster_launches (s : State) (c : Nat) (f : Cluster → Cluster) : (s.modCluster c f).launches = s.launches := rfl
@[simp] theorem modCluster_rings (s : State) (c : Nat) (f : Cluster → Cluster) : (s.modCluster c f).rings = s.rings := rfl
@[simp] theorem modCluster_tlaunch (s : State) (c : Nat) (f : Cluster → Cluster) : (s.modCluster c f).tlaunch = s.tlaunch := rfl
@[simp] theorem modCluster_nextRing (s : State) (c : Nat) (f : Cluster → Cluster) : (s.modCluster c f).nextRing = s.nextRing := rfl
@[simp] theorem modCluster_regions (s : State) (c : Nat) (f : Cluster → Cluster) : (s.modCluster c f).regions = s.regions := rfl
@[simp] theorem modCluster_acts (s : State) (c : Nat) (f : Cluster → Cluster) : (s.modCluster c f).acts = s.acts := rfl
@[simp] theorem modCluster_abandons (s : State) (c : Nat) (f : Cluster → Cluster) : (s.modCluster c f).abandons = s.abandons := rfl
@[simp] theorem modCluster_plans (s : State) (c : Nat) (f : Cluster → Cluster) : (s.modCluster c f).plans = s.plans := rfl
@[simp] theorem modCluster_planOut (s : State) (c : Nat) (f : Cluster → Cluster) : (s.modCluster c f).planOut = s.planOut := rfl
@[simp] theorem modCluster_msgs (s : State) (c : Nat) (f : Cluster → Cluster) : (s.modCluster c f).msgs = s.msgs := rfl
@[simp] theorem modCluster_home (s : State) (c : Nat) (f : Cluster → Cluster) : (s.modCluster c f).home = s.home := rfl
@[simp] theorem modCluster_homeq (s : State) (c : Nat) (f : Cluster → Cluster) : (s.modCluster c f).homeq = s.homeq := rfl
@[simp] theorem modCluster_fired (s : State) (c : Nat) (f : Cluster → Cluster) : (s.modCluster c f).fired = s.fired := rfl
@[simp] theorem modCluster_migs (s : State) (c : Nat) (f : Cluster → Cluster) : (s.modCluster c f).migs = s.migs := rfl
@[simp] theorem modCluster_fatal (s : State) (c : Nat) (f : Cluster → Cluster) : (s.modCluster c f).fatal = s.fatal := rfl
@[simp] theorem modCluster_gttbase (s : State) (c : Nat) (f : Cluster → Cluster) : (s.modCluster c f).gttbase = s.gttbase := rfl
@[simp] theorem modCluster_asroot (s : State) (c : Nat) (f : Cluster → Cluster) : (s.modCluster c f).asroot = s.asroot := rfl
@[simp] theorem modCluster_tbivc (s : State) (c : Nat) (f : Cluster → Cluster) : (s.modCluster c f).tbivc = s.tbivc := rfl
@[simp] theorem modCluster_tbivcWord (s : State) (c : Nat) (f : Cluster → Cluster) : (s.modCluster c f).tbivcWord = s.tbivcWord := rfl
@[simp] theorem modCluster_tbivcOvr (s : State) (c : Nat) (f : Cluster → Cluster) : (s.modCluster c f).tbivcOvr = s.tbivcOvr := rfl
@[simp] theorem modCluster_boot (s : State) (c : Nat) (f : Cluster → Cluster) : (s.modCluster c f).boot = s.boot := rfl
@[simp] theorem modCluster_aspasid (s : State) (c : Nat) (f : Cluster → Cluster) : (s.modCluster c f).aspasid = s.aspasid := rfl
@[simp] theorem modCluster_peermap (s : State) (c : Nat) (f : Cluster → Cluster) : (s.modCluster c f).peermap = s.peermap := rfl
@[simp] theorem modCluster_devid (s : State) (c : Nat) (f : Cluster → Cluster) : (s.modCluster c f).devid = s.devid := rfl
@[simp] theorem modCluster_powercap (s : State) (c : Nat) (f : Cluster → Cluster) : (s.modCluster c f).powercap = s.powercap := rfl
@[simp] theorem modCluster_pstate (s : State) (c : Nat) (f : Cluster → Cluster) : (s.modCluster c f).pstate = s.pstate := rfl
@[simp] theorem modCluster_power (s : State) (c : Nat) (f : Cluster → Cluster) : (s.modCluster c f).power = s.power := rfl
@[simp] theorem modCluster_apbase (s : State) (c : Nat) (f : Cluster → Cluster) : (s.modCluster c f).apbase = s.apbase := rfl
@[simp] theorem modCluster_bar2 (s : State) (c : Nat) (f : Cluster → Cluster) : (s.modCluster c f).bar2 = s.bar2 := rfl
@[simp] theorem modCluster_access (s : State) (c : Nat) (f : Cluster → Cluster) : (s.modCluster c f).access = s.access := rfl
@[simp] theorem modCluster_msixFns (s : State) (c : Nat) (f : Cluster → Cluster) : (s.modCluster c f).msixFns = s.msixFns := rfl
@[simp] theorem modCluster_msixSent (s : State) (c : Nat) (f : Cluster → Cluster) : (s.modCluster c f).msixSent = s.msixSent := rfl
@[simp] theorem modCluster_ats (s : State) (c : Nat) (f : Cluster → Cluster) : (s.modCluster c f).ats = s.ats := rfl
@[simp] theorem modCluster_pri (s : State) (c : Nat) (f : Cluster → Cluster) : (s.modCluster c f).pri = s.pri := rfl
@[simp] theorem modCluster_denied (s : State) (c : Nat) (f : Cluster → Cluster) : (s.modCluster c f).denied = s.denied := rfl
@[simp] theorem modCluster_hostPages (s : State) (c : Nat) (f : Cluster → Cluster) : (s.modCluster c f).hostPages = s.hostPages := rfl
@[simp] theorem modCluster_ide (s : State) (c : Nat) (f : Cluster → Cluster) : (s.modCluster c f).ide = s.ide := rfl
@[simp] theorem modCluster_ports (s : State) (c : Nat) (f : Cluster → Cluster) : (s.modCluster c f).ports = s.ports := rfl
@[simp] theorem modCluster_meas (s : State) (c : Nat) (f : Cluster → Cluster) : (s.modCluster c f).meas = s.meas := rfl
@[simp] theorem modCluster_agenda (s : State) (c : Nat) (f : Cluster → Cluster) : (s.modCluster c f).agenda = s.agenda := rfl
@[simp] theorem modCluster_tick (s : State) (c : Nat) (f : Cluster → Cluster) : (s.modCluster c f).tick = s.tick := rfl
@[simp] theorem modCluster_fresh (s : State) (c : Nat) (f : Cluster → Cluster) : (s.modCluster c f).fresh = s.fresh := rfl
@[simp] theorem modCluster_cur (s : State) (c : Nat) (f : Cluster → Cluster) : (s.modCluster c f).cur = s.cur := rfl
@[simp] theorem modCluster_ctx (s : State) (c : Nat) (f : Cluster → Cluster) : (s.modCluster c f).ctx = s.ctx := rfl
@[simp] theorem modCluster_sig (s : State) (c : Nat) (f : Cluster → Cluster) : (s.modCluster c f).sig = s.sig := rfl
@[simp] theorem modCluster_eff (s : State) (c : Nat) (f : Cluster → Cluster) : (s.modCluster c f).eff = s.eff := rfl
@[simp] theorem modCluster_reply (s : State) (c : Nat) (f : Cluster → Cluster) : (s.modCluster c f).reply = s.reply := rfl

/-! ## mapCores -/

@[simp] theorem mapCores_mem (s : State) (f : Nat → Core → Core) : (s.mapCores f).mem = s.mem := rfl
@[simp] theorem mapCores_poison (s : State) (f : Nat → Core → Core) : (s.mapCores f).poison = s.poison := rfl
@[simp] theorem mapCores_stack (s : State) (f : Nat → Core → Core) : (s.mapCores f).stack = s.stack := rfl
@[simp] theorem mapCores_clusters (s : State) (f : Nat → Core → Core) : (s.mapCores f).clusters = s.clusters := rfl
@[simp] theorem mapCores_dies (s : State) (f : Nat → Core → Core) : (s.mapCores f).dies = s.dies := rfl
@[simp] theorem mapCores_tasks (s : State) (f : Nat → Core → Core) : (s.mapCores f).tasks = s.tasks := rfl
@[simp] theorem mapCores_launches (s : State) (f : Nat → Core → Core) : (s.mapCores f).launches = s.launches := rfl
@[simp] theorem mapCores_rings (s : State) (f : Nat → Core → Core) : (s.mapCores f).rings = s.rings := rfl
@[simp] theorem mapCores_tlaunch (s : State) (f : Nat → Core → Core) : (s.mapCores f).tlaunch = s.tlaunch := rfl
@[simp] theorem mapCores_nextRing (s : State) (f : Nat → Core → Core) : (s.mapCores f).nextRing = s.nextRing := rfl
@[simp] theorem mapCores_regions (s : State) (f : Nat → Core → Core) : (s.mapCores f).regions = s.regions := rfl
@[simp] theorem mapCores_acts (s : State) (f : Nat → Core → Core) : (s.mapCores f).acts = s.acts := rfl
@[simp] theorem mapCores_abandons (s : State) (f : Nat → Core → Core) : (s.mapCores f).abandons = s.abandons := rfl
@[simp] theorem mapCores_plans (s : State) (f : Nat → Core → Core) : (s.mapCores f).plans = s.plans := rfl
@[simp] theorem mapCores_planOut (s : State) (f : Nat → Core → Core) : (s.mapCores f).planOut = s.planOut := rfl
@[simp] theorem mapCores_msgs (s : State) (f : Nat → Core → Core) : (s.mapCores f).msgs = s.msgs := rfl
@[simp] theorem mapCores_home (s : State) (f : Nat → Core → Core) : (s.mapCores f).home = s.home := rfl
@[simp] theorem mapCores_homeq (s : State) (f : Nat → Core → Core) : (s.mapCores f).homeq = s.homeq := rfl
@[simp] theorem mapCores_fired (s : State) (f : Nat → Core → Core) : (s.mapCores f).fired = s.fired := rfl
@[simp] theorem mapCores_migs (s : State) (f : Nat → Core → Core) : (s.mapCores f).migs = s.migs := rfl
@[simp] theorem mapCores_fatal (s : State) (f : Nat → Core → Core) : (s.mapCores f).fatal = s.fatal := rfl
@[simp] theorem mapCores_gttbase (s : State) (f : Nat → Core → Core) : (s.mapCores f).gttbase = s.gttbase := rfl
@[simp] theorem mapCores_asroot (s : State) (f : Nat → Core → Core) : (s.mapCores f).asroot = s.asroot := rfl
@[simp] theorem mapCores_tbivc (s : State) (f : Nat → Core → Core) : (s.mapCores f).tbivc = s.tbivc := rfl
@[simp] theorem mapCores_tbivcWord (s : State) (f : Nat → Core → Core) : (s.mapCores f).tbivcWord = s.tbivcWord := rfl
@[simp] theorem mapCores_tbivcOvr (s : State) (f : Nat → Core → Core) : (s.mapCores f).tbivcOvr = s.tbivcOvr := rfl
@[simp] theorem mapCores_boot (s : State) (f : Nat → Core → Core) : (s.mapCores f).boot = s.boot := rfl
@[simp] theorem mapCores_aspasid (s : State) (f : Nat → Core → Core) : (s.mapCores f).aspasid = s.aspasid := rfl
@[simp] theorem mapCores_peermap (s : State) (f : Nat → Core → Core) : (s.mapCores f).peermap = s.peermap := rfl
@[simp] theorem mapCores_devid (s : State) (f : Nat → Core → Core) : (s.mapCores f).devid = s.devid := rfl
@[simp] theorem mapCores_powercap (s : State) (f : Nat → Core → Core) : (s.mapCores f).powercap = s.powercap := rfl
@[simp] theorem mapCores_pstate (s : State) (f : Nat → Core → Core) : (s.mapCores f).pstate = s.pstate := rfl
@[simp] theorem mapCores_power (s : State) (f : Nat → Core → Core) : (s.mapCores f).power = s.power := rfl
@[simp] theorem mapCores_apbase (s : State) (f : Nat → Core → Core) : (s.mapCores f).apbase = s.apbase := rfl
@[simp] theorem mapCores_bar2 (s : State) (f : Nat → Core → Core) : (s.mapCores f).bar2 = s.bar2 := rfl
@[simp] theorem mapCores_access (s : State) (f : Nat → Core → Core) : (s.mapCores f).access = s.access := rfl
@[simp] theorem mapCores_msixFns (s : State) (f : Nat → Core → Core) : (s.mapCores f).msixFns = s.msixFns := rfl
@[simp] theorem mapCores_msixSent (s : State) (f : Nat → Core → Core) : (s.mapCores f).msixSent = s.msixSent := rfl
@[simp] theorem mapCores_ats (s : State) (f : Nat → Core → Core) : (s.mapCores f).ats = s.ats := rfl
@[simp] theorem mapCores_pri (s : State) (f : Nat → Core → Core) : (s.mapCores f).pri = s.pri := rfl
@[simp] theorem mapCores_denied (s : State) (f : Nat → Core → Core) : (s.mapCores f).denied = s.denied := rfl
@[simp] theorem mapCores_hostPages (s : State) (f : Nat → Core → Core) : (s.mapCores f).hostPages = s.hostPages := rfl
@[simp] theorem mapCores_ide (s : State) (f : Nat → Core → Core) : (s.mapCores f).ide = s.ide := rfl
@[simp] theorem mapCores_ports (s : State) (f : Nat → Core → Core) : (s.mapCores f).ports = s.ports := rfl
@[simp] theorem mapCores_meas (s : State) (f : Nat → Core → Core) : (s.mapCores f).meas = s.meas := rfl
@[simp] theorem mapCores_agenda (s : State) (f : Nat → Core → Core) : (s.mapCores f).agenda = s.agenda := rfl
@[simp] theorem mapCores_tick (s : State) (f : Nat → Core → Core) : (s.mapCores f).tick = s.tick := rfl
@[simp] theorem mapCores_fresh (s : State) (f : Nat → Core → Core) : (s.mapCores f).fresh = s.fresh := rfl
@[simp] theorem mapCores_cur (s : State) (f : Nat → Core → Core) : (s.mapCores f).cur = s.cur := rfl
@[simp] theorem mapCores_ctx (s : State) (f : Nat → Core → Core) : (s.mapCores f).ctx = s.ctx := rfl
@[simp] theorem mapCores_sig (s : State) (f : Nat → Core → Core) : (s.mapCores f).sig = s.sig := rfl
@[simp] theorem mapCores_eff (s : State) (f : Nat → Core → Core) : (s.mapCores f).eff = s.eff := rfl
@[simp] theorem mapCores_reply (s : State) (f : Nat → Core → Core) : (s.mapCores f).reply = s.reply := rfl

/-! ## mapDies -/

@[simp] theorem mapDies_mem (s : State) (f : Nat → Die → Die) : (s.mapDies f).mem = s.mem := rfl
@[simp] theorem mapDies_poison (s : State) (f : Nat → Die → Die) : (s.mapDies f).poison = s.poison := rfl
@[simp] theorem mapDies_stack (s : State) (f : Nat → Die → Die) : (s.mapDies f).stack = s.stack := rfl
@[simp] theorem mapDies_cores (s : State) (f : Nat → Die → Die) : (s.mapDies f).cores = s.cores := rfl
@[simp] theorem mapDies_clusters (s : State) (f : Nat → Die → Die) : (s.mapDies f).clusters = s.clusters := rfl
@[simp] theorem mapDies_tasks (s : State) (f : Nat → Die → Die) : (s.mapDies f).tasks = s.tasks := rfl
@[simp] theorem mapDies_launches (s : State) (f : Nat → Die → Die) : (s.mapDies f).launches = s.launches := rfl
@[simp] theorem mapDies_rings (s : State) (f : Nat → Die → Die) : (s.mapDies f).rings = s.rings := rfl
@[simp] theorem mapDies_tlaunch (s : State) (f : Nat → Die → Die) : (s.mapDies f).tlaunch = s.tlaunch := rfl
@[simp] theorem mapDies_nextRing (s : State) (f : Nat → Die → Die) : (s.mapDies f).nextRing = s.nextRing := rfl
@[simp] theorem mapDies_regions (s : State) (f : Nat → Die → Die) : (s.mapDies f).regions = s.regions := rfl
@[simp] theorem mapDies_acts (s : State) (f : Nat → Die → Die) : (s.mapDies f).acts = s.acts := rfl
@[simp] theorem mapDies_abandons (s : State) (f : Nat → Die → Die) : (s.mapDies f).abandons = s.abandons := rfl
@[simp] theorem mapDies_plans (s : State) (f : Nat → Die → Die) : (s.mapDies f).plans = s.plans := rfl
@[simp] theorem mapDies_planOut (s : State) (f : Nat → Die → Die) : (s.mapDies f).planOut = s.planOut := rfl
@[simp] theorem mapDies_msgs (s : State) (f : Nat → Die → Die) : (s.mapDies f).msgs = s.msgs := rfl
@[simp] theorem mapDies_home (s : State) (f : Nat → Die → Die) : (s.mapDies f).home = s.home := rfl
@[simp] theorem mapDies_homeq (s : State) (f : Nat → Die → Die) : (s.mapDies f).homeq = s.homeq := rfl
@[simp] theorem mapDies_fired (s : State) (f : Nat → Die → Die) : (s.mapDies f).fired = s.fired := rfl
@[simp] theorem mapDies_migs (s : State) (f : Nat → Die → Die) : (s.mapDies f).migs = s.migs := rfl
@[simp] theorem mapDies_fatal (s : State) (f : Nat → Die → Die) : (s.mapDies f).fatal = s.fatal := rfl
@[simp] theorem mapDies_gttbase (s : State) (f : Nat → Die → Die) : (s.mapDies f).gttbase = s.gttbase := rfl
@[simp] theorem mapDies_asroot (s : State) (f : Nat → Die → Die) : (s.mapDies f).asroot = s.asroot := rfl
@[simp] theorem mapDies_tbivc (s : State) (f : Nat → Die → Die) : (s.mapDies f).tbivc = s.tbivc := rfl
@[simp] theorem mapDies_tbivcWord (s : State) (f : Nat → Die → Die) : (s.mapDies f).tbivcWord = s.tbivcWord := rfl
@[simp] theorem mapDies_tbivcOvr (s : State) (f : Nat → Die → Die) : (s.mapDies f).tbivcOvr = s.tbivcOvr := rfl
@[simp] theorem mapDies_boot (s : State) (f : Nat → Die → Die) : (s.mapDies f).boot = s.boot := rfl
@[simp] theorem mapDies_aspasid (s : State) (f : Nat → Die → Die) : (s.mapDies f).aspasid = s.aspasid := rfl
@[simp] theorem mapDies_peermap (s : State) (f : Nat → Die → Die) : (s.mapDies f).peermap = s.peermap := rfl
@[simp] theorem mapDies_devid (s : State) (f : Nat → Die → Die) : (s.mapDies f).devid = s.devid := rfl
@[simp] theorem mapDies_powercap (s : State) (f : Nat → Die → Die) : (s.mapDies f).powercap = s.powercap := rfl
@[simp] theorem mapDies_pstate (s : State) (f : Nat → Die → Die) : (s.mapDies f).pstate = s.pstate := rfl
@[simp] theorem mapDies_power (s : State) (f : Nat → Die → Die) : (s.mapDies f).power = s.power := rfl
@[simp] theorem mapDies_apbase (s : State) (f : Nat → Die → Die) : (s.mapDies f).apbase = s.apbase := rfl
@[simp] theorem mapDies_bar2 (s : State) (f : Nat → Die → Die) : (s.mapDies f).bar2 = s.bar2 := rfl
@[simp] theorem mapDies_access (s : State) (f : Nat → Die → Die) : (s.mapDies f).access = s.access := rfl
@[simp] theorem mapDies_msixFns (s : State) (f : Nat → Die → Die) : (s.mapDies f).msixFns = s.msixFns := rfl
@[simp] theorem mapDies_msixSent (s : State) (f : Nat → Die → Die) : (s.mapDies f).msixSent = s.msixSent := rfl
@[simp] theorem mapDies_ats (s : State) (f : Nat → Die → Die) : (s.mapDies f).ats = s.ats := rfl
@[simp] theorem mapDies_pri (s : State) (f : Nat → Die → Die) : (s.mapDies f).pri = s.pri := rfl
@[simp] theorem mapDies_denied (s : State) (f : Nat → Die → Die) : (s.mapDies f).denied = s.denied := rfl
@[simp] theorem mapDies_hostPages (s : State) (f : Nat → Die → Die) : (s.mapDies f).hostPages = s.hostPages := rfl
@[simp] theorem mapDies_ide (s : State) (f : Nat → Die → Die) : (s.mapDies f).ide = s.ide := rfl
@[simp] theorem mapDies_ports (s : State) (f : Nat → Die → Die) : (s.mapDies f).ports = s.ports := rfl
@[simp] theorem mapDies_meas (s : State) (f : Nat → Die → Die) : (s.mapDies f).meas = s.meas := rfl
@[simp] theorem mapDies_agenda (s : State) (f : Nat → Die → Die) : (s.mapDies f).agenda = s.agenda := rfl
@[simp] theorem mapDies_tick (s : State) (f : Nat → Die → Die) : (s.mapDies f).tick = s.tick := rfl
@[simp] theorem mapDies_fresh (s : State) (f : Nat → Die → Die) : (s.mapDies f).fresh = s.fresh := rfl
@[simp] theorem mapDies_cur (s : State) (f : Nat → Die → Die) : (s.mapDies f).cur = s.cur := rfl
@[simp] theorem mapDies_ctx (s : State) (f : Nat → Die → Die) : (s.mapDies f).ctx = s.ctx := rfl
@[simp] theorem mapDies_sig (s : State) (f : Nat → Die → Die) : (s.mapDies f).sig = s.sig := rfl
@[simp] theorem mapDies_eff (s : State) (f : Nat → Die → Die) : (s.mapDies f).eff = s.eff := rfl
@[simp] theorem mapDies_reply (s : State) (f : Nat → Die → Die) : (s.mapDies f).reply = s.reply := rfl

/-! ## mapClusters -/

@[simp] theorem mapClusters_mem (s : State) (f : Nat → Cluster → Cluster) : (s.mapClusters f).mem = s.mem := rfl
@[simp] theorem mapClusters_poison (s : State) (f : Nat → Cluster → Cluster) : (s.mapClusters f).poison = s.poison := rfl
@[simp] theorem mapClusters_stack (s : State) (f : Nat → Cluster → Cluster) : (s.mapClusters f).stack = s.stack := rfl
@[simp] theorem mapClusters_cores (s : State) (f : Nat → Cluster → Cluster) : (s.mapClusters f).cores = s.cores := rfl
@[simp] theorem mapClusters_dies (s : State) (f : Nat → Cluster → Cluster) : (s.mapClusters f).dies = s.dies := rfl
@[simp] theorem mapClusters_tasks (s : State) (f : Nat → Cluster → Cluster) : (s.mapClusters f).tasks = s.tasks := rfl
@[simp] theorem mapClusters_launches (s : State) (f : Nat → Cluster → Cluster) : (s.mapClusters f).launches = s.launches := rfl
@[simp] theorem mapClusters_rings (s : State) (f : Nat → Cluster → Cluster) : (s.mapClusters f).rings = s.rings := rfl
@[simp] theorem mapClusters_tlaunch (s : State) (f : Nat → Cluster → Cluster) : (s.mapClusters f).tlaunch = s.tlaunch := rfl
@[simp] theorem mapClusters_nextRing (s : State) (f : Nat → Cluster → Cluster) : (s.mapClusters f).nextRing = s.nextRing := rfl
@[simp] theorem mapClusters_regions (s : State) (f : Nat → Cluster → Cluster) : (s.mapClusters f).regions = s.regions := rfl
@[simp] theorem mapClusters_acts (s : State) (f : Nat → Cluster → Cluster) : (s.mapClusters f).acts = s.acts := rfl
@[simp] theorem mapClusters_abandons (s : State) (f : Nat → Cluster → Cluster) : (s.mapClusters f).abandons = s.abandons := rfl
@[simp] theorem mapClusters_plans (s : State) (f : Nat → Cluster → Cluster) : (s.mapClusters f).plans = s.plans := rfl
@[simp] theorem mapClusters_planOut (s : State) (f : Nat → Cluster → Cluster) : (s.mapClusters f).planOut = s.planOut := rfl
@[simp] theorem mapClusters_msgs (s : State) (f : Nat → Cluster → Cluster) : (s.mapClusters f).msgs = s.msgs := rfl
@[simp] theorem mapClusters_home (s : State) (f : Nat → Cluster → Cluster) : (s.mapClusters f).home = s.home := rfl
@[simp] theorem mapClusters_homeq (s : State) (f : Nat → Cluster → Cluster) : (s.mapClusters f).homeq = s.homeq := rfl
@[simp] theorem mapClusters_fired (s : State) (f : Nat → Cluster → Cluster) : (s.mapClusters f).fired = s.fired := rfl
@[simp] theorem mapClusters_migs (s : State) (f : Nat → Cluster → Cluster) : (s.mapClusters f).migs = s.migs := rfl
@[simp] theorem mapClusters_fatal (s : State) (f : Nat → Cluster → Cluster) : (s.mapClusters f).fatal = s.fatal := rfl
@[simp] theorem mapClusters_gttbase (s : State) (f : Nat → Cluster → Cluster) : (s.mapClusters f).gttbase = s.gttbase := rfl
@[simp] theorem mapClusters_asroot (s : State) (f : Nat → Cluster → Cluster) : (s.mapClusters f).asroot = s.asroot := rfl
@[simp] theorem mapClusters_tbivc (s : State) (f : Nat → Cluster → Cluster) : (s.mapClusters f).tbivc = s.tbivc := rfl
@[simp] theorem mapClusters_tbivcWord (s : State) (f : Nat → Cluster → Cluster) : (s.mapClusters f).tbivcWord = s.tbivcWord := rfl
@[simp] theorem mapClusters_tbivcOvr (s : State) (f : Nat → Cluster → Cluster) : (s.mapClusters f).tbivcOvr = s.tbivcOvr := rfl
@[simp] theorem mapClusters_boot (s : State) (f : Nat → Cluster → Cluster) : (s.mapClusters f).boot = s.boot := rfl
@[simp] theorem mapClusters_aspasid (s : State) (f : Nat → Cluster → Cluster) : (s.mapClusters f).aspasid = s.aspasid := rfl
@[simp] theorem mapClusters_peermap (s : State) (f : Nat → Cluster → Cluster) : (s.mapClusters f).peermap = s.peermap := rfl
@[simp] theorem mapClusters_devid (s : State) (f : Nat → Cluster → Cluster) : (s.mapClusters f).devid = s.devid := rfl
@[simp] theorem mapClusters_powercap (s : State) (f : Nat → Cluster → Cluster) : (s.mapClusters f).powercap = s.powercap := rfl
@[simp] theorem mapClusters_pstate (s : State) (f : Nat → Cluster → Cluster) : (s.mapClusters f).pstate = s.pstate := rfl
@[simp] theorem mapClusters_power (s : State) (f : Nat → Cluster → Cluster) : (s.mapClusters f).power = s.power := rfl
@[simp] theorem mapClusters_apbase (s : State) (f : Nat → Cluster → Cluster) : (s.mapClusters f).apbase = s.apbase := rfl
@[simp] theorem mapClusters_bar2 (s : State) (f : Nat → Cluster → Cluster) : (s.mapClusters f).bar2 = s.bar2 := rfl
@[simp] theorem mapClusters_access (s : State) (f : Nat → Cluster → Cluster) : (s.mapClusters f).access = s.access := rfl
@[simp] theorem mapClusters_msixFns (s : State) (f : Nat → Cluster → Cluster) : (s.mapClusters f).msixFns = s.msixFns := rfl
@[simp] theorem mapClusters_msixSent (s : State) (f : Nat → Cluster → Cluster) : (s.mapClusters f).msixSent = s.msixSent := rfl
@[simp] theorem mapClusters_ats (s : State) (f : Nat → Cluster → Cluster) : (s.mapClusters f).ats = s.ats := rfl
@[simp] theorem mapClusters_pri (s : State) (f : Nat → Cluster → Cluster) : (s.mapClusters f).pri = s.pri := rfl
@[simp] theorem mapClusters_denied (s : State) (f : Nat → Cluster → Cluster) : (s.mapClusters f).denied = s.denied := rfl
@[simp] theorem mapClusters_hostPages (s : State) (f : Nat → Cluster → Cluster) : (s.mapClusters f).hostPages = s.hostPages := rfl
@[simp] theorem mapClusters_ide (s : State) (f : Nat → Cluster → Cluster) : (s.mapClusters f).ide = s.ide := rfl
@[simp] theorem mapClusters_ports (s : State) (f : Nat → Cluster → Cluster) : (s.mapClusters f).ports = s.ports := rfl
@[simp] theorem mapClusters_meas (s : State) (f : Nat → Cluster → Cluster) : (s.mapClusters f).meas = s.meas := rfl
@[simp] theorem mapClusters_agenda (s : State) (f : Nat → Cluster → Cluster) : (s.mapClusters f).agenda = s.agenda := rfl
@[simp] theorem mapClusters_tick (s : State) (f : Nat → Cluster → Cluster) : (s.mapClusters f).tick = s.tick := rfl
@[simp] theorem mapClusters_fresh (s : State) (f : Nat → Cluster → Cluster) : (s.mapClusters f).fresh = s.fresh := rfl
@[simp] theorem mapClusters_cur (s : State) (f : Nat → Cluster → Cluster) : (s.mapClusters f).cur = s.cur := rfl
@[simp] theorem mapClusters_ctx (s : State) (f : Nat → Cluster → Cluster) : (s.mapClusters f).ctx = s.ctx := rfl
@[simp] theorem mapClusters_sig (s : State) (f : Nat → Cluster → Cluster) : (s.mapClusters f).sig = s.sig := rfl
@[simp] theorem mapClusters_eff (s : State) (f : Nat → Cluster → Cluster) : (s.mapClusters f).eff = s.eff := rfl
@[simp] theorem mapClusters_reply (s : State) (f : Nat → Cluster → Cluster) : (s.mapClusters f).reply = s.reply := rfl

/-! ## modMe -/

@[simp] theorem modMe_mem (s : State) (f : Core → Core) : (s.modMe f).mem = s.mem := rfl
@[simp] theorem modMe_poison (s : State) (f : Core → Core) : (s.modMe f).poison = s.poison := rfl
@[simp] theorem modMe_stack (s : State) (f : Core → Core) : (s.modMe f).stack = s.stack := rfl
@[simp] theorem modMe_clusters (s : State) (f : Core → Core) : (s.modMe f).clusters = s.clusters := rfl
@[simp] theorem modMe_dies (s : State) (f : Core → Core) : (s.modMe f).dies = s.dies := rfl
@[simp] theorem modMe_tasks (s : State) (f : Core → Core) : (s.modMe f).tasks = s.tasks := rfl
@[simp] theorem modMe_launches (s : State) (f : Core → Core) : (s.modMe f).launches = s.launches := rfl
@[simp] theorem modMe_rings (s : State) (f : Core → Core) : (s.modMe f).rings = s.rings := rfl
@[simp] theorem modMe_tlaunch (s : State) (f : Core → Core) : (s.modMe f).tlaunch = s.tlaunch := rfl
@[simp] theorem modMe_nextRing (s : State) (f : Core → Core) : (s.modMe f).nextRing = s.nextRing := rfl
@[simp] theorem modMe_regions (s : State) (f : Core → Core) : (s.modMe f).regions = s.regions := rfl
@[simp] theorem modMe_acts (s : State) (f : Core → Core) : (s.modMe f).acts = s.acts := rfl
@[simp] theorem modMe_abandons (s : State) (f : Core → Core) : (s.modMe f).abandons = s.abandons := rfl
@[simp] theorem modMe_plans (s : State) (f : Core → Core) : (s.modMe f).plans = s.plans := rfl
@[simp] theorem modMe_planOut (s : State) (f : Core → Core) : (s.modMe f).planOut = s.planOut := rfl
@[simp] theorem modMe_msgs (s : State) (f : Core → Core) : (s.modMe f).msgs = s.msgs := rfl
@[simp] theorem modMe_home (s : State) (f : Core → Core) : (s.modMe f).home = s.home := rfl
@[simp] theorem modMe_homeq (s : State) (f : Core → Core) : (s.modMe f).homeq = s.homeq := rfl
@[simp] theorem modMe_fired (s : State) (f : Core → Core) : (s.modMe f).fired = s.fired := rfl
@[simp] theorem modMe_migs (s : State) (f : Core → Core) : (s.modMe f).migs = s.migs := rfl
@[simp] theorem modMe_fatal (s : State) (f : Core → Core) : (s.modMe f).fatal = s.fatal := rfl
@[simp] theorem modMe_gttbase (s : State) (f : Core → Core) : (s.modMe f).gttbase = s.gttbase := rfl
@[simp] theorem modMe_asroot (s : State) (f : Core → Core) : (s.modMe f).asroot = s.asroot := rfl
@[simp] theorem modMe_tbivc (s : State) (f : Core → Core) : (s.modMe f).tbivc = s.tbivc := rfl
@[simp] theorem modMe_tbivcWord (s : State) (f : Core → Core) : (s.modMe f).tbivcWord = s.tbivcWord := rfl
@[simp] theorem modMe_tbivcOvr (s : State) (f : Core → Core) : (s.modMe f).tbivcOvr = s.tbivcOvr := rfl
@[simp] theorem modMe_boot (s : State) (f : Core → Core) : (s.modMe f).boot = s.boot := rfl
@[simp] theorem modMe_aspasid (s : State) (f : Core → Core) : (s.modMe f).aspasid = s.aspasid := rfl
@[simp] theorem modMe_peermap (s : State) (f : Core → Core) : (s.modMe f).peermap = s.peermap := rfl
@[simp] theorem modMe_devid (s : State) (f : Core → Core) : (s.modMe f).devid = s.devid := rfl
@[simp] theorem modMe_powercap (s : State) (f : Core → Core) : (s.modMe f).powercap = s.powercap := rfl
@[simp] theorem modMe_pstate (s : State) (f : Core → Core) : (s.modMe f).pstate = s.pstate := rfl
@[simp] theorem modMe_power (s : State) (f : Core → Core) : (s.modMe f).power = s.power := rfl
@[simp] theorem modMe_apbase (s : State) (f : Core → Core) : (s.modMe f).apbase = s.apbase := rfl
@[simp] theorem modMe_bar2 (s : State) (f : Core → Core) : (s.modMe f).bar2 = s.bar2 := rfl
@[simp] theorem modMe_access (s : State) (f : Core → Core) : (s.modMe f).access = s.access := rfl
@[simp] theorem modMe_msixFns (s : State) (f : Core → Core) : (s.modMe f).msixFns = s.msixFns := rfl
@[simp] theorem modMe_msixSent (s : State) (f : Core → Core) : (s.modMe f).msixSent = s.msixSent := rfl
@[simp] theorem modMe_ats (s : State) (f : Core → Core) : (s.modMe f).ats = s.ats := rfl
@[simp] theorem modMe_pri (s : State) (f : Core → Core) : (s.modMe f).pri = s.pri := rfl
@[simp] theorem modMe_denied (s : State) (f : Core → Core) : (s.modMe f).denied = s.denied := rfl
@[simp] theorem modMe_hostPages (s : State) (f : Core → Core) : (s.modMe f).hostPages = s.hostPages := rfl
@[simp] theorem modMe_ide (s : State) (f : Core → Core) : (s.modMe f).ide = s.ide := rfl
@[simp] theorem modMe_ports (s : State) (f : Core → Core) : (s.modMe f).ports = s.ports := rfl
@[simp] theorem modMe_meas (s : State) (f : Core → Core) : (s.modMe f).meas = s.meas := rfl
@[simp] theorem modMe_agenda (s : State) (f : Core → Core) : (s.modMe f).agenda = s.agenda := rfl
@[simp] theorem modMe_tick (s : State) (f : Core → Core) : (s.modMe f).tick = s.tick := rfl
@[simp] theorem modMe_fresh (s : State) (f : Core → Core) : (s.modMe f).fresh = s.fresh := rfl
@[simp] theorem modMe_cur (s : State) (f : Core → Core) : (s.modMe f).cur = s.cur := rfl
@[simp] theorem modMe_ctx (s : State) (f : Core → Core) : (s.modMe f).ctx = s.ctx := rfl
@[simp] theorem modMe_sig (s : State) (f : Core → Core) : (s.modMe f).sig = s.sig := rfl
@[simp] theorem modMe_eff (s : State) (f : Core → Core) : (s.modMe f).eff = s.eff := rfl
@[simp] theorem modMe_reply (s : State) (f : Core → Core) : (s.modMe f).reply = s.reply := rfl

/-! ## modSl -/

@[simp] theorem modSl_mem (s : State) (f : Slot → Slot) : (s.modSl f).mem = s.mem := rfl
@[simp] theorem modSl_poison (s : State) (f : Slot → Slot) : (s.modSl f).poison = s.poison := rfl
@[simp] theorem modSl_stack (s : State) (f : Slot → Slot) : (s.modSl f).stack = s.stack := rfl
@[simp] theorem modSl_clusters (s : State) (f : Slot → Slot) : (s.modSl f).clusters = s.clusters := rfl
@[simp] theorem modSl_dies (s : State) (f : Slot → Slot) : (s.modSl f).dies = s.dies := rfl
@[simp] theorem modSl_tasks (s : State) (f : Slot → Slot) : (s.modSl f).tasks = s.tasks := rfl
@[simp] theorem modSl_launches (s : State) (f : Slot → Slot) : (s.modSl f).launches = s.launches := rfl
@[simp] theorem modSl_rings (s : State) (f : Slot → Slot) : (s.modSl f).rings = s.rings := rfl
@[simp] theorem modSl_tlaunch (s : State) (f : Slot → Slot) : (s.modSl f).tlaunch = s.tlaunch := rfl
@[simp] theorem modSl_nextRing (s : State) (f : Slot → Slot) : (s.modSl f).nextRing = s.nextRing := rfl
@[simp] theorem modSl_regions (s : State) (f : Slot → Slot) : (s.modSl f).regions = s.regions := rfl
@[simp] theorem modSl_acts (s : State) (f : Slot → Slot) : (s.modSl f).acts = s.acts := rfl
@[simp] theorem modSl_abandons (s : State) (f : Slot → Slot) : (s.modSl f).abandons = s.abandons := rfl
@[simp] theorem modSl_plans (s : State) (f : Slot → Slot) : (s.modSl f).plans = s.plans := rfl
@[simp] theorem modSl_planOut (s : State) (f : Slot → Slot) : (s.modSl f).planOut = s.planOut := rfl
@[simp] theorem modSl_msgs (s : State) (f : Slot → Slot) : (s.modSl f).msgs = s.msgs := rfl
@[simp] theorem modSl_home (s : State) (f : Slot → Slot) : (s.modSl f).home = s.home := rfl
@[simp] theorem modSl_homeq (s : State) (f : Slot → Slot) : (s.modSl f).homeq = s.homeq := rfl
@[simp] theorem modSl_fired (s : State) (f : Slot → Slot) : (s.modSl f).fired = s.fired := rfl
@[simp] theorem modSl_migs (s : State) (f : Slot → Slot) : (s.modSl f).migs = s.migs := rfl
@[simp] theorem modSl_fatal (s : State) (f : Slot → Slot) : (s.modSl f).fatal = s.fatal := rfl
@[simp] theorem modSl_gttbase (s : State) (f : Slot → Slot) : (s.modSl f).gttbase = s.gttbase := rfl
@[simp] theorem modSl_asroot (s : State) (f : Slot → Slot) : (s.modSl f).asroot = s.asroot := rfl
@[simp] theorem modSl_tbivc (s : State) (f : Slot → Slot) : (s.modSl f).tbivc = s.tbivc := rfl
@[simp] theorem modSl_tbivcWord (s : State) (f : Slot → Slot) : (s.modSl f).tbivcWord = s.tbivcWord := rfl
@[simp] theorem modSl_tbivcOvr (s : State) (f : Slot → Slot) : (s.modSl f).tbivcOvr = s.tbivcOvr := rfl
@[simp] theorem modSl_boot (s : State) (f : Slot → Slot) : (s.modSl f).boot = s.boot := rfl
@[simp] theorem modSl_aspasid (s : State) (f : Slot → Slot) : (s.modSl f).aspasid = s.aspasid := rfl
@[simp] theorem modSl_peermap (s : State) (f : Slot → Slot) : (s.modSl f).peermap = s.peermap := rfl
@[simp] theorem modSl_devid (s : State) (f : Slot → Slot) : (s.modSl f).devid = s.devid := rfl
@[simp] theorem modSl_powercap (s : State) (f : Slot → Slot) : (s.modSl f).powercap = s.powercap := rfl
@[simp] theorem modSl_pstate (s : State) (f : Slot → Slot) : (s.modSl f).pstate = s.pstate := rfl
@[simp] theorem modSl_power (s : State) (f : Slot → Slot) : (s.modSl f).power = s.power := rfl
@[simp] theorem modSl_apbase (s : State) (f : Slot → Slot) : (s.modSl f).apbase = s.apbase := rfl
@[simp] theorem modSl_bar2 (s : State) (f : Slot → Slot) : (s.modSl f).bar2 = s.bar2 := rfl
@[simp] theorem modSl_access (s : State) (f : Slot → Slot) : (s.modSl f).access = s.access := rfl
@[simp] theorem modSl_msixFns (s : State) (f : Slot → Slot) : (s.modSl f).msixFns = s.msixFns := rfl
@[simp] theorem modSl_msixSent (s : State) (f : Slot → Slot) : (s.modSl f).msixSent = s.msixSent := rfl
@[simp] theorem modSl_ats (s : State) (f : Slot → Slot) : (s.modSl f).ats = s.ats := rfl
@[simp] theorem modSl_pri (s : State) (f : Slot → Slot) : (s.modSl f).pri = s.pri := rfl
@[simp] theorem modSl_denied (s : State) (f : Slot → Slot) : (s.modSl f).denied = s.denied := rfl
@[simp] theorem modSl_hostPages (s : State) (f : Slot → Slot) : (s.modSl f).hostPages = s.hostPages := rfl
@[simp] theorem modSl_ide (s : State) (f : Slot → Slot) : (s.modSl f).ide = s.ide := rfl
@[simp] theorem modSl_ports (s : State) (f : Slot → Slot) : (s.modSl f).ports = s.ports := rfl
@[simp] theorem modSl_meas (s : State) (f : Slot → Slot) : (s.modSl f).meas = s.meas := rfl
@[simp] theorem modSl_agenda (s : State) (f : Slot → Slot) : (s.modSl f).agenda = s.agenda := rfl
@[simp] theorem modSl_tick (s : State) (f : Slot → Slot) : (s.modSl f).tick = s.tick := rfl
@[simp] theorem modSl_fresh (s : State) (f : Slot → Slot) : (s.modSl f).fresh = s.fresh := rfl
@[simp] theorem modSl_cur (s : State) (f : Slot → Slot) : (s.modSl f).cur = s.cur := rfl
@[simp] theorem modSl_ctx (s : State) (f : Slot → Slot) : (s.modSl f).ctx = s.ctx := rfl
@[simp] theorem modSl_sig (s : State) (f : Slot → Slot) : (s.modSl f).sig = s.sig := rfl
@[simp] theorem modSl_eff (s : State) (f : Slot → Slot) : (s.modSl f).eff = s.eff := rfl
@[simp] theorem modSl_reply (s : State) (f : Slot → Slot) : (s.modSl f).reply = s.reply := rfl

/-! ## push -/

@[simp] theorem push_mem (s : State) (e : InFl) : (s.push e).mem = s.mem := rfl
@[simp] theorem push_poison (s : State) (e : InFl) : (s.push e).poison = s.poison := rfl
@[simp] theorem push_stack (s : State) (e : InFl) : (s.push e).stack = s.stack := rfl
@[simp] theorem push_clusters (s : State) (e : InFl) : (s.push e).clusters = s.clusters := rfl
@[simp] theorem push_dies (s : State) (e : InFl) : (s.push e).dies = s.dies := rfl
@[simp] theorem push_tasks (s : State) (e : InFl) : (s.push e).tasks = s.tasks := rfl
@[simp] theorem push_launches (s : State) (e : InFl) : (s.push e).launches = s.launches := rfl
@[simp] theorem push_rings (s : State) (e : InFl) : (s.push e).rings = s.rings := rfl
@[simp] theorem push_tlaunch (s : State) (e : InFl) : (s.push e).tlaunch = s.tlaunch := rfl
@[simp] theorem push_nextRing (s : State) (e : InFl) : (s.push e).nextRing = s.nextRing := rfl
@[simp] theorem push_regions (s : State) (e : InFl) : (s.push e).regions = s.regions := rfl
@[simp] theorem push_acts (s : State) (e : InFl) : (s.push e).acts = s.acts := rfl
@[simp] theorem push_abandons (s : State) (e : InFl) : (s.push e).abandons = s.abandons := rfl
@[simp] theorem push_plans (s : State) (e : InFl) : (s.push e).plans = s.plans := rfl
@[simp] theorem push_planOut (s : State) (e : InFl) : (s.push e).planOut = s.planOut := rfl
@[simp] theorem push_msgs (s : State) (e : InFl) : (s.push e).msgs = s.msgs := rfl
@[simp] theorem push_home (s : State) (e : InFl) : (s.push e).home = s.home := rfl
@[simp] theorem push_homeq (s : State) (e : InFl) : (s.push e).homeq = s.homeq := rfl
@[simp] theorem push_fired (s : State) (e : InFl) : (s.push e).fired = s.fired := rfl
@[simp] theorem push_migs (s : State) (e : InFl) : (s.push e).migs = s.migs := rfl
@[simp] theorem push_fatal (s : State) (e : InFl) : (s.push e).fatal = s.fatal := rfl
@[simp] theorem push_gttbase (s : State) (e : InFl) : (s.push e).gttbase = s.gttbase := rfl
@[simp] theorem push_asroot (s : State) (e : InFl) : (s.push e).asroot = s.asroot := rfl
@[simp] theorem push_tbivc (s : State) (e : InFl) : (s.push e).tbivc = s.tbivc := rfl
@[simp] theorem push_tbivcWord (s : State) (e : InFl) : (s.push e).tbivcWord = s.tbivcWord := rfl
@[simp] theorem push_tbivcOvr (s : State) (e : InFl) : (s.push e).tbivcOvr = s.tbivcOvr := rfl
@[simp] theorem push_boot (s : State) (e : InFl) : (s.push e).boot = s.boot := rfl
@[simp] theorem push_aspasid (s : State) (e : InFl) : (s.push e).aspasid = s.aspasid := rfl
@[simp] theorem push_peermap (s : State) (e : InFl) : (s.push e).peermap = s.peermap := rfl
@[simp] theorem push_devid (s : State) (e : InFl) : (s.push e).devid = s.devid := rfl
@[simp] theorem push_powercap (s : State) (e : InFl) : (s.push e).powercap = s.powercap := rfl
@[simp] theorem push_pstate (s : State) (e : InFl) : (s.push e).pstate = s.pstate := rfl
@[simp] theorem push_power (s : State) (e : InFl) : (s.push e).power = s.power := rfl
@[simp] theorem push_apbase (s : State) (e : InFl) : (s.push e).apbase = s.apbase := rfl
@[simp] theorem push_bar2 (s : State) (e : InFl) : (s.push e).bar2 = s.bar2 := rfl
@[simp] theorem push_access (s : State) (e : InFl) : (s.push e).access = s.access := rfl
@[simp] theorem push_msixFns (s : State) (e : InFl) : (s.push e).msixFns = s.msixFns := rfl
@[simp] theorem push_msixSent (s : State) (e : InFl) : (s.push e).msixSent = s.msixSent := rfl
@[simp] theorem push_ats (s : State) (e : InFl) : (s.push e).ats = s.ats := rfl
@[simp] theorem push_pri (s : State) (e : InFl) : (s.push e).pri = s.pri := rfl
@[simp] theorem push_denied (s : State) (e : InFl) : (s.push e).denied = s.denied := rfl
@[simp] theorem push_hostPages (s : State) (e : InFl) : (s.push e).hostPages = s.hostPages := rfl
@[simp] theorem push_ide (s : State) (e : InFl) : (s.push e).ide = s.ide := rfl
@[simp] theorem push_ports (s : State) (e : InFl) : (s.push e).ports = s.ports := rfl
@[simp] theorem push_meas (s : State) (e : InFl) : (s.push e).meas = s.meas := rfl
@[simp] theorem push_agenda (s : State) (e : InFl) : (s.push e).agenda = s.agenda := rfl
@[simp] theorem push_tick (s : State) (e : InFl) : (s.push e).tick = s.tick := rfl
@[simp] theorem push_fresh (s : State) (e : InFl) : (s.push e).fresh = s.fresh := rfl
@[simp] theorem push_cur (s : State) (e : InFl) : (s.push e).cur = s.cur := rfl
@[simp] theorem push_ctx (s : State) (e : InFl) : (s.push e).ctx = s.ctx := rfl
@[simp] theorem push_sig (s : State) (e : InFl) : (s.push e).sig = s.sig := rfl
@[simp] theorem push_eff (s : State) (e : InFl) : (s.push e).eff = s.eff := rfl
@[simp] theorem push_reply (s : State) (e : InFl) : (s.push e).reply = s.reply := rfl

/-! ## nextFresh -/

@[simp] theorem nextFresh_mem (s : State) : (s.nextFresh).mem = s.mem := rfl
@[simp] theorem nextFresh_poison (s : State) : (s.nextFresh).poison = s.poison := rfl
@[simp] theorem nextFresh_stack (s : State) : (s.nextFresh).stack = s.stack := rfl
@[simp] theorem nextFresh_cores (s : State) : (s.nextFresh).cores = s.cores := rfl
@[simp] theorem nextFresh_clusters (s : State) : (s.nextFresh).clusters = s.clusters := rfl
@[simp] theorem nextFresh_dies (s : State) : (s.nextFresh).dies = s.dies := rfl
@[simp] theorem nextFresh_tasks (s : State) : (s.nextFresh).tasks = s.tasks := rfl
@[simp] theorem nextFresh_launches (s : State) : (s.nextFresh).launches = s.launches := rfl
@[simp] theorem nextFresh_rings (s : State) : (s.nextFresh).rings = s.rings := rfl
@[simp] theorem nextFresh_tlaunch (s : State) : (s.nextFresh).tlaunch = s.tlaunch := rfl
@[simp] theorem nextFresh_nextRing (s : State) : (s.nextFresh).nextRing = s.nextRing := rfl
@[simp] theorem nextFresh_regions (s : State) : (s.nextFresh).regions = s.regions := rfl
@[simp] theorem nextFresh_acts (s : State) : (s.nextFresh).acts = s.acts := rfl
@[simp] theorem nextFresh_abandons (s : State) : (s.nextFresh).abandons = s.abandons := rfl
@[simp] theorem nextFresh_plans (s : State) : (s.nextFresh).plans = s.plans := rfl
@[simp] theorem nextFresh_planOut (s : State) : (s.nextFresh).planOut = s.planOut := rfl
@[simp] theorem nextFresh_msgs (s : State) : (s.nextFresh).msgs = s.msgs := rfl
@[simp] theorem nextFresh_home (s : State) : (s.nextFresh).home = s.home := rfl
@[simp] theorem nextFresh_homeq (s : State) : (s.nextFresh).homeq = s.homeq := rfl
@[simp] theorem nextFresh_fired (s : State) : (s.nextFresh).fired = s.fired := rfl
@[simp] theorem nextFresh_migs (s : State) : (s.nextFresh).migs = s.migs := rfl
@[simp] theorem nextFresh_fatal (s : State) : (s.nextFresh).fatal = s.fatal := rfl
@[simp] theorem nextFresh_gttbase (s : State) : (s.nextFresh).gttbase = s.gttbase := rfl
@[simp] theorem nextFresh_asroot (s : State) : (s.nextFresh).asroot = s.asroot := rfl
@[simp] theorem nextFresh_tbivc (s : State) : (s.nextFresh).tbivc = s.tbivc := rfl
@[simp] theorem nextFresh_tbivcWord (s : State) : (s.nextFresh).tbivcWord = s.tbivcWord := rfl
@[simp] theorem nextFresh_tbivcOvr (s : State) : (s.nextFresh).tbivcOvr = s.tbivcOvr := rfl
@[simp] theorem nextFresh_boot (s : State) : (s.nextFresh).boot = s.boot := rfl
@[simp] theorem nextFresh_aspasid (s : State) : (s.nextFresh).aspasid = s.aspasid := rfl
@[simp] theorem nextFresh_peermap (s : State) : (s.nextFresh).peermap = s.peermap := rfl
@[simp] theorem nextFresh_devid (s : State) : (s.nextFresh).devid = s.devid := rfl
@[simp] theorem nextFresh_powercap (s : State) : (s.nextFresh).powercap = s.powercap := rfl
@[simp] theorem nextFresh_pstate (s : State) : (s.nextFresh).pstate = s.pstate := rfl
@[simp] theorem nextFresh_power (s : State) : (s.nextFresh).power = s.power := rfl
@[simp] theorem nextFresh_apbase (s : State) : (s.nextFresh).apbase = s.apbase := rfl
@[simp] theorem nextFresh_bar2 (s : State) : (s.nextFresh).bar2 = s.bar2 := rfl
@[simp] theorem nextFresh_access (s : State) : (s.nextFresh).access = s.access := rfl
@[simp] theorem nextFresh_msixFns (s : State) : (s.nextFresh).msixFns = s.msixFns := rfl
@[simp] theorem nextFresh_msixSent (s : State) : (s.nextFresh).msixSent = s.msixSent := rfl
@[simp] theorem nextFresh_ats (s : State) : (s.nextFresh).ats = s.ats := rfl
@[simp] theorem nextFresh_pri (s : State) : (s.nextFresh).pri = s.pri := rfl
@[simp] theorem nextFresh_denied (s : State) : (s.nextFresh).denied = s.denied := rfl
@[simp] theorem nextFresh_hostPages (s : State) : (s.nextFresh).hostPages = s.hostPages := rfl
@[simp] theorem nextFresh_ide (s : State) : (s.nextFresh).ide = s.ide := rfl
@[simp] theorem nextFresh_ports (s : State) : (s.nextFresh).ports = s.ports := rfl
@[simp] theorem nextFresh_meas (s : State) : (s.nextFresh).meas = s.meas := rfl
@[simp] theorem nextFresh_agenda (s : State) : (s.nextFresh).agenda = s.agenda := rfl
@[simp] theorem nextFresh_tick (s : State) : (s.nextFresh).tick = s.tick := rfl
@[simp] theorem nextFresh_cur (s : State) : (s.nextFresh).cur = s.cur := rfl
@[simp] theorem nextFresh_ctx (s : State) : (s.nextFresh).ctx = s.ctx := rfl
@[simp] theorem nextFresh_sig (s : State) : (s.nextFresh).sig = s.sig := rfl
@[simp] theorem nextFresh_eff (s : State) : (s.nextFresh).eff = s.eff := rfl
@[simp] theorem nextFresh_reply (s : State) : (s.nextFresh).reply = s.reply := rfl

/-! ## Units after an update -/

@[simp] theorem core_setCore (s : State) (c : Nat) (x : Core) : (s.setCore c x).core c = x := tget_tput_same _ _ _ _
theorem core_setCore_ne (s : State) {c d : Nat} (x : Core) (h : d ≠ c) : (s.setCore c x).core d = s.core d :=
  tget_tput_ne _ _ _ h
@[simp] theorem core_modCore (s : State) (c : Nat) (f : Core → Core) : (s.modCore c f).core c = f (s.core c) :=
  core_setCore _ _ _
theorem core_modCore_ne (s : State) {c d : Nat} (f : Core → Core) (h : d ≠ c) : (s.modCore c f).core d = s.core d :=
  core_setCore_ne _ _ h
@[simp] theorem die_setDie (s : State) (d : Nat) (x : Die) : (s.setDie d x).die d = x := tget_tput_same _ _ _ _
theorem die_setDie_ne (s : State) {d e : Nat} (x : Die) (h : e ≠ d) : (s.setDie d x).die e = s.die e := tget_tput_ne _ _ _ h
@[simp] theorem die_modDie (s : State) (d : Nat) (f : Die → Die) : (s.modDie d f).die d = f (s.die d) := die_setDie _ _ _
theorem die_modDie_ne (s : State) {d e : Nat} (f : Die → Die) (h : e ≠ d) : (s.modDie d f).die e = s.die e :=
  die_setDie_ne _ _ h
@[simp] theorem cluster_setCluster (s : State) (c : Nat) (x : Cluster) : (s.setCluster c x).cluster c = x :=
  tget_tput_same _ _ _ _
theorem cluster_setCluster_ne (s : State) {c d : Nat} (x : Cluster) (h : d ≠ c) :
    (s.setCluster c x).cluster d = s.cluster d := tget_tput_ne _ _ _ h
@[simp] theorem cluster_modCluster (s : State) (c : Nat) (f : Cluster → Cluster) :
    (s.modCluster c f).cluster c = f (s.cluster c) := cluster_setCluster _ _ _
theorem cluster_modCluster_ne (s : State) {c d : Nat} (f : Cluster → Cluster) (h : d ≠ c) :
    (s.modCluster c f).cluster d = s.cluster d := cluster_setCluster_ne _ _ h

@[simp] theorem die_setCore (s : State) (c : Nat) (x : Core) (i : Nat) : (s.setCore c x).die i = s.die i := rfl
@[simp] theorem cluster_setCore (s : State) (c : Nat) (x : Core) (i : Nat) : (s.setCore c x).cluster i = s.cluster i := rfl
@[simp] theorem die_modCore (s : State) (c : Nat) (f : Core → Core) (i : Nat) : (s.modCore c f).die i = s.die i := rfl
@[simp] theorem cluster_modCore (s : State) (c : Nat) (f : Core → Core) (i : Nat) : (s.modCore c f).cluster i = s.cluster i := rfl
@[simp] theorem core_setDie (s : State) (d : Nat) (x : Die) (i : Nat) : (s.setDie d x).core i = s.core i := rfl
@[simp] theorem cluster_setDie (s : State) (d : Nat) (x : Die) (i : Nat) : (s.setDie d x).cluster i = s.cluster i := rfl
@[simp] theorem core_modDie (s : State) (d : Nat) (f : Die → Die) (i : Nat) : (s.modDie d f).core i = s.core i := rfl
@[simp] theorem cluster_modDie (s : State) (d : Nat) (f : Die → Die) (i : Nat) : (s.modDie d f).cluster i = s.cluster i := rfl
@[simp] theorem core_setCluster (s : State) (c : Nat) (x : Cluster) (i : Nat) : (s.setCluster c x).core i = s.core i := rfl
@[simp] theorem die_setCluster (s : State) (c : Nat) (x : Cluster) (i : Nat) : (s.setCluster c x).die i = s.die i := rfl
@[simp] theorem core_modCluster (s : State) (c : Nat) (f : Cluster → Cluster) (i : Nat) : (s.modCluster c f).core i = s.core i := rfl
@[simp] theorem die_modCluster (s : State) (c : Nat) (f : Cluster → Cluster) (i : Nat) : (s.modCluster c f).die i = s.die i := rfl
@[simp] theorem die_mapCores (s : State) (f : Nat → Core → Core) (i : Nat) : (s.mapCores f).die i = s.die i := rfl
@[simp] theorem cluster_mapCores (s : State) (f : Nat → Core → Core) (i : Nat) : (s.mapCores f).cluster i = s.cluster i := rfl
@[simp] theorem core_mapDies (s : State) (f : Nat → Die → Die) (i : Nat) : (s.mapDies f).core i = s.core i := rfl
@[simp] theorem cluster_mapDies (s : State) (f : Nat → Die → Die) (i : Nat) : (s.mapDies f).cluster i = s.cluster i := rfl
@[simp] theorem core_mapClusters (s : State) (f : Nat → Cluster → Cluster) (i : Nat) : (s.mapClusters f).core i = s.core i := rfl
@[simp] theorem die_mapClusters (s : State) (f : Nat → Cluster → Cluster) (i : Nat) : (s.mapClusters f).die i = s.die i := rfl
@[simp] theorem die_modMe (s : State) (f : Core → Core) (i : Nat) : (s.modMe f).die i = s.die i := rfl
@[simp] theorem cluster_modMe (s : State) (f : Core → Core) (i : Nat) : (s.modMe f).cluster i = s.cluster i := rfl
@[simp] theorem die_modSl (s : State) (f : Slot → Slot) (i : Nat) : (s.modSl f).die i = s.die i := rfl
@[simp] theorem cluster_modSl (s : State) (f : Slot → Slot) (i : Nat) : (s.modSl f).cluster i = s.cluster i := rfl
@[simp] theorem die_push (s : State) (e : InFl) (i : Nat) : (s.push e).die i = s.die i := rfl
@[simp] theorem cluster_push (s : State) (e : InFl) (i : Nat) : (s.push e).cluster i = s.cluster i := rfl
@[simp] theorem core_nextFresh (s : State) (i : Nat) : s.nextFresh.core i = s.core i := rfl
@[simp] theorem die_nextFresh (s : State) (i : Nat) : s.nextFresh.die i = s.die i := rfl
@[simp] theorem cluster_nextFresh (s : State) (i : Nat) : s.nextFresh.cluster i = s.cluster i := rfl

/-! ## The executing core and its slot -/

@[simp] theorem me_setCore (s : State) (x : Core) : (s.setCore s.cur x).me = x := core_setCore _ _ _
@[simp] theorem me_modMe (s : State) (f : Core → Core) : (s.modMe f).me = f s.me := core_setCore _ _ _
theorem core_modMe_ne (s : State) {c : Nat} (f : Core → Core) (h : c ≠ s.cur) : (s.modMe f).core c = s.core c :=
  core_setCore_ne _ _ h
@[simp] theorem me_push (s : State) (e : InFl) : (s.push e).me = { s.me with inflight := s.me.inflight ++ [e] } := me_modMe _ _

/-! ## Slots of a core -/

@[simp] theorem slotOf_setSlotOf (k : Core) (b : Bool) (x : Slot) : (k.setSlotOf b x).slotOf b = x := by cases b <;> rfl
theorem slotOf_setSlotOf_ne (k : Core) {b c : Bool} (x : Slot) (h : c ≠ b) : (k.setSlotOf b x).slotOf c = k.slotOf c := by
  cases b <;> cases c <;> first | rfl | exact absurd rfl h
@[simp] theorem slot_eq (k : Core) : k.slotOf k.ctx = k.slot := rfl
@[simp] theorem ctx_setSlotOf (k : Core) (b : Bool) (x : Slot) : (k.setSlotOf b x).ctx = k.ctx := by cases b <;> rfl
@[simp] theorem ctx_setSlot (k : Core) (x : Slot) : (k.setSlot x).ctx = k.ctx := ctx_setSlotOf _ _ _
@[simp] theorem slot_setSlot (k : Core) (x : Slot) : (k.setSlot x).slot = x := by
  unfold Core.setSlot Core.setSlotOf Core.slot
  cases k.ctx <;> rfl
@[simp] theorem sl_modSl (s : State) (f : Slot → Slot) : (s.modSl f).sl = f s.sl := by
  show ((s.modMe fun c => c.setSlot (f s.sl)).me).slot = _
  simp
@[simp] theorem sl_push (s : State) (e : InFl) : (s.push e).sl = s.sl := by
  show (s.push e).me.slot = s.me.slot
  rw [me_push]
  rfl

@[simp] theorem setSlotOf_bs (k : Core) (b : Bool) (x : Slot) : (k.setSlotOf b x).bs = k.bs := by cases b <;> rfl
@[simp] theorem setSlot_bs (k : Core) (x : Slot) : (k.setSlot x).bs = k.bs := setSlotOf_bs _ _ _
@[simp] theorem setSlotOf_bv (k : Core) (b : Bool) (x : Slot) : (k.setSlotOf b x).bv = k.bv := by cases b <;> rfl
@[simp] theorem setSlot_bv (k : Core) (x : Slot) : (k.setSlot x).bv = k.bv := setSlotOf_bv _ _ _
@[simp] theorem setSlotOf_bl (k : Core) (b : Bool) (x : Slot) : (k.setSlotOf b x).bl = k.bl := by cases b <;> rfl
@[simp] theorem setSlot_bl (k : Core) (x : Slot) : (k.setSlot x).bl = k.bl := setSlotOf_bl _ _ _
@[simp] theorem setSlotOf_bx (k : Core) (b : Bool) (x : Slot) : (k.setSlotOf b x).bx = k.bx := by cases b <;> rfl
@[simp] theorem setSlot_bx (k : Core) (x : Slot) : (k.setSlot x).bx = k.bx := setSlotOf_bx _ _ _
@[simp] theorem setSlotOf_inflight (k : Core) (b : Bool) (x : Slot) : (k.setSlotOf b x).inflight = k.inflight := by cases b <;> rfl
@[simp] theorem setSlot_inflight (k : Core) (x : Slot) : (k.setSlot x).inflight = k.inflight := setSlotOf_inflight _ _ _
@[simp] theorem setSlotOf_cycle (k : Core) (b : Bool) (x : Slot) : (k.setSlotOf b x).cycle = k.cycle := by cases b <;> rfl
@[simp] theorem setSlot_cycle (k : Core) (x : Slot) : (k.setSlot x).cycle = k.cycle := setSlotOf_cycle _ _ _
@[simp] theorem setSlotOf_tvec (k : Core) (b : Bool) (x : Slot) : (k.setSlotOf b x).tvec = k.tvec := by cases b <;> rfl
@[simp] theorem setSlot_tvec (k : Core) (x : Slot) : (k.setSlot x).tvec = k.tvec := setSlotOf_tvec _ _ _
@[simp] theorem setSlotOf_tfbase (k : Core) (b : Bool) (x : Slot) : (k.setSlotOf b x).tfbase = k.tfbase := by cases b <;> rfl
@[simp] theorem setSlot_tfbase (k : Core) (x : Slot) : (k.setSlot x).tfbase = k.tfbase := setSlotOf_tfbase _ _ _
@[simp] theorem setSlotOf_tcause (k : Core) (b : Bool) (x : Slot) : (k.setSlotOf b x).tcause = k.tcause := by cases b <;> rfl
@[simp] theorem setSlot_tcause (k : Core) (x : Slot) : (k.setSlot x).tcause = k.tcause := setSlotOf_tcause _ _ _
@[simp] theorem setSlotOf_tepc (k : Core) (b : Bool) (x : Slot) : (k.setSlotOf b x).tepc = k.tepc := by cases b <;> rfl
@[simp] theorem setSlot_tepc (k : Core) (x : Slot) : (k.setSlot x).tepc = k.tepc := setSlotOf_tepc _ _ _
@[simp] theorem setSlotOf_tval (k : Core) (b : Bool) (x : Slot) : (k.setSlotOf b x).tval = k.tval := by cases b <;> rfl
@[simp] theorem setSlot_tval (k : Core) (x : Slot) : (k.setSlot x).tval = k.tval := setSlotOf_tval _ _ _
@[simp] theorem setSlotOf_tscr (k : Core) (b : Bool) (x : Slot) : (k.setSlotOf b x).tscr = k.tscr := by cases b <;> rfl
@[simp] theorem setSlot_tscr (k : Core) (x : Slot) : (k.setSlot x).tscr = k.tscr := setSlotOf_tscr _ _ _
@[simp] theorem setSlotOf_ayctl (k : Core) (b : Bool) (x : Slot) : (k.setSlotOf b x).ayctl = k.ayctl := by cases b <;> rfl
@[simp] theorem setSlot_ayctl (k : Core) (x : Slot) : (k.setSlot x).ayctl = k.ayctl := setSlotOf_ayctl _ _ _
@[simp] theorem setSlotOf_flags (k : Core) (b : Bool) (x : Slot) : (k.setSlotOf b x).flags = k.flags := by cases b <;> rfl
@[simp] theorem setSlot_flags (k : Core) (x : Slot) : (k.setSlot x).flags = k.flags := setSlotOf_flags _ _ _
@[simp] theorem setSlotOf_posts (k : Core) (b : Bool) (x : Slot) : (k.setSlotOf b x).posts = k.posts := by cases b <;> rfl
@[simp] theorem setSlot_posts (k : Core) (x : Slot) : (k.setSlot x).posts = k.posts := setSlotOf_posts _ _ _
@[simp] theorem setSlotOf_rposts (k : Core) (b : Bool) (x : Slot) : (k.setSlotOf b x).rposts = k.rposts := by cases b <;> rfl
@[simp] theorem setSlot_rposts (k : Core) (x : Slot) : (k.setSlot x).rposts = k.rposts := setSlotOf_rposts _ _ _
@[simp] theorem setSlotOf_deferred (k : Core) (b : Bool) (x : Slot) : (k.setSlotOf b x).deferred = k.deferred := by cases b <;> rfl
@[simp] theorem setSlot_deferred (k : Core) (x : Slot) : (k.setSlot x).deferred = k.deferred := setSlotOf_deferred _ _ _
@[simp] theorem setSlotOf_chans (k : Core) (b : Bool) (x : Slot) : (k.setSlotOf b x).chans = k.chans := by cases b <;> rfl
@[simp] theorem setSlot_chans (k : Core) (x : Slot) : (k.setSlot x).chans = k.chans := setSlotOf_chans _ _ _
@[simp] theorem setSlotOf_shrows (k : Core) (b : Bool) (x : Slot) : (k.setSlotOf b x).shrows = k.shrows := by cases b <;> rfl
@[simp] theorem setSlot_shrows (k : Core) (x : Slot) : (k.setSlot x).shrows = k.shrows := setSlotOf_shrows _ _ _
@[simp] theorem setSlotOf_pubs (k : Core) (b : Bool) (x : Slot) : (k.setSlotOf b x).pubs = k.pubs := by cases b <;> rfl
@[simp] theorem setSlot_pubs (k : Core) (x : Slot) : (k.setSlot x).pubs = k.pubs := setSlotOf_pubs _ _ _
@[simp] theorem setSlotOf_mq (k : Core) (b : Bool) (x : Slot) : (k.setSlotOf b x).mq = k.mq := by cases b <;> rfl
@[simp] theorem setSlot_mq (k : Core) (x : Slot) : (k.setSlot x).mq = k.mq := setSlotOf_mq _ _ _
@[simp] theorem setSlotOf_mkept (k : Core) (b : Bool) (x : Slot) : (k.setSlotOf b x).mkept = k.mkept := by cases b <;> rfl
@[simp] theorem setSlot_mkept (k : Core) (x : Slot) : (k.setSlot x).mkept = k.mkept := setSlotOf_mkept _ _ _
@[simp] theorem setSlotOf_ckept (k : Core) (b : Bool) (x : Slot) : (k.setSlotOf b x).ckept = k.ckept := by cases b <;> rfl
@[simp] theorem setSlot_ckept (k : Core) (x : Slot) : (k.setSlot x).ckept = k.ckept := setSlotOf_ckept _ _ _
@[simp] theorem setSlotOf_mdue (k : Core) (b : Bool) (x : Slot) : (k.setSlotOf b x).mdue = k.mdue := by cases b <;> rfl
@[simp] theorem setSlot_mdue (k : Core) (x : Slot) : (k.setSlot x).mdue = k.mdue := setSlotOf_mdue _ _ _
@[simp] theorem setSlotOf_dkept (k : Core) (b : Bool) (x : Slot) : (k.setSlotOf b x).dkept = k.dkept := by cases b <;> rfl
@[simp] theorem setSlot_dkept (k : Core) (x : Slot) : (k.setSlot x).dkept = k.dkept := setSlotOf_dkept _ _ _
@[simp] theorem setSlotOf_qkept (k : Core) (b : Bool) (x : Slot) : (k.setSlotOf b x).qkept = k.qkept := by cases b <;> rfl
@[simp] theorem setSlot_qkept (k : Core) (x : Slot) : (k.setSlot x).qkept = k.qkept := setSlotOf_qkept _ _ _
@[simp] theorem setSlotOf_assay (k : Core) (b : Bool) (x : Slot) : (k.setSlotOf b x).assay = k.assay := by cases b <;> rfl
@[simp] theorem setSlot_assay (k : Core) (x : Slot) : (k.setSlot x).assay = k.assay := setSlotOf_assay _ _ _
@[simp] theorem setSlotOf_xpose (k : Core) (b : Bool) (x : Slot) : (k.setSlotOf b x).xpose = k.xpose := by cases b <;> rfl
@[simp] theorem setSlot_xpose (k : Core) (x : Slot) : (k.setSlot x).xpose = k.xpose := setSlotOf_xpose _ _ _
@[simp] theorem setSlotOf_monitor (k : Core) (b : Bool) (x : Slot) : (k.setSlotOf b x).monitor = k.monitor := by cases b <;> rfl
@[simp] theorem setSlot_monitor (k : Core) (x : Slot) : (k.setSlot x).monitor = k.monitor := setSlotOf_monitor _ _ _
@[simp] theorem setSlotOf_monitorHit (k : Core) (b : Bool) (x : Slot) : (k.setSlotOf b x).monitorHit = k.monitorHit := by cases b <;> rfl
@[simp] theorem setSlot_monitorHit (k : Core) (x : Slot) : (k.setSlot x).monitorHit = k.monitorHit := setSlotOf_monitorHit _ _ _
@[simp] theorem setSlotOf_signals (k : Core) (b : Bool) (x : Slot) : (k.setSlotOf b x).signals = k.signals := by cases b <;> rfl
@[simp] theorem setSlot_signals (k : Core) (x : Slot) : (k.setSlot x).signals = k.signals := setSlotOf_signals _ _ _
@[simp] theorem setSlotOf_withheld (k : Core) (b : Bool) (x : Slot) : (k.setSlotOf b x).withheld = k.withheld := by cases b <;> rfl
@[simp] theorem setSlot_withheld (k : Core) (x : Slot) : (k.setSlot x).withheld = k.withheld := setSlotOf_withheld _ _ _
@[simp] theorem setSlotOf_journal (k : Core) (b : Bool) (x : Slot) : (k.setSlotOf b x).journal = k.journal := by cases b <;> rfl
@[simp] theorem setSlot_journal (k : Core) (x : Slot) : (k.setSlot x).journal = k.journal := setSlotOf_journal _ _ _
@[simp] theorem setSlotOf_fjournal (k : Core) (b : Bool) (x : Slot) : (k.setSlotOf b x).fjournal = k.fjournal := by cases b <;> rfl
@[simp] theorem setSlot_fjournal (k : Core) (x : Slot) : (k.setSlot x).fjournal = k.fjournal := setSlotOf_fjournal _ _ _
@[simp] theorem setSlotOf_jfull (k : Core) (b : Bool) (x : Slot) : (k.setSlotOf b x).jfull = k.jfull := by cases b <;> rfl
@[simp] theorem setSlot_jfull (k : Core) (x : Slot) : (k.setSlot x).jfull = k.jfull := setSlotOf_jfull _ _ _
@[simp] theorem setSlotOf_resid (k : Core) (b : Bool) (x : Slot) : (k.setSlotOf b x).resid = k.resid := by cases b <;> rfl
@[simp] theorem setSlot_resid (k : Core) (x : Slot) : (k.setSlot x).resid = k.resid := setSlotOf_resid _ _ _
@[simp] theorem setSlotOf_sfu (k : Core) (b : Bool) (x : Slot) : (k.setSlotOf b x).sfu = k.sfu := by cases b <;> rfl
@[simp] theorem setSlot_sfu (k : Core) (x : Slot) : (k.setSlot x).sfu = k.sfu := setSlotOf_sfu _ _ _
@[simp] theorem setSlotOf_freeze (k : Core) (b : Bool) (x : Slot) : (k.setSlotOf b x).freeze = k.freeze := by cases b <;> rfl
@[simp] theorem setSlot_freeze (k : Core) (x : Slot) : (k.setSlot x).freeze = k.freeze := setSlotOf_freeze _ _ _
@[simp] theorem setSlotOf_hold (k : Core) (b : Bool) (x : Slot) : (k.setSlotOf b x).hold = k.hold := by cases b <;> rfl
@[simp] theorem setSlot_hold (k : Core) (x : Slot) : (k.setSlot x).hold = k.hold := setSlotOf_hold _ _ _
@[simp] theorem setSlotOf_trapping (k : Core) (b : Bool) (x : Slot) : (k.setSlotOf b x).trapping = k.trapping := by cases b <;> rfl
@[simp] theorem setSlot_trapping (k : Core) (x : Slot) : (k.setSlot x).trapping = k.trapping := setSlotOf_trapping _ _ _
@[simp] theorem setSlotOf_returning (k : Core) (b : Bool) (x : Slot) : (k.setSlotOf b x).returning = k.returning := by cases b <;> rfl
@[simp] theorem setSlot_returning (k : Core) (x : Slot) : (k.setSlot x).returning = k.returning := setSlotOf_returning _ _ _
@[simp] theorem setSlotOf_marks (k : Core) (b : Bool) (x : Slot) : (k.setSlotOf b x).marks = k.marks := by cases b <;> rfl
@[simp] theorem setSlot_marks (k : Core) (x : Slot) : (k.setSlot x).marks = k.marks := setSlotOf_marks _ _ _
@[simp] theorem setSlotOf_rdzSeen (k : Core) (b : Bool) (x : Slot) : (k.setSlotOf b x).rdzSeen = k.rdzSeen := by cases b <;> rfl
@[simp] theorem setSlot_rdzSeen (k : Core) (x : Slot) : (k.setSlot x).rdzSeen = k.rdzSeen := setSlotOf_rdzSeen _ _ _
@[simp] theorem setSlotOf_preempt (k : Core) (b : Bool) (x : Slot) : (k.setSlotOf b x).preempt = k.preempt := by cases b <;> rfl
@[simp] theorem setSlot_preempt (k : Core) (x : Slot) : (k.setSlot x).preempt = k.preempt := setSlotOf_preempt _ _ _
@[simp] theorem setSlotOf_sel (k : Core) (b : Bool) (x : Slot) : (k.setSlotOf b x).sel = k.sel := by cases b <;> rfl
@[simp] theorem setSlot_sel (k : Core) (x : Slot) : (k.setSlot x).sel = k.sel := setSlotOf_sel _ _ _
@[simp] theorem setSlotOf_evc (k : Core) (b : Bool) (x : Slot) : (k.setSlotOf b x).evc = k.evc := by cases b <;> rfl
@[simp] theorem setSlot_evc (k : Core) (x : Slot) : (k.setSlot x).evc = k.evc := setSlotOf_evc _ _ _
@[simp] theorem setSlotOf_evset (k : Core) (b : Bool) (x : Slot) : (k.setSlotOf b x).evset = k.evset := by cases b <;> rfl
@[simp] theorem setSlot_evset (k : Core) (x : Slot) : (k.setSlot x).evset = k.evset := setSlotOf_evset _ _ _
@[simp] theorem setSlotOf_l1 (k : Core) (b : Bool) (x : Slot) : (k.setSlotOf b x).l1 = k.l1 := by cases b <;> rfl
@[simp] theorem setSlot_l1 (k : Core) (x : Slot) : (k.setSlot x).l1 = k.l1 := setSlotOf_l1 _ _ _
@[simp] theorem setSlotOf_icache (k : Core) (b : Bool) (x : Slot) : (k.setSlotOf b x).icache = k.icache := by cases b <;> rfl
@[simp] theorem setSlot_icache (k : Core) (x : Slot) : (k.setSlot x).icache = k.icache := setSlotOf_icache _ _ _
@[simp] theorem setSlotOf_mcache (k : Core) (b : Bool) (x : Slot) : (k.setSlotOf b x).mcache = k.mcache := by cases b <;> rfl
@[simp] theorem setSlot_mcache (k : Core) (x : Slot) : (k.setSlot x).mcache = k.mcache := setSlotOf_mcache _ _ _
@[simp] theorem setSlotOf_local_ (k : Core) (b : Bool) (x : Slot) : (k.setSlotOf b x).local_ = k.local_ := by cases b <;> rfl
@[simp] theorem setSlot_local_ (k : Core) (x : Slot) : (k.setSlot x).local_ = k.local_ := setSlotOf_local_ _ _ _
@[simp] theorem setSlotOf_useq (k : Core) (b : Bool) (x : Slot) : (k.setSlotOf b x).useq = k.useq := by cases b <;> rfl
@[simp] theorem setSlot_useq (k : Core) (x : Slot) : (k.setSlot x).useq = k.useq := setSlotOf_useq _ _ _

end Sys2Proof.Machine
end

