-- ==== Sys2Proof/Laws/Results.lean ====
section
/-!
SUPPORT. Laws/Results.lean: results on their way: what each deliver gives, what a sending keeps, and what the checks and
the release operation can answer.
-/
namespace Sys2Proof.Machine

/-! ## Each deliver is a sending of one result -/

theorem push_eq (s : State) (e : InFl) : s.push e = s.sending [e] := rfl

theorem deliverS_eq (s : State) (d : Dst) (x : Word) (n : Nat) (g : Lat) :
    s.deliverS d x n g = s.sending [scalarTo s d n g x] := rfl
theorem deliverSN_eq (s : State) (d : BitVec 5) (b : Bool) (x : Word) (n : Nat) :
    s.deliverSN d b x n = s.sending [scalarOnly s d b n x] := rfl
theorem deliverV_eq (s : State) (d : Dst) (x : Row) (m : LaneMask) (n : Nat) (g : Lat) :
    s.deliverV d x m n g = s.sending [vectorTo s d n g x m] := rfl
theorem deliverVN_eq (s : State) (r : BitVec 5) (x : Row) (m : LaneMask) (n : Nat) :
    s.deliverVN false r x m n = s.sending [vectorOnly s r n x m] := rfl
theorem deliverP_eq (s : State) (d : BitVec 3) (x : Bool) (n : Nat) : s.deliverP d x n = s.sending [predTo s d n x] := rfl
theorem deliverM_eq (s : State) (d : BitVec 3) (x : LaneMask) (n : Nat) : s.deliverM d x n = s.sending [maskTo s d n x] := rfl

/-- Two sendings are one. -/
theorem sending_sending (s : State) (l m : List InFl) : (s.sending l).sending m = s.sending (l ++ m) := by
  simp [State.sending, State.modMe, State.setMe, State.setCore, State.me, State.core, tget_tput_same, tput_tput,
    List.append_assoc]

/-! ## What a sending keeps -/

@[simp] theorem sending_cur (s : State) (l : List InFl) : (s.sending l).cur = s.cur := rfl
@[simp] theorem sending_ctx (s : State) (l : List InFl) : (s.sending l).ctx = s.ctx := rfl
@[simp] theorem sending_sig (s : State) (l : List InFl) : (s.sending l).sig = s.sig := rfl
@[simp] theorem sending_eff (s : State) (l : List InFl) : (s.sending l).eff = s.eff := rfl
@[simp] theorem sending_mem (s : State) (l : List InFl) : (s.sending l).mem = s.mem := rfl
@[simp] theorem sending_dies (s : State) (l : List InFl) : (s.sending l).dies = s.dies := rfl

@[simp] theorem sending_me (s : State) (l : List InFl) :
    (s.sending l).me = { s.me with inflight := s.me.inflight ++ l } := by
  simp [State.sending, State.modMe, State.setMe, State.setCore, State.me, State.core, tget_tput_same]

@[simp] theorem sending_sl (s : State) (l : List InFl) : (s.sending l).sl = s.sl := by
  simp only [State.sl, sending_me, Core.slot]

theorem sending_units (s : State) (l : List InFl) : UnitsKept s (s.sending l) := by
  simp [UnitsKept, State.sending, State.modMe, State.setMe, State.setCore]

theorem sending_others (s : State) (l : List InFl) : OthersKept s (s.sending l) :=
  ⟨rfl, fun _ h => tget_tput_ne _ _ _ h⟩

theorem sending_regs (s : State) (l : List InFl) : RegsKept s.sl (s.sending l).sl := by simp [RegsKept]

theorem sending_control (s : State) (l : List InFl) : ControlKept s.me (s.sending l).me := by simp [ControlKept]

/-- A result on its way does not depend on what else is on its way. -/
theorem resultOf_sending (s : State) (l : List InFl) (n : Nat) (f : RFile) (r : BitVec 5) (g : Lat) (b : Bool) (v : Row)
    (m : LaneMask) : resultOf (s.sending l) n f r g b v m = resultOf s n f r g b v m := rfl

/-! ## What follows from giving results -/

/-- An instruction that gives results changes no unit, no other core, no register and no control register. -/
theorem gives_frame {s t : State} {o : Out} {l : List InFl} (h : Gives s o l) (ht : o = .next t) :
    UnitsKept s t ∧ OthersKept s t ∧ RegsKept s.sl t.sl ∧ ControlKept s.me t.me := by
  obtain rfl : s.sending l = t := by simpa [Gives] using h.symm.trans ht
  exact ⟨sending_units s l, sending_others s l, sending_regs s l, sending_control s l⟩

/-! ## Checks, refusals by trap, and the release operation -/

/-- A check either traps with its cause or lets the rest go on. -/
theorem orTrap_cases (f : Fail) (s : State) (k : Unit → Out) :
    (f = none ∧ orTrap f s k = k ()) ∨
    ∃ c v, f = some (c, v) ∧ orTrap f s k = .next (s.trap c (BitVec.ofNat 64 v) 2) := by
  cases f with
  | none => exact .inl ⟨rfl, rfl⟩
  | some e => exact .inr ⟨e.1, e.2, rfl, rfl⟩

@[simp] theorem orTrap_none (s : State) (k : Unit → Out) : orTrap none s k = k () := rfl
@[simp] theorem failIf_false (c : BitVec 16) (v : Nat) : failIf false c v = none := rfl
@[simp] theorem failIf_true (c : BitVec 16) (v : Nat) : failIf true c v = some (c, v) := rfl

/-- A release operation acts on the state that it has published. -/
theorem afterRelease_eq (s : State) (k : State → Out) : afterRelease s k = k (publishOp s) := rfl

/-- At supervisor level a release operation publishes nothing and takes no checkpoint (R349). -/
theorem publishOp_sup {s : State} (h : s.sl.sup = true) : publishOp s = s := by simp [publishOp, askCkpt, h]

/-- Whether the executing slot's wait has ended with its condition met in an earlier cycle of its bundle (R41). -/
abbrev WaitMet (s : State) : Prop := (s.me.hold.any fun h => h.met.contains s.ctx.place) = true

/-- A wait passes, runs out, or holds its bundle; one that has met its condition has passed. -/
theorem waitTest_cases (s : State) (n : Nat) (b : Bool) :
    (WaitMet s ∧ waitTest s n b = some false) ∨
    (b = true ∧ waited s.me ≤ n ∧ waitTest s n b = some false) ∨
    (n ≤ waited s.me ∧ (b = false ∨ n < waited s.me) ∧ waitTest s n b = some true) ∨
    (b = false ∧ waited s.me < n ∧ waitTest s n b = none) := by
  unfold waitTest
  by_cases hm : WaitMet s
  · exact .inl ⟨hm, by simp_all [WaitMet]⟩
  · have hm : (s.me.hold.any fun h => h.met.contains s.ctx.place) = false := by simpa [WaitMet] using hm
    refine .inr ?_
    simp only [hm]
    cases b
    · by_cases h : n ≤ waited s.me
      · exact .inr (.inl ⟨h, .inl rfl, by simp [h]⟩)
      · exact .inr (.inr ⟨rfl, by omega, by simp [h]⟩)
    · by_cases h : waited s.me ≤ n
      · exact .inl ⟨rfl, h, by simp [h]⟩
      · exact .inr (.inl ⟨by omega, .inr (by omega), by simp [h]; omega⟩)

end Sys2Proof.Machine
end

