-- ==== Sys2Proof/Laws/Vector.lean ====
section
/-!
SUPPORT. Laws/Vector.lean: what the shared operations of the vector pipes give, lane by lane.
-/
namespace Sys2Proof.Machine

theorem width_cases (t : LaneT) : t.width = 64 ∨ t.width = 32 ∨ t.width = 16 ∨ t.width = 8 := by
  cases t <;> simp [LaneT.width]

/-- Lane `i` of a row whose width divides it ends inside the row. -/
theorem lane_fits {w i : Nat} (h : i < 2048 / w) : w * (i + 1) ≤ 2048 :=
  le_trans (Nat.mul_le_mul_left w h) (Nat.mul_div_le 2048 w)

@[simp] theorem length_lanes (w : Nat) (r : Row) : (lanes w r).length = 2048 / w := by simp [lanes]

theorem getD_lanes {w i : Nat} (r : Row) (d : Nat) (h : i < 2048 / w) : (lanes w r).getD i d = laneN r i w := by
  simp [lanes, h]

theorem lanes_eq_map (w : Nat) (r : Row) : lanes w r = (List.range (2048 / w)).map fun i => laneN r i w := rfl

/-- Two rows of lanes combined lane by lane. -/
theorem zip_lanes {β : Type} (w : Nat) (r t : Row) (f : Nat × Nat → β) :
    ((lanes w r).zip (lanes w t)).map f = (List.range (2048 / w)).map fun i => f (laneN r i w, laneN t i w) := by
  simp [lanes, List.zip_map', Function.comp_def]

/-- A row result puts its lanes, and the causes of the active ones, on their way. -/
theorem vecRes_gives (s : State) (d : Dst) (w lat : Nat) (f : Nat → Nat × List Cause) :
    GivesLanes s (vecRes d w lat ((List.range (2048 / w)).map f) s) d w lat f := by
  refine ⟨rowOf w (((List.range (2048 / w)).map f).map Prod.fst), fun i h => ?_, ?_⟩
  · rw [laneN_rowOf _ (lane_fits h)]
    simp [h]
  · simp [vecRes, GivesWith, State.deliverV, State.push, State.sending, vectorTo, resultOf, mkIn, Function.comp_def]

theorem rowRes_gives (s : State) (d : Dst) (w : Nat) (f : Nat → Nat) :
    GivesRow s (rowRes d w (rowOf w ((List.range (2048 / w)).map f)) s) d w 2 f := by
  refine ⟨rowOf w ((List.range (2048 / w)).map f), fun i h => ?_, ?_⟩
  · rw [laneN_rowOf _ (lane_fits h)]
    simp [h]
  · simp [rowRes, Gives, State.deliverV, State.push, State.sending, vectorTo, resultOf, mkIn]

end Sys2Proof.Machine
end

