-- ==== Sys2Proof/Tests/Slice0.lean ====
section
/-!
SUPPORT. Slice0.lean: the author's tests. Words of the opcode table decode to their instructions; ill-formed terms are
refused; one step of each instruction and each happening on small states, with results that stand in the specification or are
worked out from it; and, for every statement of Obligations.lean that has hypotheses, a state and operands that meet them.
-/

open Sys2Proof Sys2Proof.Machine
namespace Sys2Proof.Tests

set_option Elab.async false

/-- Core 0 runs task 0 in a bundle of four words at 0x100, its lanes all active. -/
def base : State :=
  { State.reset with
    boot := .ready
    ctx := ⟨0x100, 0x100, 0x110, 4, 1, 0, .core, BitVec.allOnes 128, 0⟩ }.modSl fun sl => { sl with
      task := some 0
      pc := 0x100 }
def regs (l : List (BitVec 5 × Word)) (s : State := base) : State := s.modSl fun sl => l.foldl (fun a e => setS a e.1 e.2) sl
def after (o : Out) : State :=
  match o with
  | .next t => t
  | _ => .reset
/-- The results an instruction puts on their way: register, latency, value. -/
def sent (i : Instr) (s : State) : List (Nat × Nat × Nat) :=
  (after (exec i s)).me.inflight.map fun e => (e.reg.toNat, e.delay, e.value.toNat)
def value (i : Instr) (s : State) : Nat := ((sent i s).headD (0, 0, 0)).2.2
def g0 : Guard := ⟨false, 0⟩
def d1 : Dst := ⟨false, 1⟩
/-- The first 16 GiB mapped to themselves, for every access. -/
def mapped (s : State := base) : State :=
  s.modCluster 0 fun x => { x with tlb := [⟨0, 0, 34, 0, true, true, true, true, 0⟩] }

theorem test_decodeInteger1 :
  decodeSlot 0x0105F16C [] = .ok (.add ⟨⟨true, 3⟩, ⟨false, 1⟩, .reg 31, .src (.reg 5)⟩) ∧
  decodeSlot 0x018A1001 [0x5, 0x7] = .ok (.sub ⟨⟨false, 0⟩, ⟨true, 2⟩, .one, .imm [5, 7]⟩) ∧
  decodeSlot 0x010DD1EE [] = .ok (.adds ⟨⟨true, 3⟩, ⟨false, 3⟩, .reg 29, .src (.reg 7)⟩) ∧
  decodeSlot 0x0111C22F [] = .ok (.mul ⟨⟨true, 3⟩, ⟨false, 4⟩, .reg 28, .src (.reg 8)⟩) ∧
  decodeSlot 0x0215B26C [] = .ok (.mulh ⟨⟨true, 3⟩, ⟨false, 5⟩, .reg 27, .src (.reg 9)⟩) ∧
  decodeSlot 0x0219A2AD [] = .ok (.mulhu ⟨⟨true, 3⟩, ⟨false, 6⟩, .reg 26, .src (.reg 10)⟩) ∧
  decodeSlot 0x021D92EE [] = .ok (.min ⟨⟨true, 3⟩, ⟨false, 7⟩, .reg 25, .src (.reg 11)⟩) ∧
  decodeSlot 0x0221832F [] = .ok (.max ⟨⟨true, 3⟩, ⟨false, 8⟩, .reg 24, .src (.reg 12)⟩) ∧
  decodeSlot 0x0325736C [] = .ok (.minu ⟨⟨true, 3⟩, ⟨false, 9⟩, .reg 23, .src (.reg 13)⟩) ∧
  decodeSlot 0x032963AD [] = .ok (.maxu ⟨⟨true, 3⟩, ⟨false, 10⟩, .reg 22, .src (.reg 14)⟩) ∧
  decodeSlot 0x032D53EE [] = .ok (.and ⟨⟨true, 3⟩, ⟨false, 11⟩, .reg 21, .src (.reg 15)⟩) ∧
  decodeSlot 0x0331442F [] = .ok (.or ⟨⟨true, 3⟩, ⟨false, 12⟩, .reg 20, .src (.reg 16)⟩) := by decide

theorem test_decodeInteger2 :
  decodeSlot 0x0435346C [] = .ok (.xor ⟨⟨true, 3⟩, ⟨false, 13⟩, .reg 19, .src (.reg 17)⟩) ∧
  decodeSlot 0x043924AD [] = .ok (.andn ⟨⟨true, 3⟩, ⟨false, 14⟩, .reg 18, .src (.reg 18)⟩) ∧
  decodeSlot 0x043D14EE [] = .ok (.shl ⟨⟨true, 3⟩, ⟨false, 15⟩, .reg 17, .src (.reg 19)⟩) ∧
  decodeSlot 0x0441052F [] = .ok (.shr ⟨⟨true, 3⟩, ⟨false, 16⟩, .reg 16, .src (.reg 20)⟩) ∧
  decodeSlot 0x0544F56C [] = .ok (.sar ⟨⟨true, 3⟩, ⟨false, 17⟩, .reg 15, .src (.reg 21)⟩) ∧
  decodeSlot 0x0548E5AD [] = .ok (.rot ⟨⟨true, 3⟩, ⟨false, 18⟩, .reg 14, .src (.reg 22)⟩) ∧
  decodeSlot 0x0506202E [] = .ok (.clz ⟨⟨true, 3⟩, ⟨false, 1⟩, .negOne⟩) ∧
  decodeSlot 0x050A202F [] = .ok (.popc ⟨⟨true, 3⟩, ⟨false, 2⟩, .negOne⟩) ∧
  decodeSlot 0x060E202C [] = .ok (.brev ⟨⟨true, 3⟩, ⟨false, 3⟩, .negOne⟩) ∧
  decodeSlot 0x06240001 [0x7fffffff] = .ok (.movi ⟨⟨false, 0⟩, ⟨false, 9⟩, .imm [0x7FFFFFFF]⟩) := by decide

theorem test_decodeScalar1 :
  decodeSlot 0x071C1924 [] = .ok (.cmp ⟨.geu, 7, .reg 1, .src .two⟩) ∧
  decodeSlot 0x087E5C6C [] = .ok (.sel ⟨⟨true, 3⟩, ⟨false, 31⟩, .lane, .src (.latch .bs 1)⟩) ∧
  decodeSlot 0x090421EC [] = .ok (.pand ⟨⟨true, 3⟩, 1, 2, 7⟩) ∧
  decodeSlot 0x090421ED [] = .ok (.por ⟨⟨true, 3⟩, 1, 2, 7⟩) ∧
  decodeSlot 0x090421EE [] = .ok (.pxor ⟨⟨true, 3⟩, 1, 2, 7⟩) ∧
  decodeSlot 0x0904202F [] = .ok (.pnot ⟨⟨true, 3⟩, 1, 2⟩) ∧
  decodeSlot 0x0A0E3EE0 [] = .ok (.sfadd ⟨.rna, ⟨false, 3⟩, .half, .src (.latch .bl 3)⟩) ∧
  decodeSlot 0x0A0E3EE1 [] = .ok (.sfmul ⟨.rna, ⟨false, 3⟩, .half, .src (.latch .bl 3)⟩) ∧
  decodeSlot 0x0A0E3EE2 [] = .ok (.sfma ⟨.rna, ⟨false, 3⟩, .half, .src (.latch .bl 3)⟩) ∧
  decodeSlot 0x0B08109C [] = .ok (.sfcmp ⟨.ord, 2, .reg 1, .src (.reg 2)⟩) ∧
  decodeSlot 0x0C80402C [] = .ok (.sfcvt ⟨.satrne, .f64ToF32, ⟨true, 0⟩, .reg 4⟩) ∧
  decodeSlot 0x0D056000 [] = .ok (.mfc ⟨⟨false, 1⟩, .ayctl⟩) := by decide

theorem test_decodeScalar2 :
  decodeSlot 0x0D0040C1 [] = .ok (.mtc ⟨.mpc, .src (.reg 3)⟩) ∧
  decodeSlot 0x0D100002 [] = .ok (.rdwid ⟨⟨false, 4⟩⟩) := by decide

theorem test_decodeControl1 :
  decodeSlot 0x1040106C [] = .ok (.br ⟨⟨true, 3⟩, .rel 0x10041⟩) ∧
  decodeSlot 0x10000000 [0x1000, 0x1, 0x0] = .ok (.br ⟨⟨false, 0⟩, .abs [0x1000, 1, 0]⟩) ∧
  decodeSlot 0x117C20E8 [] = .ok (.brc ⟨.lez, .reg 2, 0x7C3⟩) ∧
  decodeSlot 0x1217F040 [] = .ok (.call ⟨⟨false, 5⟩, .rel 0xFC1⟩) ∧
  decodeSlot 0x1300702C [] = .ok (.jmpr ⟨⟨true, 3⟩, .reg 7⟩) ∧
  decodeSlot 0x13008001 [] = .ok (.ret ⟨.reg 8⟩) ∧
  decodeSlot 0x14043240 [] = .ok (.loop ⟨0x43, .src (.reg 9)⟩) ∧
  decodeSlot 0x1504327F [] = .ok (.mloop ⟨0x43, .src (.reg 9), 63⟩) ∧
  decodeSlot 0x1600002C [] = .ok (.lbrk ⟨true, 3⟩) ∧
  decodeSlot 0x17000000 [] = .ok .ppt ∧
  decodeSlot 0x17000001 [] = .ok .ckpt ∧
  decodeSlot 0x1703F042 [] = .ok (.rdz 0xFC1) := by decide

theorem test_decodeControl2 :
  decodeSlot 0x00000000 [] = .ok .nop := by decide

theorem test_decodeVector1 :
  decodeSlot 0x200048DB [] = .ok (.vadd ⟨3, .bf16, ⟨false, 0⟩, .reg 4, .src .half⟩) ∧
  decodeSlot 0x210448DB [] = .ok (.vsub ⟨3, .bf16, ⟨false, 1⟩, .reg 4, .src .half⟩) ∧
  decodeSlot 0x220848DB [] = .ok (.vmul ⟨3, .bf16, ⟨false, 2⟩, .reg 4, .src .half⟩) ∧
  decodeSlot 0x230C48DB [] = .ok (.vfma ⟨3, .bf16, ⟨false, 3⟩, .reg 4, .src .half⟩) ∧
  decodeSlot 0x241048DB [] = .ok (.vfms ⟨3, .bf16, ⟨false, 4⟩, .reg 4, .src .half⟩) ∧
  decodeSlot 0x251448DB [] = .ok (.vmin ⟨3, .bf16, ⟨false, 5⟩, .reg 4, .src .half⟩) ∧
  decodeSlot 0x261848DB [] = .ok (.vmax ⟨3, .bf16, ⟨false, 6⟩, .reg 4, .src .half⟩) ∧
  decodeSlot 0x270C414F [] = .ok (.vadds ⟨1, .i8, ⟨false, 3⟩, .reg 4, .src (.reg 5)⟩) ∧
  decodeSlot 0x280C414F [] = .ok (.vsubs ⟨1, .i8, ⟨false, 3⟩, .reg 4, .src (.reg 5)⟩) ∧
  decodeSlot 0x290C414F [] = .ok (.vmulh ⟨1, .i8, ⟨false, 3⟩, .reg 4, .src (.reg 5)⟩) ∧
  decodeSlot 0x2A0C400C [] = .ok (.vabs ⟨1, .i64, ⟨false, 3⟩, .reg 4⟩) ∧
  decodeSlot 0x2A0C4042 [] = .ok (.vneg ⟨0, .f16, ⟨false, 3⟩, .reg 4⟩) := by decide

theorem test_decodeVector2 :
  decodeSlot 0x2B1C10BE [] = .ok (.vcmp ⟨.geu, .i16, 7, .reg 1, .src (.reg 2)⟩) ∧
  decodeSlot 0x2C0420C0 [] = .ok (.vand ⟨⟨false, 1⟩, .reg 2, .src (.reg 3)⟩) ∧
  decodeSlot 0x2C0420C1 [] = .ok (.vor ⟨⟨false, 1⟩, .reg 2, .src (.reg 3)⟩) ∧
  decodeSlot 0x2C0420C2 [] = .ok (.vxor ⟨⟨false, 1⟩, .reg 2, .src (.reg 3)⟩) ∧
  decodeSlot 0x2D0420C5 [] = .ok (.vshl ⟨.i32, ⟨false, 1⟩, .reg 2, .src (.reg 3)⟩) ∧
  decodeSlot 0x2D0420CD [] = .ok (.vshr ⟨.i32, ⟨false, 1⟩, .reg 2, .src (.reg 3)⟩) ∧
  decodeSlot 0x2D0420D5 [] = .ok (.vsar ⟨.i32, ⟨false, 1⟩, .reg 2, .src (.reg 3)⟩) ∧
  decodeSlot 0x2E0420C6 [] = .ok (.vsel ⟨6, ⟨false, 1⟩, .reg 2, .src (.reg 3)⟩) ∧
  decodeSlot 0x2F042389 [] = .ok (.vcvt ⟨.rtz, .f32, .i16, true, false, ⟨false, 1⟩, .reg 2⟩) ∧
  decodeSlot 0x30042129 [] = .ok (.vpack ⟨.satrne, .f32, .e4m3, ⟨false, 1⟩, .reg 2⟩) ∧
  decodeSlot 0x31042219 [] = .ok (.vunpk ⟨3, .f32, .e2m1, ⟨false, 1⟩, .reg 2⟩) ∧
  decodeSlot 0x32042001 [] = .ok (.vbcast ⟨.f32, ⟨false, 1⟩, .reg 2⟩) := by decide

theorem test_decodePermute1 :
  decodeSlot 0x330420C7 [] = .ok (.vext ⟨.i8, ⟨false, 1⟩, .reg 2, .src (.reg 3)⟩) ∧
  decodeSlot 0x330420CF [] = .ok (.vlane ⟨.i8, ⟨false, 1⟩, .reg 2, .src (.reg 3)⟩) ∧
  decodeSlot 0x340420C5 [] = .ok (.vperm ⟨.i32, ⟨false, 1⟩, .reg 2, .src (.reg 3)⟩) ∧
  decodeSlot 0x350420D1 [] = .ok (.vrm ⟨17, ⟨false, 1⟩, .reg 2, .src (.reg 3)⟩) ∧
  decodeSlot 0x36042005 [] = .ok (.vreds ⟨.i32, ⟨false, 1⟩, .reg 2⟩) ∧
  decodeSlot 0x3604200D [] = .ok (.vredmMax ⟨.i32, ⟨false, 1⟩, .reg 2⟩) ∧
  decodeSlot 0x36042015 [] = .ok (.vredmMin ⟨.i32, ⟨false, 1⟩, .reg 2⟩) ∧
  decodeSlot 0x3604201D [] = .ok (.vscan ⟨.i32, ⟨false, 1⟩, .reg 2⟩) ∧
  decodeSlot 0x377820C1 [] = .ok (.topk ⟨.f32, ⟨false, 30⟩, .reg 2, .src (.reg 3)⟩) ∧
  decodeSlot 0x38042002 [] = .ok (.vexp2 ⟨.f16, ⟨false, 1⟩, .reg 2⟩) ∧
  decodeSlot 0x3804200A [] = .ok (.vlog2 ⟨.f16, ⟨false, 1⟩, .reg 2⟩) ∧
  decodeSlot 0x38042012 [] = .ok (.vrcp ⟨.f16, ⟨false, 1⟩, .reg 2⟩) := by decide

theorem test_decodePermute2 :
  decodeSlot 0x3804201A [] = .ok (.vrsq ⟨.f16, ⟨false, 1⟩, .reg 2⟩) ∧
  decodeSlot 0x38042022 [] = .ok (.vsig ⟨.f16, ⟨false, 1⟩, .reg 2⟩) ∧
  decodeSlot 0x3804202A [] = .ok (.vtanh ⟨.f16, ⟨false, 1⟩, .reg 2⟩) ∧
  decodeSlot 0x38042032 [] = .ok (.vsilu ⟨.f16, ⟨false, 1⟩, .reg 2⟩) ∧
  decodeSlot 0x3804203A [] = .ok (.vgelu ⟨.f16, ⟨false, 1⟩, .reg 2⟩) ∧
  decodeSlot 0x39042003 [0x3f80] = .ok (.vexpd ⟨.bf16, ⟨false, 1⟩, .reg 2, .imm [0x3F80]⟩) ∧
  decodeSlot 0x3A0421C0 [] = .ok (.mand ⟨1, 2, 7⟩) ∧
  decodeSlot 0x3A0421C1 [] = .ok (.mor ⟨1, 2, 7⟩) ∧
  decodeSlot 0x3A042002 [] = .ok (.mnot ⟨1, 2⟩) ∧
  decodeSlot 0x3A7C2003 [] = .ok (.mpop ⟨⟨false, 31⟩, 2⟩) ∧
  decodeSlot 0x3A042004 [] = .ok (.mfirst ⟨1, 2⟩) ∧
  decodeSlot 0x40002103 [] = .ok (.xpush ⟨3, .e4m3, .reg 2⟩) := by decide

theorem test_decodePermute3 :
  decodeSlot 0x41180000 [] = .ok (.xpop ⟨⟨false, 6⟩⟩) ∧
  decodeSlot 0x4205C117 [] = .ok (.defer ⟨5, 3, 1, 28, .src (.reg 4)⟩) ∧
  decodeSlot 0x43704002 [] = .ok (.drain ⟨2, ⟨false, 28⟩, .reg 4⟩) := by decide

theorem test_decodeMatrix1 :
  decodeSlot 0x481FFFAD [0x185] = .ok (.mma ⟨⟨true, 3⟩, true, 7, 63, 62, some (5, 6)⟩) ∧
  decodeSlot 0x491C1080 [] = .ok (.mmas ⟨⟨false, 0⟩, false, 7, 1, 2, none⟩) ∧
  decodeSlot 0x4A1C1080 [0xabc103] = .ok (.mmat ⟨⟨false, 0⟩, false, 7, 1, 2, 3, 4, 0xABC⟩) ∧
  decodeSlot 0x4B000100 [] = .ok (.mpcset ⟨.src (.reg 4)⟩) ∧
  decodeSlot 0x4C140000 [] = .ok (.aclr ⟨5⟩) ∧
  decodeSlot 0x4C146FC1 [] = .ok (.accld ⟨5, .reg 6, 63⟩) ∧
  decodeSlot 0x4C146FC2 [] = .ok (.accst ⟨5, .reg 6, 63⟩) ∧
  decodeSlot 0x4D0420EC [0x11, 0x22] = .ok (.kat ⟨⟨true, 3⟩, 1, 2, 3, 0x11, 0x22⟩) ∧
  decodeSlot 0x4E081003 [] = .ok (.texpd ⟨.rup, 1, 3⟩) ∧
  decodeSlot 0x4F141083 [] = .ok (.tadd ⟨.satrne, 1, 2, 3⟩) ∧
  decodeSlot 0x50141083 [] = .ok (.tsub ⟨.satrne, 1, 2, 3⟩) ∧
  decodeSlot 0x51141083 [] = .ok (.tmul ⟨.satrne, 1, 2, 3⟩) := by decide

theorem test_decodeMatrix2 :
  decodeSlot 0x520C18C3 [] = .ok (.tscale ⟨.rdn, 1, .src .half, 3⟩) ∧
  decodeSlot 0x53001003 [] = .ok (.trelu ⟨.rne, 1, 3⟩) ∧
  decodeSlot 0x54041003 [] = .ok (.tcvt ⟨.rtz, 1, 3⟩) ∧
  decodeSlot 0x550C10BC [] = .ok (.fset ⟨.ch, 1, .src (.reg 2), 60⟩) ∧
  decodeSlot 0x56009000 [] = .ok (.fclr ⟨9⟩) ∧
  decodeSlot 0x57001080 [] = .ok (.fcopy ⟨1, 2⟩) ∧
  decodeSlot 0x57009240 [] = .ok (.fcopyAcc ⟨9⟩) ∧
  decodeSlot 0x580410BC [] = .ok (.fbind ⟨.cs, 1, .src (.reg 2), 60⟩) ∧
  decodeSlot 0x59101080 [] = .ok (.fread ⟨⟨false, 4⟩, 1, .src (.reg 2)⟩) ∧
  decodeSlot 0x5A001082 [] = .ok (.rrow ⟨.ssq, 1, .src (.reg 2)⟩) ∧
  decodeSlot 0x5B001081 [] = .ok (.rcol ⟨.max, 1, .src (.reg 2)⟩) ∧
  decodeSlot 0x5C000080 [] = .ok (.rseal ⟨.src (.reg 2)⟩) := by decide

theorem test_decodeMatrix3 :
  decodeSlot 0x5D101081 [] = .ok (.rrtalloc ⟨.max, ⟨false, 4⟩, .reg 1, .src (.reg 2)⟩) ∧
  decodeSlot 0x5E000080 [] = .ok (.rrtfree ⟨.src (.reg 2)⟩) ∧
  decodeSlot 0x5F009000 [] = .ok (.resolve ⟨9⟩) := by decide

theorem test_decodeMemory1 :
  decodeSlot 0x60042FC0 [] = .ok (.ldr ⟨⟨false, 1⟩, .reg 2, .off 63⟩) ∧
  decodeSlot 0x61042FC0 [] = .ok (.str ⟨1, .reg 2, .off 63⟩) ∧
  decodeSlot 0x62842FDF [] = .ok (.lds ⟨⟨true, 1⟩, .reg 2, .off 63, 31⟩) ∧
  decodeSlot 0x63042FDF [] = .ok (.sts ⟨1, .reg 2, .off 63, 31⟩) ∧
  decodeSlot 0x64042000 [0x100] = .ok (.ldg ⟨⟨false, 1⟩, .reg 2, .imm [256]⟩) ∧
  decodeSlot 0x650420C0 [] = .ok (.stg ⟨1, .reg 2, .off 3⟩) ∧
  decodeSlot 0x660420C0 [] = .ok (.ldgs ⟨⟨false, 1⟩, .reg 2, .off 3⟩) ∧
  decodeSlot 0x670420C0 [] = .ok (.stgs ⟨1, .reg 2, .off 3⟩) ∧
  decodeSlot 0x680020C0 [] = .ok (.pref ⟨.reg 2, .off 3⟩) ∧
  decodeSlot 0x680020C1 [] = .ok (.cflush ⟨.reg 2, .off 3⟩) ∧
  decodeSlot 0x680020C2 [] = .ok (.cinv ⟨.reg 2, .off 3⟩) ∧
  decodeSlot 0x690420DE [0x12] = .ok (.cpy ⟨1, 2, 3, false, true, true, true, 2, [0x12]⟩) := by decide

theorem test_decodeMemory2 :
  decodeSlot 0x6A0420C2 [0x7e] = .ok (.cpym ⟨1, 2, 3, 2, 0x7E⟩) ∧
  decodeSlot 0x6B0420C4 [] = .ok (.gath ⟨1, .reg 2, 3, 2⟩) ∧
  decodeSlot 0x6B0420C5 [] = .ok (.scat ⟨1, .reg 2, 3, 2⟩) ∧
  decodeSlot 0x6C009000 [] = .ok (.publ ⟨9⟩) ∧
  decodeSlot 0x6C040087 [] = .ok (.cwait ⟨1, .src (.reg 2), 3⟩) ∧
  decodeSlot 0x6C00200F [] = .ok (.cwaitWp ⟨.reg 2, 3⟩) ∧
  decodeSlot 0x6D0420C7 [] = .ok (.aadd ⟨⟨false, 1⟩, .reg 2, .reg 3, .ar, true⟩) ∧
  decodeSlot 0x6D0420CF [] = .ok (.aadds ⟨⟨false, 1⟩, .reg 2, .reg 3, .ar, true⟩) ∧
  decodeSlot 0x6D0420D7 [] = .ok (.amin ⟨⟨false, 1⟩, .reg 2, .reg 3, .ar, true⟩) ∧
  decodeSlot 0x6D0420DF [] = .ok (.amax ⟨⟨false, 1⟩, .reg 2, .reg 3, .ar, true⟩) ∧
  decodeSlot 0x6D0420E7 [] = .ok (.aand ⟨⟨false, 1⟩, .reg 2, .reg 3, .ar, true⟩) ∧
  decodeSlot 0x6D0420EF [] = .ok (.aor ⟨⟨false, 1⟩, .reg 2, .reg 3, .ar, true⟩) := by decide

theorem test_decodeMemory3 :
  decodeSlot 0x6D0420F7 [] = .ok (.axor ⟨⟨false, 1⟩, .reg 2, .reg 3, .ar, true⟩) ∧
  decodeSlot 0x6D0420FF [] = .ok (.axchg ⟨⟨false, 1⟩, .reg 2, .reg 3, .ar, true⟩) ∧
  decodeSlot 0x6E0420C2 [] = .ok (.acas ⟨⟨false, 1⟩, .reg 2, .reg 3, .acq, false⟩) ∧
  decodeSlot 0x6F0428C5 [] = .ok (.afadd ⟨⟨false, 1⟩, .reg 2, .half, .rel, true⟩) := by decide

theorem test_decodeSync1 :
  decodeSlot 0x700420C0 [0x1c005] = .ok (.bind ⟨1, .reg 2, .reg 3, 0x1C005⟩) ∧
  decodeSlot 0x710420CE [] = .ok (.acq ⟨⟨false, 1⟩, .reg 2, .src (.reg 3), 7⟩) ∧
  decodeSlot 0x71002001 [] = .ok (.rel ⟨.reg 2⟩) ∧
  decodeSlot 0x72000000 [] = .ok .fence ∧
  decodeSlot 0x730420CF [] = .ok (.fwait ⟨1, .reg 2, .src (.reg 3), 15⟩) ∧
  decodeSlot 0x7300201F [] = .ok (.fpost ⟨.reg 2, 15⟩) ∧
  decodeSlot 0x730020EF [] = .ok (.fpostr ⟨.reg 2, .src (.reg 3), 15⟩) ∧
  decodeSlot 0x740420C0 [] = .ok (.sync ⟨1, .reg 2, .src (.reg 3)⟩) ∧
  decodeSlot 0x75042000 [] = .ok (.barr ⟨1, .reg 2⟩) ∧
  decodeSlot 0x750420C1 [] = .ok (.barrx ⟨1, .reg 2, .src (.reg 3)⟩) ∧
  decodeSlot 0x751820C2 [] = .ok (.bwait ⟨6, .reg 2, .src (.reg 3)⟩) ∧
  decodeSlot 0x750420C3 [] = .ok (.rearm ⟨1, .reg 2, .src (.reg 3)⟩) := by decide

theorem test_decodeSync2 :
  decodeSlot 0x76042000 [] = .ok (.marm ⟨⟨false, 1⟩, .reg 2⟩) ∧
  decodeSlot 0x76040081 [] = .ok (.mwait ⟨1, .src (.reg 2)⟩) ∧
  decodeSlot 0x770420C0 [0x7b000001] = .ok (.trig ⟨1, .reg 2, .reg 3, 0x7B000001⟩) ∧
  decodeSlot 0x770020C1 [] = .ok (.tcntAdd ⟨.reg 2, .src (.reg 3)⟩) ∧
  decodeSlot 0x770020C2 [] = .ok (.tcntSet ⟨.reg 2, .src (.reg 3)⟩) ∧
  decodeSlot 0x78042000 [] = .ok (.tlaunch ⟨1, .reg 2⟩) ∧
  decodeSlot 0x780420C1 [] = .ok (.tspawn ⟨1, .reg 2, .reg 3⟩) ∧
  decodeSlot 0x78042002 [] = .ok (.tdep ⟨1, .reg 2⟩) ∧
  decodeSlot 0x78000003 [] = .ok .tend ∧
  decodeSlot 0x797C20C0 [0x1c005] = .ok (.resadv ⟨31, 2, .reg 3, 0x1C005⟩) ∧
  decodeSlot 0x79009001 [] = .ok (.resdrop ⟨9⟩) ∧
  decodeSlot 0x79049002 [] = .ok (.reschk ⟨1, 9⟩) := by decide

theorem test_decodeActivity1 :
  decodeSlot 0x7A7C0000 [] = .ok (.abegin ⟨31⟩) ∧
  decodeSlot 0x7A0420C1 [0x4, 0x100000] = .ok (.apush ⟨1, .reg 2, .reg 3, 0x8000000000004⟩) ∧
  decodeSlot 0x7A7C2002 [] = .ok (.asave ⟨31, .reg 2⟩) ∧
  decodeSlot 0x7A042003 [] = .ok (.acommit ⟨1, .reg 2⟩) ∧
  decodeSlot 0x7A0420C4 [] = .ok (.aabandon ⟨1, .reg 2, .reg 3⟩) ∧
  decodeSlot 0x7A002005 [] = .ok (.cend ⟨.reg 2⟩) ∧
  decodeSlot 0x7A0020C6 [] = .ok (.aresume ⟨.reg 2, .reg 3⟩) ∧
  decodeSlot 0x7A002007 [] = .ok (.adiscard ⟨.reg 2⟩) ∧
  decodeSlot 0x7B0420C0 [] = .ok (.ctile ⟨1, .reg 2, .reg 3⟩) ∧
  decodeSlot 0x7B042001 [] = .ok (.cready ⟨1, .reg 2⟩) ∧
  decodeSlot 0x7B0420C2 [] = .ok (.cplan ⟨1, .reg 2, .reg 3⟩) ∧
  decodeSlot 0x7B1820C3 [] = .ok (.cwaitc ⟨6, .reg 2, .reg 3⟩) := by decide

theorem test_decodeActivity2 :
  decodeSlot 0x7C0420C0 [] = .ok (.btset ⟨1, .reg 2, .reg 3⟩) ∧
  decodeSlot 0x7C7C20C1 [] = .ok (.btlook ⟨31, .reg 2, .reg 3⟩) ∧
  decodeSlot 0x7C002002 [] = .ok (.btinv ⟨.reg 2⟩) ∧
  decodeSlot 0x7C7C20C3 [] = .ok (.sacc ⟨31, .reg 2, .reg 3⟩) ∧
  decodeSlot 0x7C0420C4 [] = .ok (.grace ⟨1, .reg 2, .reg 3⟩) ∧
  decodeSlot 0x7C0420C5 [] = .ok (.handover ⟨1, .reg 2, .reg 3⟩) ∧
  decodeSlot 0x7D03F040 [] = .ok (.trap 0xFC1) ∧
  decodeSlot 0x7D000001 [] = .ok .rft ∧
  decodeSlot 0x7D000002 [] = .ok .ebreak ∧
  decodeSlot 0x7D0420C3 [] = .ok (.signal ⟨1, .reg 2, .reg 3⟩) ∧
  decodeSlot 0x7D7C7004 [] = .ok (.xread ⟨31, 7⟩) ∧
  decodeSlot 0x7D007005 [] = .ok (.xclr 7) := by decide

theorem test_decodeActivity3 :
  decodeSlot 0x7D7C2006 [] = .ok (.errld ⟨31, .reg 2⟩) := by decide

/-! ## Well-formedness: each check refuses a term that only it refuses -/

theorem test_wfRefusesConstantHalf :
    [Instr.add ⟨⟨false, 0⟩, ⟨false, 1⟩, .half, .src .one⟩, .add ⟨⟨false, 0⟩, ⟨false, 1⟩, .one, .src .half⟩,
      .clz ⟨⟨false, 0⟩, ⟨false, 1⟩, .half⟩, .movi ⟨⟨false, 0⟩, ⟨false, 1⟩, .src .half⟩, .cmp ⟨.eq, 1, .half, .src .one⟩,
      .sfcvt ⟨.rne, .i64ToF64, ⟨false, 1⟩, .half⟩, .mtc ⟨.mpc, .src .half⟩, .brc ⟨.eqz, .half, 4⟩, .jmpr ⟨⟨false, 0⟩, .half⟩,
      .ret ⟨.half⟩, .loop ⟨4, .src .half⟩, .vadd ⟨0, .i32, ⟨false, 1⟩, .half, .src .one⟩, .vabs ⟨0, .i32, ⟨false, 1⟩, .half⟩,
      .vcmp ⟨.eq, .i32, 1, .half, .src .one⟩, .vand ⟨⟨false, 1⟩, .half, .src .one⟩, .vshl ⟨.i32, ⟨false, 1⟩, .half, .src .one⟩,
      .vsel ⟨1, ⟨false, 1⟩, .half, .src .one⟩, .vcvt ⟨.rne, .i32, .f32, false, false, ⟨false, 1⟩, .half⟩,
      .vpack ⟨.rne, .i32, .i8, ⟨false, 1⟩, .half⟩, .vunpk ⟨0, .i32, .i8, ⟨false, 1⟩, .half⟩, .vbcast ⟨.i32, ⟨false, 1⟩, .half⟩,
      .vext ⟨.f32, ⟨false, 1⟩, .one, .src .half⟩, .vrm ⟨1, ⟨false, 1⟩, .half, .src .one⟩, .xpush ⟨0, .fp64, .half⟩,
      .defer ⟨1, 0, 1, 1, .src .half⟩, .drain ⟨0, ⟨false, 1⟩, .half⟩, .mpcset ⟨.src .half⟩, .accld ⟨1, .half, 0⟩,
      .fbind ⟨.rs, 1, .src .half, 0⟩, .rrow ⟨.sum, 1, .src .half⟩, .rrtalloc ⟨.sum, ⟨false, 1⟩, .half, .src .one⟩,
      .ldr ⟨⟨false, 1⟩, .half, .off 0⟩, .str ⟨1, .half, .off 0⟩, .lds ⟨⟨false, 1⟩, .half, .off 0, 0⟩, .sts ⟨1, .half, .off 0, 0⟩,
      .pref ⟨.half, .off 0⟩, .gath ⟨1, .half, 1, 0⟩, .cwait ⟨1, .src .half, 0⟩, .cwaitWp ⟨.half, 0⟩,
      .aadd ⟨⟨false, 1⟩, .reg 1, .half, .rlx, false⟩, .afadd ⟨⟨false, 1⟩, .half, .one, .rlx, false⟩, .bind ⟨1, .one, .half, 0⟩,
      .acq ⟨⟨false, 1⟩, .half, .src .one, 1⟩, .fwait ⟨1, .half, .src .one, 0⟩, .fpost ⟨.half, 0⟩, .sync ⟨1, .one, .src .half⟩,
      .barr ⟨1, .half⟩, .marm ⟨⟨false, 1⟩, .half⟩, .mwait ⟨1, .src .half⟩, .trig ⟨1, .half, .one, 0⟩, .tcntAdd ⟨.half, .src .one⟩,
      .tlaunch ⟨1, .half⟩, .tspawn ⟨1, .one, .half⟩, .resadv ⟨1, 1, .half, 0⟩, .apush ⟨1, .half, .one, 0⟩, .asave ⟨1, .half⟩,
      .aresume ⟨.one, .half⟩, .ctile ⟨1, .half, .one⟩, .btlook ⟨1, .one, .half⟩, .sacc ⟨1, .half, .one⟩, .btinv ⟨.half⟩,
      .signal ⟨1, .one, .half⟩, .errld ⟨1, .half⟩].any Instr.wf = false := by decide

theorem test_wfRefusesWords :
    [Instr.add ⟨⟨false, 0⟩, ⟨false, 1⟩, .one, .imm []⟩, .add ⟨⟨false, 0⟩, ⟨false, 1⟩, .one, .imm [1, 1, 1, 1]⟩,
      .sfadd ⟨.rne, ⟨false, 1⟩, .one, .imm [0, 0, 4]⟩, .vadd ⟨0, .f16, ⟨false, 1⟩, .one, .imm [0x10000]⟩,
      .br ⟨⟨false, 0⟩, .abs []⟩, .call ⟨⟨false, 1⟩, .abs [0, 0, 0, 0]⟩, .ldg ⟨⟨false, 1⟩, .one, .imm []⟩,
      .cpy ⟨1, 1, 2, false, false, false, false, 0, [0, 0, 0]⟩, .cpy ⟨1, 1, 2, true, false, false, false, 0, [0]⟩,
      .cpy ⟨1, 1, 2, false, true, false, false, 0, []⟩, .cpy ⟨1, 1, 2, true, true, false, false, 0, [0, 0]⟩, .cpy ⟨1, 1, 2, false, false, false, false, 0, [0x08000000]⟩,
      .cpym ⟨1, 1, 2, 0, 1⟩, .cpym ⟨1, 1, 2, 0, 0x80⟩].any Instr.wf = false := by decide

theorem test_wfRefusesCodes :
    [Instr.sfadd ⟨.satrne, ⟨false, 1⟩, .one, .src .one⟩, .sfcvt ⟨.satrne, .f64ToI64, ⟨false, 1⟩, .one⟩,
      .mloop ⟨4, .src .one, 0⟩, .vadd ⟨5, .f32, ⟨false, 1⟩, .one, .src .one⟩, .vadd ⟨2, .i32, ⟨false, 1⟩, .one, .src .one⟩,
      .vfma ⟨0, .i32, ⟨false, 1⟩, .one, .src .one⟩, .vadds ⟨0, .f32, ⟨false, 1⟩, .one, .src .one⟩,
      .vcmp ⟨.eq, .i8, 1, .one, .src .one⟩, .vcmp ⟨.ltu, .f32, 1, .one, .src .one⟩, .vcmp ⟨.geu, .f16, 1, .one, .src .one⟩,
      .vshl ⟨.f32, ⟨false, 1⟩, .one, .src .one⟩, .vcvt ⟨.satrne, .f16, .f32, false, false, ⟨false, 1⟩, .one⟩,
      .vcvt ⟨.rne, .i32, .f32, true, false, ⟨false, 1⟩, .one⟩, .vcvt ⟨.rne, .f32, .i32, false, true, ⟨false, 1⟩, .one⟩,
      .vpack ⟨.rne, .f32, .bf16, ⟨false, 1⟩, .one⟩, .vpack ⟨.rne, .f32, .i16, ⟨false, 1⟩, .one⟩,
      .vunpk ⟨0, .f32, .fp64, ⟨false, 1⟩, .one⟩, .vunpk ⟨4, .f32, .e4m3, ⟨false, 1⟩, .one⟩,
      .vexp2 ⟨.f64, ⟨false, 1⟩, .one⟩, .vexpd ⟨.i32, ⟨false, 1⟩, .one, .src .one⟩,
      .topk ⟨.f32, ⟨false, 31⟩, .one, .src .one⟩, .xpush ⟨0, .fp32, .reg 1⟩, .xpush ⟨2, .i16, .reg 1⟩,
      .xpush ⟨3, .e2m1x, .reg 1⟩, .xpush ⟨3, .en4, .reg 1⟩, .defer ⟨1, 3, 1, 29, .src .one⟩, .drain ⟨2, ⟨false, 29⟩, .one⟩,
      .fcopy ⟨5, 5⟩, .bwait ⟨0, .one, .src .one⟩, .bwait ⟨7, .one, .src .one⟩, .cwaitc ⟨0, .one, .one⟩,
      .cwaitc ⟨7, .one, .one⟩].any Instr.wf = false := by decide

theorem test_wfAdmitsTheBoundary :
    [Instr.sfcvt ⟨.satrne, .f64ToF32, ⟨false, 1⟩, .half⟩, .vadd ⟨4, .f32, ⟨false, 1⟩, .half, .imm [0x7FFFFFFF, 1]⟩,
      .vunpk ⟨3, .f32, .e4m3, ⟨false, 1⟩, .one⟩, .defer ⟨1, 3, 1, 28, .src .one⟩, .drain ⟨2, ⟨false, 28⟩, .one⟩,
      .topk ⟨.f32, ⟨true, 31⟩, .one, .src .one⟩, .xpush ⟨2, .en4, .reg 1⟩, .xpush ⟨3, .i4, .reg 1⟩, .bwait ⟨6, .one, .src .one⟩,
      .cpy ⟨1, 1, 2, true, true, false, true, 0, [0x07FFFFFF, 0]⟩, .fcopyAcc ⟨5⟩].all Instr.wf = true := by decide

/-! ## Slots and bundles that are no instruction (R183, R184) -/

/-- The lowest and the highest unassigned major, 0x7F, a second PFX, a reserved minor, source, destination, must-be-zero field
and word count. -/
theorem test_decodeRefuses :
    [decodeSlot 0x0E000000 [], decodeSlot 0x47000000 [], decodeSlot 0x7F000000 [], decodeSlot 0x7E000000 [],
      decodeSlot 0x06000003 [], decodeSlot 0x0102E000 [], decodeSlot 0x07200000 [], decodeSlot 0x00000001 [],
      decodeSlot 0x05000002 [0], decodeSlot 0x4D000000 [0]] =
    [.error 0x0001, .error 0x0001, .error 0x0002, .error 0x0007, .error 0x0003, .error 0x0004, .error 0x0005, .error 0x0006,
      .error 0x000B, .error 0x000B] := by decide

/-- A bundle ends at the fourth word at the earliest and at the eighth at the latest; one control slot at most; what SURR may
not name; a scope above 4; VM0 with no slot to take it; RFT with company. -/
theorem test_bundleRefuses :
    [decodeBundle [0, 0, 0x80000000, 0], decodeBundle [0, 0, 0, 0, 0, 0, 0, 0], decodeBundle [0x16000000, 0x16000000, 0, 0x80000000],
      decodeBundle [0x7E004000, 0, 0, 0x80000000], decodeBundle [0x7E020000, 0, 0, 0x80000000],
      decodeBundle [0x7E008000, 0, 0, 0x80000000], decodeBundle [0x7EA00000, 0, 0, 0x80000000],
      decodeBundle [0x7E000400, 0, 0, 0x80000000], decodeBundle [0x7D000001, 0x01000000, 0, 0x80000000]].map
        (fun r => match r with
          | .error e => (e.cause.toNat, e.pos)
          | .ok _ => (0, 0)) =
    [(9, 2), (9, 7), (8, 1), (10, 0), (10, 0), (10, 1), (13, 0), (6, 0), (6, 1)] := by decide

/-- ADD s1, s1, 5 in the shortest bundle, its word surrendered by slot 2. -/
theorem test_bundleWithAWord : (decodeBundle [0x7E008000, 0x01041000, 5, 0x80000000]).toOption.map (fun b =>
    (b.words, b.scope, b.slots.map fun x => (x.pos, x.instr))) =
    some (4, .core, [(0, .pfx ⟨.core, 2, 0, false, 0, false⟩), (1, .add ⟨⟨false, 0⟩, ⟨false, 1⟩, .reg 1, .imm [5]⟩), (3, .nop)]) := by
  decide

/-! ## Scalar instructions (R185 to R194) -/

/-- s1 = -2^63, s2 = 5, s3 = -3, s4 = 67. -/
def ints : State := regs [(1, 0x8000000000000000), (2, 5), (3, -3), (4, 67)]
def i2 (a b : BitVec 5) : OpS2 := ⟨g0, d1, .reg a, .src (.reg b)⟩

theorem test_integerResults :
    [Instr.add (i2 1 3), .sub (i2 1 2), .adds (i2 1 3), .mul (i2 3 2), .mulh (i2 3 2), .mulhu (i2 3 2), .min (i2 3 2), .max (i2 3 2),
      .minu (i2 3 2), .maxu (i2 3 2), .and (i2 3 2), .or (i2 3 2), .xor (i2 3 2), .andn (i2 3 2), .shl (i2 2 4), .shr (i2 1 4),
      .sar (i2 1 4), .rot (i2 1 4), .clz ⟨g0, d1, .reg 2⟩, .popc ⟨g0, d1, .reg 3⟩, .brev ⟨g0, d1, .reg 2⟩,
      .movi ⟨g0, d1, .imm [0x7FFFFFFF]⟩].map (fun i => value i ints) =
    [0x7FFFFFFFFFFFFFFD, 0x7FFFFFFFFFFFFFFB, 0x8000000000000000, 0xFFFFFFFFFFFFFFF1, 0xFFFFFFFFFFFFFFFF, 4,
      0xFFFFFFFFFFFFFFFD, 5, 5, 0xFFFFFFFFFFFFFFFD, 5, 0xFFFFFFFFFFFFFFFD, 0xFFFFFFFFFFFFFFF8, 0xFFFFFFFFFFFFFFF8,
      40, 0x1000000000000000, 0xF000000000000000, 4, 61, 63, 0xA000000000000000, 0xFFFFFFFFFFFFFFFF] := by decide +kernel

/-- The ten conditions of CMP on −2^63 and 5, and on 5 and 5. -/
theorem test_compareConditions :
    [CmpC.eq, .ne, .lt, .le, .gt, .ge, .ltu, .leu, .gtu, .geu].map (fun c =>
      (value (.cmp ⟨c, 1, .reg 1, .src (.reg 2)⟩) ints, value (.cmp ⟨c, 1, .reg 2, .src (.reg 2)⟩) ints)) =
    [(0, 1), (1, 0), (1, 0), (1, 1), (0, 0), (0, 1), (0, 0), (0, 1), (1, 0), (1, 1)] := by decide +kernel

/-- p1 true, p2 false: SEL with an inverted selector, and the predicate operations. -/
theorem test_selectAndPredicates :
    let s := ints.modSl fun sl => setP sl 1 true
    [Instr.sel ⟨⟨true, 2⟩, d1, .reg 2, .src (.reg 3)⟩, .sel ⟨⟨true, 1⟩, d1, .reg 2, .src (.reg 3)⟩, .pand ⟨g0, 3, 1, 2⟩,
      .por ⟨g0, 3, 1, 2⟩, .pxor ⟨g0, 3, 1, 1⟩, .pnot ⟨g0, 3, 2⟩].map (fun i => value i s) =
    [5, 0xFFFFFFFFFFFFFFFD, 0, 1, 0, 1] := by decide +kernel

theorem test_failedGuardSendsNothing :
    [Instr.add ⟨⟨true, 0⟩, d1, .reg 1, .src (.reg 2)⟩, .clz ⟨⟨false, 5⟩, d1, .reg 2⟩, .movi ⟨⟨true, 0⟩, d1, .src .one⟩,
      .pand ⟨⟨true, 0⟩, 3, 0, 0⟩].map (fun i => sent i ints) = [[], [], [], []] := by decide +kernel

/-- s1 = 1.5, s2 = 2.25, s3 = NaN, s4 = 2^53 + 1 as an integer, s5 = −1.5. -/
def flts : State := regs [(1, 0x3FF8000000000000), (2, 0x4002000000000000), (3, 0x7FF8000000000000), (4, 0x20000000000001),
  (5, 0xBFF8000000000000)]

/-- 1.5 + 2.25 = 3.75; 1.5 × 2.25 = 3.375; 1.5 × 2.25 + 1.5 = 4.875, each after 4 cycles. -/
theorem test_scalarFloat :
    [Instr.sfadd ⟨.rne, d1, .reg 1, .src (.reg 2)⟩, .sfmul ⟨.rne, d1, .reg 1, .src (.reg 2)⟩,
      .sfma ⟨.rne, d1, .reg 1, .src (.reg 2)⟩].map (fun i => sent i flts) =
    [[(1, 4, 0x400E000000000000)], [(1, 4, 0x400B000000000000)], [(1, 4, 0x4013800000000000)]] := by decide +kernel

/-- With a NaN, only NE and UN hold. -/
theorem test_scalarFloatCompare :
    [FcmpC.eq, .ne, .lt, .le, .gt, .ge, .un, .ord].map (fun c =>
      (value (.sfcmp ⟨c, 1, .reg 1, .src (.reg 2)⟩) flts, value (.sfcmp ⟨c, 1, .reg 1, .src (.reg 3)⟩) flts)) =
    [(0, 0), (1, 1), (1, 0), (1, 0), (0, 0), (0, 0), (0, 1), (1, 0)] := by decide +kernel

/-- −1.5 to integers under three rounding codes, NaN to 0 with NV, 2^53 + 1 to f64 under RNE and RUP, 1.5 to f32 and back. -/
theorem test_scalarConversions :
    [Instr.sfcvt ⟨.rne, .f64ToI64, d1, .reg 5⟩, .sfcvt ⟨.rtz, .f64ToI64, d1, .reg 5⟩, .sfcvt ⟨.rna, .f64ToI64, d1, .reg 5⟩,
      .sfcvt ⟨.rne, .f64ToU64, d1, .reg 5⟩, .sfcvt ⟨.rne, .f64ToI64, d1, .reg 3⟩, .sfcvt ⟨.rne, .i64ToF64, d1, .reg 4⟩,
      .sfcvt ⟨.rup, .u64ToF64, d1, .reg 4⟩, .sfcvt ⟨.rne, .f64ToF32, d1, .reg 1⟩,
      .sfcvt ⟨.rne, .f32ToF64, d1, .reg 6⟩].map (fun i => value i (flts.modSl fun sl => setS sl 6 0x3FC00000)) =
    [0xFFFFFFFFFFFFFFFE, 0xFFFFFFFFFFFFFFFF, 0xFFFFFFFFFFFFFFFE, 0, 0, 0x4340000000000000, 0x4340000000000001, 0x3FC00000,
      0x3FF8000000000000] := by decide +kernel

/-- What MFC reads of registers that hold distinct values. -/
theorem test_controlReads :
    let s := (base.modMe fun k => { k with
      cycle := 9
      tcause := 0x1001
      tepc := 0x44
      tval := 0x55
      tscr := 0x66
      tvec := 0x77 }).modSl fun sl => { sl with
        sup := true
        mpc := 0x88
        wid := 0x99
        wp := vset (vset sl.wp 3 0x43) 0 0x40 }
    [Instr.mfc ⟨d1, .status⟩, .mfc ⟨d1, .cycle⟩, .mfc ⟨d1, .mpc⟩, .mfc ⟨d1, .wp0⟩, .mfc ⟨d1, .wp3⟩, .mfc ⟨d1, .tcause⟩,
      .mfc ⟨d1, .tepc⟩, .mfc ⟨d1, .tval⟩, .mfc ⟨d1, .tscr⟩, .mfc ⟨d1, .tvec⟩, .rdwid ⟨d1⟩].map (fun i => value i s) =
    [2, 9, 0x88, 0x40, 0x43, 0x1001, 0x44, 0x55, 0x66, 0, 0x99] := by decide +kernel

theorem test_controlWrites :
    let s := (regs [(1, 0xFFFFFFFFFFFFFFFF)]).modSl fun sl => { sl with sup := true }
    let t (x : CReg) : State := after (exec (.mtc ⟨x, .src (.reg 1)⟩) s)
    (t .mpc).sl.mpc = 0xFFFFFFFFFFFFC ∧ (t .tvec).me.tvec = 0xFFFFFFFFFFFFFFFF ∧ (t .tscr).me.tscr = 0xFFFFFFFFFFFFFFFF ∧
    (t .cycle).me.cycle = 0xFFFFFFFFFFFFFFFE ∧ (t .tcause).me.tcause = 0 := by decide +kernel

/-- At task level MFC of TSCR and MTC of CYCLE raise the privilege trap. -/
theorem test_privilege :
    [Instr.mfc ⟨d1, .tscr⟩, .mtc ⟨.cycle, .src .one⟩, .mtc ⟨.tvec, .src .one⟩, .rft].map (fun i =>
      let t := after (exec i mapped)
      (t.me.tcause.toNat, t.sl.sup, t.sig)) = List.replicate 4 (0x0010, true, .trap 1) := by decide +kernel

/-! ## Control flow (R195 to R209) -/

/-- Offsets count words from the bundle at 0x100. -/
theorem test_branchTargets :
    [Instr.br ⟨g0, .rel 0x1FFFF⟩, .br ⟨g0, .abs [0x1000]⟩, .br ⟨⟨true, 0⟩, .rel 4⟩, .brc ⟨.ltz, .reg 3, 0x400⟩, .brc ⟨.gtz, .reg 3, 4⟩,
      .call ⟨d1, .rel 0x7FF⟩, .jmpr ⟨g0, .reg 4⟩, .ret ⟨.reg 4⟩].map (fun i =>
        let e := (after (exec i (regs [(3, -3), (4, 0x2000)]))).eff
        (e.redirect.map (·.toNat), e.bubble, e.noEnd)) =
    [(some 0xFC, true, true), (some 0x1000, true, true), (none, false, false), (some 0xFFFFFFFFFF100, true, true),
      (none, false, false), (some 0x20FC, true, true), (some 0x2000, true, true), (some 0x2000, true, true)] := by
  decide +kernel

/-- CALL's link is the address of the next bundle, after one cycle. -/
theorem test_callLink : sent (.call ⟨d1, .rel 4⟩) base = [(1, 1, 0x110)] := by decide +kernel

theorem test_loopPushes :
    (after (exec (.loop ⟨8, .src (.reg 2)⟩) ints)).sl.loops = [⟨0x110, 0x120, 5, 0, false, none⟩] := by decide +kernel
/-- An offset inside the bundle is illegal. -/
theorem test_loopShortOffset : (after (exec (.loop ⟨3, .src (.reg 2)⟩) (mapped ints))).me.tcause = 0x0006 := by decide +kernel
theorem test_lbrk : (after (exec (.lbrk g0) (base.modSl fun sl => { sl with
    loops := [⟨1, 2, 3, 0, false, none⟩, ⟨4, 5, 6, 0, false, none⟩] }))).sl.loops = [⟨1, 2, 3, 0, false, none⟩] := by decide +kernel

theorem test_markers :
    (after (exec .ckpt base)).eff.ckpt = true ∧ (after (exec .ppt (base.modMe fun k => { k with preempt := true }))).sig = .gone ∧
    (after (exec (.rdz 7) (base.modMe fun k => { k with marks := [3] }))).sig = .frozen ∧
    (after (exec (.rdz 7) (base.modMe fun k => { k with
      marks := [3]
      rdzSeen := [(3, 7)] }))).me.marks = [] := by decide +kernel

/-! ## Vector instructions (R210 to R233) -/

def rows (l : List (BitVec 5 × Row)) (s : State := base) : State := s.modSl fun sl => l.foldl (fun a e => setV a e.1 e.2) sl
/-- Lane i of the first result. -/
def lane (i : Instr) (s : State) (k w : Nat) : Nat := laneN (((after (exec i s)).me.inflight.map InFl.value).headD 0) k w
/-- The first and the last lane of the first result. -/
def ends (i : Instr) (s : State) (w : Nat) : Nat × Nat := (lane i s 0 w, lane i s (2048 / w - 1) w)

/-- f32 lanes: v1 = 1.5, v2 = 2.25. -/
def vf : State := rows [(1, repRow 32 0x3FC00000), (2, repRow 32 0x40100000)]

theorem test_vectorFloat :
    [Instr.vadd ⟨0, .f32, d1, .reg 1, .src (.reg 2)⟩, .vsub ⟨0, .f32, d1, .reg 1, .src (.reg 2)⟩,
      .vmul ⟨0, .f32, d1, .reg 1, .src (.reg 2)⟩, .vfma ⟨0, .f32, d1, .reg 1, .src (.reg 2)⟩,
      .vfms ⟨0, .f32, d1, .reg 1, .src (.reg 2)⟩, .vmin ⟨0, .f32, d1, .reg 1, .src (.reg 2)⟩,
      .vmax ⟨0, .f32, d1, .reg 1, .src (.reg 2)⟩, .vneg ⟨0, .f32, d1, .reg 1⟩, .vabs ⟨0, .f32, d1, .negOne⟩].map
        (fun i => ends i vf 32) =
    [(0x40700000, 0x40700000), (0xBF400000, 0xBF400000), (0x40580000, 0x40580000), (0x409C0000, 0x409C0000),
      (0x3FF00000, 0x3FF00000), (0x3FC00000, 0x3FC00000), (0x40100000, 0x40100000), (0xBFC00000, 0xBFC00000),
      (0x3F800000, 0x3F800000)] := by decide +kernel

/-- i8 lanes: v1 = −128, v2 = 1: wrapping, saturating and high-half results, signed and unsigned. -/
theorem test_vectorInteger :
    let s := rows [(1, repRow 8 0x80), (2, repRow 8 1)]
    [Instr.vadd ⟨0, .i8, d1, .reg 1, .src (.reg 1)⟩, .vsub ⟨0, .i8, d1, .reg 1, .src (.reg 2)⟩, .vmul ⟨0, .i8, d1, .reg 1, .src .two⟩,
      .vadds ⟨0, .i8, d1, .reg 1, .src (.reg 1)⟩, .vadds ⟨1, .i8, d1, .reg 1, .src (.reg 1)⟩,
      .vsubs ⟨0, .i8, d1, .reg 1, .src (.reg 2)⟩, .vsubs ⟨1, .i8, d1, .reg 2, .src (.reg 1)⟩,
      .vmulh ⟨0, .i8, d1, .reg 1, .src (.reg 2)⟩, .vmulh ⟨1, .i8, d1, .reg 1, .src .two⟩,
      .vmin ⟨1, .i8, d1, .reg 1, .src (.reg 2)⟩, .vmax ⟨0, .i8, d1, .reg 1, .src (.reg 2)⟩,
      .vabs ⟨0, .i8, d1, .reg 1⟩, .vneg ⟨0, .i8, d1, .reg 2⟩].map (fun i => ends i s 8) =
    [(0, 0), (0x7F, 0x7F), (0, 0), (0x80, 0x80), (0xFF, 0xFF), (0x80, 0x80), (0, 0), (0xFF, 0xFF), (1, 1), (1, 1), (1, 1), (0x80, 0x80),
      (0xFF, 0xFF)] := by decide +kernel

/-- A vector result names its register, its latency and its lane mask. -/
theorem test_vectorMask :
    ((after (exec (.vadd ⟨0, .f32, ⟨false, 7⟩, .reg 1, .src (.reg 2)⟩) { vf with ctx := { vf.ctx with mask := 0b0111 } })).me.inflight.map
      fun e => (e.file, e.reg, e.delay, e.lmask.toNat)) = [(.vector, 7, 4, 3)] := by decide +kernel

/-- VCMP on i32 lanes 0, 1, 2, … against 1: GT fails in lanes 0 and 1, and each lane takes two mask bits. -/
theorem test_vectorCompare :
    lane (.vcmp ⟨.gt, .i32, 1, .lane, .src .one⟩) base 0 8 = 0xF0 ∧
    lane (.vcmp ⟨.ltu, .i32, 1, .lane, .src .negOne⟩) base 0 8 = 0xFF := by decide +kernel

theorem test_vectorBits :
    let s := (rows [(1, repRow 32 0x80000006), (2, repRow 32 0x00000003), (3, repRow 32 33)]).modSl fun sl => setM sl 2 0x0C
    [Instr.vand ⟨d1, .reg 1, .src (.reg 2)⟩, .vor ⟨d1, .reg 1, .src (.reg 2)⟩, .vxor ⟨d1, .reg 1, .src (.reg 2)⟩,
      .vshl ⟨.i32, d1, .reg 1, .src (.reg 3)⟩, .vshr ⟨.i32, d1, .reg 1, .src (.reg 3)⟩, .vsar ⟨.i32, d1, .reg 1, .src (.reg 3)⟩].map
        (fun i => lane i s 5 32) = [2, 0x80000007, 0x80000005, 0xC, 0x40000003, 0xC0000003] ∧
    [0, 1, 2].map (fun k => lane (.vsel ⟨2, d1, .reg 1, .src (.reg 2)⟩) s k 32) = [3, 0x80000006, 3] := by decide +kernel

/-- f32 1.5 to i16 under RNE and RTZ (lanes 64 and up are 0), i32 −3 to unsigned i8 and to f16. -/
theorem test_vectorConvert :
    let s := rows [(1, repRow 32 0x3FC00000), (2, repRow 32 0xFFFFFFFD)]
    ends (.vcvt ⟨.rne, .f32, .i16, false, false, d1, .reg 1⟩) s 16 = (2, 0) ∧
    ends (.vcvt ⟨.rtz, .f32, .i16, false, false, d1, .reg 1⟩) s 16 = (1, 0) ∧
    ends (.vcvt ⟨.rne, .i32, .i8, true, false, d1, .reg 2⟩) s 8 = (0, 0) ∧
    lane (.vcvt ⟨.rne, .i32, .f16, false, false, d1, .reg 2⟩) s 63 16 = 0xC200 := by decide +kernel

/-- The quad (16, 3, 0, 0) packs to the bytes 0x38 and 0x85, and unpacks to what it was (R219). -/
theorem test_packEn4 :
    let s := rows [(1, rowOf 32 ([16, 3, 0, 0] ++ List.replicate 60 0)), (2, 0x8538)]
    (lane (.vpack ⟨.rne, .i32, .en4, d1, .reg 1⟩) s 0 8, lane (.vpack ⟨.rne, .i32, .en4, d1, .reg 1⟩) s 1 8) = (0x38, 0x85) ∧
    [0, 1, 2, 3].map (fun k => lane (.vunpk ⟨0, .i32, .en4, d1, .reg 2⟩) s k 32) = [16, 3, 0, 0] := by decide +kernel

theorem test_vectorMoves :
    let s := (rows [(1, rowOf 8 (List.range 256)), (2, repRow 32 66)]).modSl fun sl => setS (setS sl 3 0x1FE) 4 64
    lane (.vbcast ⟨.i8, d1, .reg 3⟩) s 255 8 = 0xFE ∧ value (.vext ⟨.i8, d1, .reg 1, .src .negOne⟩) s = 2 ^ 64 - 1 ∧
    [62, 63].map (fun k => lane (.vlane ⟨.i32, d1, .reg 4, .src .negOne⟩) s k 32) = [0xFBFAF9F8, 64] ∧
    lane (.vperm ⟨.i32, d1, .reg 1, .src (.reg 2)⟩) s 9 32 = 0x0B0A0908 ∧
    [191, 192].map (fun k => lane (.vrm ⟨4, d1, .reg 1, .src (.reg 1)⟩) s k 8) = [255, 0] := by decide +kernel

/-- The example of R223: the tree gives 2^24 + 2, the scan stays at 2^24. -/
theorem test_treeAndScan :
    let s := rows [(1, rowOf 32 ([0x4B800000, 0x3F800000, 0x3F800000, 0x3F800000] ++ List.replicate 60 0))]
    value (.vreds ⟨.f32, d1, .reg 1⟩) s = 0x4B800001 ∧ ends (.vscan ⟨.f32, d1, .reg 1⟩) s 32 = (0x4B800000, 0x4B800000) ∧
    value (.vredmMax ⟨.f32, d1, .reg 1⟩) s = 0x4B800000 ∧ value (.vredmMin ⟨.f32, d1, .reg 1⟩) s = 0 := by decide +kernel

/-- Integer sums saturate once: 64 lanes of 2^30 give 2^31 − 1. -/
theorem test_integerReductions :
    let s := rows [(1, repRow 32 0x40000000)]
    value (.vreds ⟨.i32, d1, .reg 1⟩) s = 0x7FFFFFFF ∧ value (.vredmMax ⟨.i32, d1, .negOne⟩) s = 2 ^ 64 - 1 ∧
    [0, 1, 2].map (fun k => lane (.vscan ⟨.i32, d1, .reg 1⟩) s k 32) = [0x40000000, 0x7FFFFFFF, 0x7FFFFFFF] := by decide +kernel

/-- The example of R224: ranks 0.9 of lane 3, 0.9 of lane 6, 0.5 of lane 1. -/
theorem test_topk :
    let v : List Nat := [0, 0x3F000000, 0, 0x3F666666, 0, 0x3F000000, 0x3F666666] ++ List.replicate 57 0
    let t := after (exec (.topk ⟨.f32, d1, .reg 1, .imm [3]⟩) (rows [(1, rowOf 32 v)]))
    t.me.inflight.map (fun e => (e.reg.toNat, e.delay, [0, 1, 2, 3].map fun k => laneN e.value k 32)) =
      [(1, 12, [0x3F666666, 0x3F666666, 0x3F000000, 0xFF800000]), (2, 12, [3, 6, 1, 0xFFFFFFFF])] := by decide +kernel

/-- Points at which the functions are exact, and the rows of R227. -/
theorem test_specialFunctions :
    let s := rows [(1, rowOf 32 ([0, 0x40800000, 0x7F800000, 0xFF800000] ++ List.replicate 60 0x3F800000))]
    let f (op : OpVt1 → Instr) : List Nat := [0, 1, 2, 3, 63].map fun k => lane (op ⟨.f32, d1, .reg 1⟩) s k 32
    f .vexp2 = [0x3F800000, 0x41800000, 0x7F800000, 0, 0x40000000] ∧
    f .vlog2 = [0xFF800000, 0x40000000, 0x7F800000, 0x7FC00000, 0] ∧
    f .vrcp = [0x7F800000, 0x3E800000, 0, 0x80000000, 0x3F800000] ∧
    f .vrsq = [0x7F800000, 0x3F000000, 0, 0x7FC00000, 0x3F800000] ∧
    (f .vsig).headD 1 = 0x3F000000 ∧ (f .vtanh).take 1 = [0] ∧ (f .vsilu).getD 3 0 = 0x80000000 ∧
    (f .vgelu).getD 2 0 = 0x7F800000 := by decide +kernel

/-- e^(x − m): one for equal operands, zero for −∞, and the unit is taken for four cycles. -/
theorem test_vexpd :
    let s := rows [(1, rowOf 32 (0xFF800000 :: List.replicate 63 0x3FC00000)), (2, repRow 32 0x3FC00000)]
    ends (.vexpd ⟨.f32, d1, .reg 1, .src (.reg 2)⟩) s 32 = (0, 0x3F800000) ∧
    (after (exec (.vexpd ⟨.f32, d1, .reg 1, .src (.reg 2)⟩) s)).me.sfu = 4 := by decide +kernel

/-- A unit taken by an earlier bundle freezes the core. -/
theorem test_sfuBusyFreezes :
    (after (exec (.vexp2 ⟨.f32, d1, .reg 1⟩) (vf.modMe fun k => { k with sfu := 1 }))).sig = .frozen := by decide +kernel

theorem test_masks :
    let s := base.modSl fun sl => setM (setM sl 1 0b1100) 2 0b1010
    [Instr.mand ⟨3, 1, 2⟩, .mor ⟨3, 1, 2⟩, .mpop ⟨d1, 2⟩, .mfirst ⟨3, 1⟩].map (fun i => value i s) = [8, 14, 2, 4] ∧
    lane (.mnot ⟨3, 1⟩) s 0 8 = 0xF3 := by decide +kernel

/-- Mode 0 transposes 32-bit lanes: popped row 1 holds lane 1 of each pushed row, zero where none was pushed. -/
theorem test_transposer :
    let push (v : Row) (s : State) : State := after (exec (.xpush ⟨0, .fp64, .reg 1⟩) (rows [(1, v)] s))
    let s := push (rowOf 32 [5, 6]) (push (rowOf 32 [7, 8]) base)
    let t := after (exec (.xpop ⟨d1⟩) s)
    [0, 1, 2].map (fun k => lane (.xpop ⟨d1⟩) s k 32) = [7, 5, 0] ∧ t.me.xpose.popped = 1 ∧
    ((after (exec (.xpop ⟨d1⟩) (t.modMe fun k => { k with inflight := [] }))).me.inflight.map fun e =>
      (e.group, e.delay, laneN e.value 1 32)) = [(.bx, 5, 6)] := by decide +kernel

/-- The example of R233. -/
theorem test_deferAndDrain :
    let s := (rows [(4, rowOf 32 ((List.range 10).map fun i => 0x100 + i))]).modSl fun sl =>
      setS { setM sl 1 0b11000000110000110000 with dq := 2 } 9 1
    let s := s.modMe fun k => { k with deferred := [⟨0, 0, [77]⟩] }
    let t := after (exec (.defer ⟨1, 0, 3, 4, .src (.reg 9)⟩) s)
    let u := after (exec (.drain ⟨0, ⟨false, 10⟩, .reg 9⟩) (t.modMe fun k => { k with inflight := [] }))
    value (.defer ⟨1, 0, 3, 4, .src (.reg 9)⟩) s = 0 ∧ t.sl.dq = 3 ∧ u.me.deferred = [⟨0, 0, [77]⟩] ∧
    u.me.inflight.map (fun e => (e.reg.toNat, e.delay, [0, 1, 2, 3].map fun k => laneN e.value k 32)) =
      [(10, 4, [0x102, 0x105, 0x109, 0]), (11, 4, [130, 133, 137, 0xFFFFFFFF])] := by decide +kernel

/-! ## Matrix instructions (R234 to R277) -/

def tid (fmt : BitVec 5) (rec_ : BitVec 5) : TidEnt := { TidEnt.invalid with
  v := true
  fmt := fmt
  ndim := 2
  frec := rec_
  fv := true }
/-- Tiles: t1, t2 and t3 BF16, t4 FP64, t5 I8, with records of their own; MPC = 0x40; rows named by s27 to s31. -/
def tiles (s : State := mapped) : State :=
  (regs [(27, 192), (28, 64), (29, 128), (30, 0), (31, 32), (26, 2)] s).modSl fun sl => { sl with
    tids := [(1, tid 3 1), (2, tid 3 2), (3, tid 3 3), (4, tid 0 4), (5, tid 10 5)]
    mpc := 0x40 }
/-- The array's queue, MPC and the results sent after an instruction. -/
structure Queued where
  ops : List (MK × Nat × Nat × Nat)
  mpc : Word
  sends : List (Nat × Nat × Nat)
deriving DecidableEq
def queue (i : Instr) (s : State := tiles) : Queued :=
  let t := after (exec i s)
  ⟨t.me.mq.map fun o => (o.kind, o.occ, o.rowA, o.rowB), t.sl.mpc, t.me.inflight.map fun e => (e.reg.toNat, e.delay, e.value.toNat)⟩

/-- The occupancies of R243: BF16 by BF16 64 cycles, FP64 by BF16 448; MMA, MMAT over 33 k-steps and KAT enter, MPC steps, and
p7 is false where the instruction may hold. -/
theorem test_productsEnter :
    queue (.mma ⟨g0, false, 2, 1, 2, none⟩) = ⟨[(.mma, 64, 0, 32)], 0x44, [(7, 1, 0)]⟩ ∧
    queue (.mma ⟨g0, false, 2, 4, 2, none⟩) = ⟨[(.mma, 448, 0, 32)], 0x44, [(7, 1, 0)]⟩ ∧
    queue (.mmat ⟨g0, false, 2, 1, 2, 0, 0, 32⟩) = ⟨[(.mmat, 128, 0, 32)], 0x44, [(7, 1, 0)]⟩ ∧
    queue (.kat ⟨g0, 2, 5, 5, 1, 2⟩) = ⟨[(.kat, 64, 0, 32)], 0x44, []⟩ ∧
    queue (.mma ⟨⟨true, 0⟩, false, 2, 1, 2, none⟩) = ⟨[], 0x44, []⟩ := by decide +kernel

/-- MMAS reads the word at MPC: bit 14 set and the bits above it zero. -/
theorem test_mmasReadsItsWord :
    queue (.mmas ⟨g0, false, 2, 1, 2, none⟩) (tiles.wrBytes 0x40 4 0x4000) = ⟨[(.mmas, 64, 0, 32)], 0x44, [(7, 1, 0)]⟩ ∧
    (after (exec (.mmas ⟨g0, false, 2, 1, 2, none⟩) tiles)).me.tcause = 0x000C := by decide +kernel

/-- Invalid identifier, no pair, odd accumulator of an FP64 pair, declared width above the format's, full queue. -/
theorem test_matrixTraps :
    let cause (i : Instr) (s : State) : Nat := (after (exec i s)).me.tcause.toNat
    cause (.mma ⟨g0, false, 1, 6, 2, none⟩) tiles = 0x0301 ∧
    cause (.mma ⟨g0, false, 1, 5, 4, none⟩) (tiles.modSl fun sl => { sl with tids := [(4, tid 13 0), (5, tid 10 5)] }) = 0x0401 ∧
    cause (.mma ⟨g0, false, 1, 4, 2, none⟩) tiles = 0x0402 ∧ cause (.mma ⟨g0, false, 2, 1, 2, some (9, 0)⟩) tiles = 0x0403 ∧
    cause (.aclr ⟨1⟩) (tiles.modMe fun k => { k with mq := List.replicate 4 (blankOp base (.aclr ⟨1⟩)) }) = 0x0407 ∧
    cause (.accld ⟨1, .reg 1, 0⟩) (tiles.modSl fun sl => setS sl 1 8129) = 0x0205 := by decide +kernel

theorem test_accumulators :
    queue (.aclr ⟨3⟩) = ⟨[(.aclr, 1, 0, 0)], 0x44, []⟩ ∧ queue (.accld ⟨3, .reg 28, 63⟩) = ⟨[(.accld, 64, 127, 0)], 0x44, []⟩ ∧
    queue (.accst ⟨3, .reg 28, 0⟩) = ⟨[(.accst, 64, 64, 0)], 0x44, []⟩ ∧
    (after (exec (.mpcset ⟨.src .negOne⟩) tiles)).sl.mpc = 0xFFFFFFFFFFFFC ∧
    vget (after (exec (.accld ⟨3, .reg 28, 0⟩) tiles)).sl.adopt 3 true = false := by decide +kernel

/-- The tile instructions name the rows in s27 to s29. -/
theorem test_tilesEnter :
    [Instr.tadd ⟨.rne, 1, 2, 3⟩, .tsub ⟨.rne, 1, 2, 3⟩, .tmul ⟨.rne, 1, 2, 3⟩, .tscale ⟨.rne, 1, .src .two, 3⟩, .trelu ⟨.rne, 1, 3⟩,
      .tcvt ⟨.rne, 1, 3⟩, .resolve ⟨1⟩].map (fun i => let q := queue i
        (q.ops.map fun e => (e.1, e.2.1), q.mpc, q.sends)) =
    [([(.tadd, 64)], 0x44, []), ([(.tsub, 64)], 0x44, []), ([(.tmul, 64)], 0x44, [(7, 1, 0)]), ([(.tscale, 64)], 0x44, []),
      ([(.trelu, 64)], 0x44, [(7, 1, 0)]), ([(.tcvt, 128)], 0x44, []), ([(.resolve, 64)], 0x44, [(7, 1, 0)])] := by decide +kernel

def recOf (i : Instr) (k : Nat) (s : State := tiles) : FRec := (after (exec i s)).sl.frec k
/-- TSCALE by 2 doubles every row scale of D's record, and TADD doubles A's shifts. -/
theorem test_tileRecords :
    let s := tiles.modSl fun sl => sl.setFrec 1 { FRec.identity with rh := vset FRec.identity.rh 63 ⟨one64, 0, false, 0⟩ }
    let s := s.modSl fun sl => sl.setFrec 2 (sl.frec 1)
    ((recOf (.tscale ⟨.rne, 1, .src .two, 3⟩) 3 s).rs.toList.map (·.coef)).eraseDups = [two64] ∧
    (rhAt (recOf (.tadd ⟨.rne, 1, 2, 3⟩) 3 s) 63).val = two64 ∧ (rhAt (recOf (.tsub ⟨.rne, 1, 2, 3⟩) 3 s) 63).val = 0 ∧
    (after (exec (.tadd ⟨.rne, 1, 3, 3⟩) s)).me.tcause = 0x0411 := by decide +kernel

theorem test_records :
    (csAt (recOf (.fset ⟨.cs, 1, .src .two, 60⟩) 1) 60).coef = two64 ∧ (chAt (recOf (.fset ⟨.ch, 1, .src .half, 0⟩) 1) 0).val =
      0x3FE0000000000000 ∧
    (let s := tiles.modSl fun sl => sl.setFrec 1 { FRec.identity with rs := vset FRec.identity.rs 5 ⟨two64, 0, false, 0, false⟩ }
     recOf (.fclr ⟨1⟩) 1 s = .identity ∧ (rsAt (recOf (.fcopy ⟨1, 2⟩) 2 s) 5).coef = two64 ∧
     value (.fread ⟨d1, 1, .imm [5]⟩) s = two64.toNat) ∧
    (let s := tiles.modSl fun sl => sl.setFrec 26 { FRec.identity with cs := vset FRec.identity.cs 7 ⟨two64, 0, false, 0, false⟩ }
     (csAt (recOf (.fcopyAcc ⟨1⟩) 1 s) 7).coef = two64) ∧
    (after (exec (.fset ⟨.cs, 6, .src .two, 60⟩) tiles)).me.tcause = 0x0301 := by decide +kernel

/-- The lowest free entry, then −1 where all 128 are taken; RROW of an open entry; RRTFREE; a free entry named. -/
theorem test_reductions :
    let s := tiles.modSl fun sl => sl.setRed 0 (newRed .sum 64 0)
    let full := tiles.modSl fun sl => { sl with reds := (List.range 128).map fun i => (i, newRed .sum 64 0) }
    value (.rrtalloc ⟨.sum, d1, .two, .src .zero⟩) s = 1 ∧
    value (.rrtalloc ⟨.sum, d1, .two, .src .zero⟩) full = 2 ^ 64 - 1 ∧
    (queue (.rrow ⟨.sum, 1, .src .zero⟩) s).ops.map (fun e => (e.1, e.2.1)) = [(.rrow, 64)] ∧
    (queue (.rcol ⟨.sum, 1, .src .zero⟩) s).ops.map (fun e => (e.1, e.2.1)) = [(.rcol, 64)] ∧
    (queue (.rseal ⟨.src .zero⟩) s).ops.map (fun e => (e.1, e.2.1)) = [(.rseal, 2)] ∧
    ((after (exec (.rrtfree ⟨.src .zero⟩) s)).sl.red 0).state = .free ∧
    (after (exec (.rrow ⟨.sum, 1, .src .one⟩) s)).me.tcause = 0x0413 := by decide +kernel

/-- FBIND names an open entry's value by its handle: row 3's scale slot takes handle 3. -/
theorem test_fbind :
    let s := tiles.modSl fun sl => sl.setRed 0 (newRed .sum 64 0)
    (rsAt (recOf (.fbind ⟨.rs, 1, .src .zero, 3⟩) 1 s) 3).h0v = true := by decide +kernel

/-- A window of three f32 products: 1.5 + 2.25 into an accumulator of 1.0, rounded once. -/
theorem test_chunkSum : (chunkFloat .f32 112 [.fin false 3 (-1), .fin false 9 (-2)] 0x3F800000).1 = 0x40980000 := by decide +kernel

/-! ## Memory (R278 to R298) -/

/-- s2 = 0x3000, s3 = 5; line 0x3000 holds 0x0102030405060708 in its second lane; scratchpad row 7 holds 9 in lane 3. -/
def ram : State :=
  ((mapped (regs [(1, 0x55), (2, 0x3000), (3, 5), (4, 7), (5, 0x3008)])).wrBytes 0x3008 8 0x0102030405060708).wrBytes (spadRow 0 7 + 24) 8 9

/-- Core 0 holds line 0x3000 in M. -/
def owned (s : State := ram) : State := s.modMe fun k => { k with l1 := [(0x30, ⟨0x3000, .m, 15, 0, 0, 0⟩)] }

theorem test_spad :
    lane (.ldr ⟨d1, .zero, .off 7⟩) ram 3 64 = 9 ∧ sent (.lds ⟨d1, .reg 4, .off 0, 3⟩) ram = [(1, 6, 9)] ∧
    (let t := after (exec (.sts ⟨3, .reg 4, .off 0, 31⟩) ram)
     rdN t.mem (spadRow 0 7 + 248) 8 = 5 ∧ rdN t.mem (spadRow 0 7 + 24) 8 = 9) ∧
    (let t := after (exec (.str ⟨1, .reg 4, .off 0⟩) (rows [(1, repRow 8 0xA5)] ram))
     rdN t.mem (spadRow 0 7) 2 = 0xA5A5 ∧ rdN t.mem (spadRow 0 7 + 254) 4 = 0xA5A5) ∧
    (let t := after (exec (.ldr ⟨d1, .reg 2, .off 0⟩) ram)
     t.me.tcause = 0x0205 ∧ t.me.tval = 0x3000) := by decide +kernel

/-- A load of a line held reads it or its lane, due after 40 cycles, and one of a line not held waits for it; a store at task level is withheld; at supervisor level it is written
where the cluster holds the line in M, and asks for the line elsewhere. -/
theorem test_globalLoadsAndStores :
    lane (.ldg ⟨d1, .reg 2, .off 0⟩) owned 1 64 = 0x0102030405060708 ∧
    sent (.ldgs ⟨d1, .reg 2, .off 1⟩) owned = [(1, 40, 0x0102030405060708)] ∧
    (after (exec (.ldg ⟨d1, .reg 2, .off 0⟩) ram)).me.inflight.map (fun e => e.acc.map (·.st)) = [some .pending] ∧
    (let t := after (exec (.stgs ⟨3, .reg 2, .off 1⟩) ram)
     rdN t.mem 0x3008 8 = 0x0102030405060708 ∧ t.me.withheld.map (fun h => (h.va, h.lane, h.data.toNat)) = [(0x3008, some 1, 5)]) ∧
    (let t := after (exec (.stgs ⟨3, .reg 2, .off 1⟩) (owned.modSl fun sl => { sl with sup := true }))
     rdN t.mem 0x3008 8 = 5 ∧ t.me.withheld = []) ∧
    (let t := after (exec (.stgs ⟨3, .reg 2, .off 1⟩) (ram.modSl fun sl => { sl with sup := true }))
     rdN t.mem 0x3008 8 = 0x0102030405060708 ∧ t.msgs.map (·.kind) = [.getm]) ∧
    (let s := (ram.modMe fun k => { k with l1 := [(0x31, ⟨0x3100, .m, 15, 0, 0, 0⟩)] }).modSl fun sl => { sl with sup := true }
     let t := after (exec (.stg ⟨1, .reg 2, .off 1⟩) (rows [(1, repRow 8 0xA5)] s))
     rdN t.mem 0x30FE 4 = 0xA5A50000 ∧ rdN t.mem 0x31FE 4 = 0xA5A5) ∧
    (after (exec (.ldg ⟨d1, .reg 2, .off 0⟩) base)).me.inflight.map (fun e => e.acc.map (·.st)) = [some .pending] := by decide +kernel

/-- A load of a line that the slot has stored to reads what is withheld. -/
theorem test_loadSeesWithheldStore :
    let s := after (exec (.stgs ⟨3, .reg 2, .off 1⟩) owned)
    sent (.ldgs ⟨d1, .reg 2, .off 1⟩) (s.modMe fun k => { k with inflight := [] }) = [(1, 40, 5)] := by decide +kernel

theorem test_marmAndMwait :
    let t := after (exec (.marm ⟨d1, .reg 2⟩) owned)
    t.me.monitor = some 0x3000 ∧ value (.mwait ⟨1, .src .zero⟩) (t.modMe fun k => { k with inflight := [] }) = 1 ∧
    (after (exec (.mwait ⟨1, .src .zero⟩) (t.modMe fun k => { k with monitorHit := true }))).me.monitor = none := by decide +kernel

theorem test_cacheMaintenance :
    [Instr.pref ⟨.reg 2, .off 0⟩, .cflush ⟨.reg 2, .off 0⟩, .cinv ⟨.reg 2, .off 0⟩].map (fun i =>
      let t := after (exec i ram)
      (rdN t.mem 0x3008 8, t.msgs.map (·.kind))) =
    [(0x0102030405060708, [.gets]), (0x0102030405060708, []), (0x0102030405060708, [])] := by decide +kernel

/-- The ten atomics on the 64-bit value 0x…05060708, in a line held in M: new memory and old value. -/
theorem test_atomics :
    let x (mk : OpAt → Instr) (b : Src) : Nat × Nat :=
      let o : OpAt := ⟨⟨false, 1⟩, .reg 5, b, .rlx, true⟩
      let w := ((encode (mk o)).map Prod.fst).getD 0
      let t := after (exec (mk o) { owned with ctx := { ram.ctx with word := w } })
      (rdN t.mem 0x3008 8, (t.me.inflight.map fun e => e.value.toNat).headD 0)
    x .aadd (.reg 3) = (0x010203040506070D, 0x0102030405060708) ∧ x .amin .negOne = (2 ^ 64 - 1, 0x0102030405060708) ∧
    x .amax .negOne = (0x0102030405060708, 0x0102030405060708) ∧ x .aand (.reg 3) = (0, 0x0102030405060708) ∧
    x .aor (.reg 3) = (0x010203040506070D, 0x0102030405060708) ∧ x .axor .negOne = (0xFEFDFCFBFAF9F8F7, 0x0102030405060708) ∧
    x .axchg (.reg 3) = (5, 0x0102030405060708) ∧ x .acas (.reg 3) = (0x0102030405060708, 0x0102030405060708) := by decide +kernel

/-- 32-bit forms: saturation at 2^31 − 1, an AFADD of 1.0 to 1.5, and an ACAS that matches; results are sign-extended. -/
theorem test_atomicsOf32Bits :
    let run (mk : OpAt → Instr) (a : Nat) (b d : Word) : Nat × Nat :=
      let o : OpAt := ⟨⟨false, 1⟩, .reg 5, .reg 6, .ar, false⟩
      let w := ((encode (mk o)).map Prod.fst).getD 0
      let s := (regs [(1, d), (5, 0x300E), (6, b)] owned).wrBytes 0x300C 4 a
      let t := after (exec (mk o) { s with ctx := { s.ctx with word := w } })
      (rdN t.mem 0x300C 4, (t.me.inflight.map fun e => e.value.toNat).headD 0)
    run .aadds 0x7FFFFFFF 1 0 = (0x7FFFFFFF, 0x7FFFFFFF) ∧ run .afadd 0x3FC00000 0x3F800000 0 = (0x40200000, 0x3FC00000) ∧
    run .acas 0x80000000 3 0xFFFFFFFF80000000 = (3, 0xFFFFFFFF80000000) := by decide +kernel

/-! ## Witnesses: states and operands that meet the hypotheses of the statements, clause by clause -/

def ran (o : Out) : Bool :=
  match o with
  | .next _ => true
  | _ => false
theorem eq_next_after {o : Out} (h : ran o = true) : o = .next (after o) := by
  cases o <;> simp_all [ran, after]
theorem witness_SpecWordsDecode :
    (wOp 0x0E000000).toNat = 0x0E ∧ (wOp 0x47FFFFFF).toNat = 0x47 ∧ wOp 0x7F000000 = 0x7F ∧ wOp 0x7E000000 = 0x7E := by decide

theorem witness_EncodedInstructionsDecodeBack :
    let i : Instr := .apush ⟨7, .reg 31, .reg 31, 0xFFFFFFFFFFFFC⟩
    i.wf = true ∧ encode i = some (0x7A1DF7C1, [0x7FFFFFFC, 0x1FFFFF]) ∧
    (Instr.pfx ⟨.sys, 0, 7, true, 7, true⟩).wf = true ∧
    encode (.pfx ⟨.sys, 0, 7, true, 7, true⟩) = some (0x7E803FC0, []) := by decide +kernel

/-- ADD s1, s1, s2 or MFC s1, CYCLE in a bundle at address 0. -/
def fetched (w : Nat) : State := State.reset.withFetchWord 32 w
def slot0 (w : SlotWord) (i : Instr) : RSlot := ⟨0, 0, 16, 4, .core, 0, w, i, none, 1⟩
def page0 : Tlb := ⟨0, 0, 34, 0, true, true, true, true, 0⟩
/-- What the fetch of a bundle of four words at an address uses. -/
def used (a : Nat) : List (Tlb × Nat) := [(page0, a), (page0, a + 4), (page0, a + 8), (page0, a + 12)]

theorem witness_StepRunsTheDecodedInstruction :
    let s := fetched 0x01041080
    let s1 := cycleStart { s with agenda := [] } 0
    let pc := bundleAddr (s1.core 0).slot.pc
    let ts := used 0
    let base := fillAll s1 0 ts
    let i : Instr := .add ⟨⟨false, 0⟩, ⟨false, 1⟩, .reg 1, .src (.reg 2)⟩
    let x := slot0 0x01041080 i
    let b : Bundle := ⟨4, .core, [⟨0, 0x01041080, [], i, none⟩, ⟨1, 0, [], .nop, none⟩, ⟨2, 0, [], .nop, none⟩,
      ⟨3, 0x80000000, [], .nop, none⟩]⟩
    s.agenda = [.issue 0] ∧ s.fatal = none ∧ s.boot = .ready ∧ s.power = .p0 ∧
    (retry (cycleOpen { s with agenda := [] } 0) 0).2 = none ∧
    ((s1.core 0).slot.task.isSome = true ∧ (s1.core 0).trapping = none ∧ (s1.core 0).slot.ending = none ∧
      (s1.core 0).slot.bubble = false ∧ (s1.core 0).returning = false ∧
      dueFault (s1.core 0) = none ∧ dueLate (s1.core 0) = false ∧ (s1.core 0).slot.loops = []) ∧
    fetchGo s1 0 8 pc = .ok ([0x01041080, 0, 0, 0x80000000], ts) ∧ decodeBundle [0x01041080, 0, 0, 0x80000000] = .ok b ∧
    placed (slotsOf pc (fetchedAt ts) b) = [x] ∧ ran (exec x.instr (withCtx base x)) = true ∧
    (after (exec x.instr (withCtx base x))).sig = .none ∧
    dueInterrupt base 0 = none ∧ ((base.core 0).jfull || overfull base x) = false ∧ readsFirst x.instr = false ∧
    (let go := actState base [after (exec x.instr (withCtx base x))]
     ran (exec x.instr (withCtx go x)) = true ∧ (after (exec x.instr (withCtx go x))).sig = .none) := by decide +kernel

theorem witness_StepRunsAReadFirst :
    let s := fetched 0x0D041000
    let s1 := cycleStart { s with agenda := [] } 0
    let base := fillAll s1 0 (used 0)
    let x := slot0 0x0D041000 (.mfc ⟨⟨false, 1⟩, .cycle⟩)
    fetchGo s1 0 8 0 = .ok ([0x0D041000, 0, 0, 0x80000000], used 0) ∧ readsFirst x.instr = true ∧
    ran (exec x.instr (withCtx base x)) = true ∧ (after (exec x.instr (withCtx base x))).sig = .none ∧
    (after (exec x.instr (withCtx base x))).me.inflight.getLast?.isSome = true ∧
    ((after (exec x.instr (withCtx base x))).me.inflight.getLast?.map fun e => (base.push e).sig) = some .none := by
  decide +kernel

/-- A boot that finds nothing amiss and sets nothing. -/
def noBoot : BootIn := ⟨none, [], 0, .replicate 8 0, .replicate 8 0, .replicate 4 0⟩
theorem witness_EventsAndTheSchedule :
    let s : State := { State.reset with agenda := [.event .balancerSample] }
    (s.agenda = [.event .balancerSample] ∧ Instr.balancerSample.isSlot = false ∧ awake { s with boot := .ready } = true ∧
      fromOutside (.reset noBoot) = true) ∧ State.reset.agenda = [] := by decide +kernel

/-- ADD and PAND side by side. -/
theorem witness_BundleRunsItsSlots :
    let s := (fetched 0x01041080).wrBytes 4 4 0x09042040
    let s1 := cycleStart { s with agenda := [] } 0
    let ts := used 0
    let base := fillAll s1 0 ts
    let i : Instr := .add ⟨⟨false, 0⟩, ⟨false, 1⟩, .reg 1, .src (.reg 2)⟩
    let j : Instr := .pand ⟨⟨false, 0⟩, 1, 2, 1⟩
    let x := slot0 0x01041080 i
    let y : RSlot := { slot0 0x09042040 j with
      pos := 1
      place := 2 }
    let b : Bundle := ⟨4, .core, [⟨0, 0x01041080, [], i, none⟩, ⟨1, 0x09042040, [], j, none⟩, ⟨2, 0, [], .nop, none⟩,
      ⟨3, 0x80000000, [], .nop, none⟩]⟩
    fetchGo s1 0 8 0 = .ok ([0x01041080, 0x09042040, 0, 0x80000000], ts) ∧
    decodeBundle [0x01041080, 0x09042040, 0, 0x80000000] = .ok b ∧ placed (slotsOf 0 (fetchedAt ts) b) = [x, y] ∧
    ([x, y].all fun x => ran (exec x.instr (withCtx base x)) && (after (exec x.instr (withCtx base x))).sig == .none) = true ∧
    dueInterrupt base 0 = none ∧ ((base.core 0).jfull || [x, y].any (overfull base)) = false ∧
    (retry (cycleOpen { s with agenda := [] } 0) 0).2 = none ∧ (s1.core 0).slot.bubble = false ∧
    (let go := actState base ([x, y].map fun x => after (exec x.instr (withCtx base x)))
     ran (runSlots base (effOrder [x, y]) go) = true ∧ (after (runSlots base (effOrder [x, y]) go)).sig = .none) := by
  decide +kernel

/-- A result due now. -/
def due (file : RFile) (r : BitVec 5) (nl : Bool) (v : Row) : InFl := ⟨1, file, r, .bs, nl, 0, 0, v, BitVec.allOnes 128, 0, none, false, 0⟩
def landing (l : List InFl) : Core := { Core.reset with inflight := l.map fun e => { e with delay := 0 } }

theorem witness_ResultsToZeroRegistersAreDiscarded :
    let e : InFl := { due .scalar 0 false 9 with delay := 0 }
    ((((landing [e]).inflight.filter InFl.ready).filter fun f => !f.nl && f.group == .bs).getLast? = some e ∧ e.file = .scalar) ∧
    (∀ f ∈ (landing [due .pred 0 true 1]).inflight, f.ready = true → f.nl = true) ∧
    (landing [e]).inflight.any InFl.awaited = false := by decide +kernel

theorem witness_LaterResultIsWritten :
    let e (f : RFile) (r : BitVec 5) : InFl := { due f r true 9 with delay := 0 }
    let k (f : RFile) (r : BitVec 5) : Core := landing [e f r, e f r]
    [(RFile.scalar, (31 : BitVec 5)), (.pred, 7), (.mask, 7), (.vector, 31)].all (fun x =>
      (k x.1 x.2).inflight.filter InFl.ready == [e x.1 x.2] ++ e x.1 x.2 :: []) = true ∧
    ([] : List InFl).any (e .scalar 31).sameDst = false ∧ (k .vector 31).inflight.any InFl.awaited = false ∧ (e .scalar 31).reg ≠ 0 ∧
    (e .pred 7).reg.setWidth 3 = (7 : BitVec 3) ∧ (e .mask 7).reg.setWidth 3 = (7 : BitVec 3) := by
  decide +kernel

theorem witness_ResultIsSeenAfterItsLatency :
    let e (f : RFile) (r : BitVec 5) (g : Lat) (nl : Bool) : InFl := { due f r nl 9 with group := g }
    let l := [e .scalar 31 .bs false, e .none 0 .bs false, e .vector 31 .bv false, e .vector 31 .bl false, e .none 0 .bx false,
      e .pred 7 .bs true, e .mask 7 .bv true]
    (∀ x ∈ l, ({ Core.reset with inflight := [x] } : Core).inflight = [x] ∧ x.delay = 1 ∧ x.acc = none ∧ x.cause = 0 ∧
      x.remote = false) ∧ (e .scalar 31 .bs false).reg ≠ 0 ∧ (e .pred 7 .bs true).reg.setWidth 3 = (7 : BitVec 3) ∧
    (e .mask 7 .bv true).reg.setWidth 3 = (7 : BitVec 3) := by decide +kernel

theorem witness_IntegerInstructionResults : guardOn ints g0 = true ∧ guardOn ints ⟨true, 7⟩ = true := by decide +kernel
theorem witness_FailedGuardDoesNothing : guardOn ints ⟨true, 0⟩ = false ∧ guardOn ints ⟨false, 7⟩ = false := by decide +kernel
theorem witness_CompareSelectAndPredicates :
    pReg ints.sl 0 ≠ false ∧ pReg ints.sl 7 = false ∧ guardOn ints g0 = true := by decide +kernel
/-- 1.5 and 2.25 compare; 1.5 and a NaN do not. -/
theorem witness_ScalarFloatResults :
    cmpFV (decodeF .f64 0x3FF8000000000000) (decodeF .f64 0x4002000000000000) = some .lt ∧
    cmpFV (decodeF .f64 0x3FF8000000000000) (decodeF .f64 0x7FF8000000000000) = none := by decide +kernel

def sup (s : State := mapped) : State := s.modSl fun sl => { sl with sup := true }
theorem witness_ControlRegisterAccess :
    CReg.wp3.code.toNat < 0x10 ∧ (sup).sl.sup = true ∧ 0x10 ≤ CReg.tvec.code.toNat ∧ base.sl.sup = false ∧
    base.sl.loops.length ≤ 4 ∧ CReg.wp3 ≠ .cycle := by decide +kernel

theorem witness_BranchTargets :
    guardOn base g0 = true ∧ (srcS base .zero).toInt = 0 ∧ ¬(srcS base .zero).toInt ≠ 0 ∧ d1.n = false ∧ (⟨true, 0⟩ : Dst).n = true := by
  decide +kernel

/-- A body of one bundle after the loop's own: NOPs at 0x110, in a loop bundle at 0x100. -/
def looped : State := (mapped).wrBytes 0x11C 4 0x80000000
theorem witness_LoopInstructions :
    looped.ctx.words ≤ (4 : BitVec 11).toNat ∧ looped.sl.loops.length < 4 ∧ (0 : Int) < (opndS looped (.src .one)).toInt ∧
    (opndS looped (.src .zero)).toInt ≤ 0 ∧ 1 % (1 : BitVec 6).toNat = 0 ∧ ((3 : BitVec 11).toNat < looped.ctx.words) ∧
    4 ≤ (looped.modSl fun sl => { sl with loops := List.replicate 4 ⟨0, 0, 1, 0, false, none⟩ }).sl.loops.length := by decide +kernel

theorem witness_loopBodies :
    (match fetchGo looped 0 8 (looped.ctx.baddr + BitVec.ofNat 52 16) with
      | .ok (ws, ts) => ws == [0, 0, 0, 0x80000000] && ts == used 0x110
      | _ => false) = true ∧
    (match bodyOf looped 0 looped.ctx.next (looped.ctx.baddr + BitVec.ofNat 52 16) with
      | .ok (some (b, ts)) => b == [(0x110, 0x110, [0, 0, 0, 0x80000000])] && ts == used 0x110
      | _ => false) = true := by decide +kernel

theorem witness_MarkerInstructions :
    let s := base.modMe fun k => { k with preempt := true }
    let m (seen : List (Nat × BitVec 12)) : State := base.modMe fun k => { k with
      marks := [3]
      rdzSeen := seen }
    base.me.preempt = false ∧ base.eff.ckpt = false ∧ (s.me.preempt = true ∧ s.sl.sup = false ∧ s.sl.loops = []) ∧ (sup).sl.sup = true ∧
    (∀ e ∈ (m []).cores, (m []).cur ∉ e.2.marks) ∧
    ((m [(3, 7)]).me.marks.filter fun x => !(m [(3, 7)]).me.rdzSeen.contains (x, 7)) = [] ∧
    ((m []).me.marks.filter fun x => !(m []).me.rdzSeen.contains (x, 7)) ≠ [] ∧ (m []).sl.replay = false := by decide +kernel

theorem witness_VectorArithmeticResults :
    LaneT.f64.isFloat = true ∧ LaneT.bf16.isFloat = true ∧ LaneT.i64.isFloat = false ∧ LaneT.i8.isFloat = false := by decide
theorem witness_VectorBitResults : 16 ≤ LaneT.i16.width ∧ 16 ≤ LaneT.f64.width := by decide
theorem witness_VectorConversionsAndMoves :
    Fmt.e4m3.narrow = true ∧ Fmt.en4.narrow = true ∧ ((3 : BitVec 3).toNat + 1) * (2048 / LaneT.f32.width) ≤ 2048 / Fmt.e4m3.width := by
  decide
/-- Rows of NaN and of 1.0; the lanes of a mask that leaves the first ones out. -/
theorem witness_VectorReductions :
    let s := rows [(1, repRow 32 0x7FC00000), (2, repRow 32 0x3F800000)]
    let live := (List.range 64).filter fun i => active s.ctx.mask 32 i
    (∃ i ∈ live, (decodeF .f32 (laneN (srcVT s .f32 .rne (.reg 1)) i 32)).isNaN = true) ∧
    (∀ i ∈ live, (decodeF .f32 (laneN (srcVT s .f32 .rne (.reg 2)) i 32)).isNaN = false) ∧
    (let m : LaneMask := 0xF0
     active m 32 2 = true ∧ active m 32 3 = true ∧ (∀ j, j < 2 → active m 32 j = false) ∧
     (∀ k, 2 < k → k < 3 → active m 32 k = false)) := by
  refine ⟨⟨0, ?_⟩, ?_, ?_, ?_, ?_, ?_⟩
  · decide +kernel
  · decide +kernel
  · decide +kernel
  · decide +kernel
  · decide +kernel
  · intro k h1 h2; omega
theorem witness_SpecialFunctionUnit :
    let busy := base.modMe fun k => { k with sfu := 1 }
    (base.eff.sfu = true ∨ base.me.sfu = 0) ∧ busy.eff.sfu = false ∧ busy.me.sfu ≠ 0 := by decide +kernel

def popping (x : Xpose) : State := base.modMe fun k => { k with xpose := x }
theorem witness_TransposerBlock :
    let x : Xpose := ⟨0, 0, List.replicate 63 0, 0⟩
    (x.pushed ≠ [] ∧ x.mode = (⟨0, .fp64, .reg 1⟩ : OpXpush).mode ∧ x.fmt = Fmt.fp64.code ∧ x.popped = 0 ∧
      x.pushed.length < xIn 0 Fmt.fp64.code.toNat) ∧ ¬(base.me.xpose.pushed ≠ []) ∧ base.me.xpose.pushed = [] ∧
    [⟨0, 0, [0], 63⟩, ⟨1, 0, [0], 127⟩, ⟨2, 2, [0], 0⟩].all (fun x : Xpose => (popping x).me.xpose == x && x.pushed != []) = true ∧
    ((⟨2, 2, [0], 0⟩ : Xpose).fmt ≠ 13 ∧ (⟨2, 2, [0], 0⟩ : Xpose).fmt ≠ 9) := by decide +kernel
theorem witness_DeferralQueue :
    let full (n : Nat) : State := base.modMe fun k => { k with deferred := List.replicate n ⟨0, 0, []⟩ }
    let ls := (List.range 64).filter fun i => (mReg base.sl 0).getLsbD (2 * i) && (mReg base.sl 0).getLsbD (2 * i + 1)
    (full 960).me.deferred.length + ls.length ≤ 1024 ∧ 1024 < (full 961).me.deferred.length + ls.length ∧ d1.n = false := by
  decide +kernel

/-- What a product of BF16 tiles meets, from the third clause on. -/
theorem witness_MatrixProductsEnterTheQueue :
    let s := tiles
    let op := arrOp s (.mma ⟨g0, false, 2, 1, 2, none⟩) 1 2 0 0 32 0
    let word := tiles.wrBytes 0x40 4 0x4000
    guardOn s g0 = true ∧ guardOn s ⟨true, 0⟩ = false ∧ waited s.me ≤ (sReg s.sl 25).toNat % 2 ^ 32 ∧ (s.me.mq.filter fun o => o.follow.isNone).length < 4 ∧ op.tA.v = true ∧
    op.tB.v = true ∧ pairAcc op.fa op.fb = some .f32 ∧ badPrec op.fa 0 = false ∧ badPrec op.fb 8 = false ∧ op.tA.scbase = 0 ∧
    op.tB.scbase = 0 ∧ (∀ e ∈ arrRows op, e.2 ≠ 0 → e.1 + e.2 ≤ 8192) ∧ innerConst op = true ∧ badInner op = false ∧
    badShift op = false ∧ (outerFactors s s.cur op).2.2 = none ∧ vget s.sl.adopt 2 true = true ∧
    (let t := s.modSl fun sl => { sl with adopt := vset sl.adopt 2 false }
     vget t.sl.adopt 2 true = false ∧ t.sl.frec 26 = (outerFactors t t.cur op).1) ∧
    (match metaWord word with
      | .ok (_, w) => w.getLsbD 14 && w.extractLsb' 15 17 == 0
      | _ => false) = true ∧
    (let op := { arrOp s (.kat ⟨g0, 2, 5, 5, 0, 0⟩) 5 5 0 0 32 0 with
      fA := FRec.identity
      fB := FRec.identity }
     pairAcc op.fa op.fb = some .i32 ∧ (∀ e ∈ arrRows op, e.2 ≠ 0 → e.1 + e.2 ≤ 8192)) := by decide +kernel

theorem witness_MatrixCheckTraps :
    let full := tiles.modMe fun k => { k with mq := List.replicate 4 (blankOp base (.aclr ⟨1⟩)) }
    let op (ta tb : BitVec 6) : MOp := arrOp tiles (.mma ⟨g0, false, 1, ta, tb, none⟩) ta tb 0 0 32 0
    guardOn tiles g0 = true ∧ ¬((full.me.mq.filter fun q => q.follow.isNone).length < 4) ∧
    (tiles.me.mq.filter fun q => q.follow.isNone).length < 4 ∧ (op 6 2).tA.v = false ∧ (op 1 6).tB.v = false ∧
    ((op 1 2).tA.v = true ∧ (op 1 2).tB.v = true) ∧ pairAcc 13 10 = none ∧
    (let t := tiles.modSl fun sl => setTileRec sl (sl.tid 1) { FRec.identity with
        cs := vset FRec.identity.cs 0 { csAt FRec.identity 0 with coef := two64 } }
     badInner (arrOp t (.mma ⟨g0, false, 1, 1, 5, none⟩) 1 5 0 0 32 0) = true) ∧
    (let t := tiles.modSl fun sl => setTileRec sl (sl.tid 1) { FRec.identity with
        rh := vset FRec.identity.rh 0 ⟨two64, 0, false, 0⟩ }
     let op := arrOp t (.mma ⟨g0, false, 1, 1, 2, none⟩) 1 2 0 0 32 0
     badInner op = false ∧ badShift op = true) ∧
    [op 1 2, op 4 2].all (fun op => !badInner op && !badShift op) = true ∧
    (pairAcc (op 4 2).fa (op 4 2).fb = some .f64 ∧ (1 : BitVec 3).getLsbD 0 = true) ∧
    (pairAcc (op 1 2).fa (op 1 2).fb = some .f32 ∧ badPrec (op 1 2).fa 9 = true) := by decide +kernel

/-- The four forms, each meeting the hypotheses of the later checks: rows past the scratchpad, a factor not constant, scales
that the tile does not admit, an accumulator with another record, and scales on a page that may not be read. -/
def forms (t : State) : List MOp :=
  let kat := arrOp t (.kat ⟨g0, 1, 1, 2, 0, 0⟩) 1 2 0 0 32 0
  [arrOp t (.mma ⟨g0, false, 1, 1, 2, none⟩) 1 2 0 0 32 0, arrOp t (.mmas ⟨g0, false, 1, 1, 2, none⟩) 1 2 0 0 64 0x4000,
    arrOp t (.mmat ⟨g0, false, 1, 1, 2, 0, 0, 32⟩) 1 2 0 0 33 0,
    { kat with
      fA := .identity
      fB := .identity }]
def withTid (t : State) (n : Nat) (g : TidEnt → TidEnt) : State := t.modSl fun sl => { sl with tids := tput sl.tids n (g (sl.tid n)) }
def inRows (o : MOp) : Bool := (arrRows o).all fun e => e.2 == 0 || e.1 + e.2 ≤ 8192
def opReady (t : State) (o : MOp) : Bool := decide ((t.me.mq.filter fun q => q.follow.isNone).length < 4) && o.tA.v && o.tB.v &&
  !badInner o && !badShift o && inRows o && innerConst o && decide (waited t.me ≤ (sReg t.sl 25).toNat % 2 ^ 32)

theorem witness_MatrixChecksOfEveryForm :
    let far := tiles.modSl fun sl => setS sl 31 8191
    let held := (tiles.modSl fun sl => setTileRec (setS sl 25 7) (sl.tid 1) { FRec.identity with
      cs := vset FRec.identity.cs 0 { csAt FRec.identity 0 with h0v := true } })
    let bad := withTid tiles 1 fun e => { e with scbase := 0x9000 }
    let page := (withTid tiles 2 fun e => { e with scbase := 0x700000000 }).modCluster 0 fun x => { x with
      tlb := [⟨0, 0x700000000, 16, 0, false, true, true, true, 0⟩] }
    let other := tiles.modSl fun sl => { sl with adopt := vset sl.adopt 1 false }
    let other := other.modSl fun sl => sl.setFrec 25 { FRec.identity with rs := vset FRec.identity.rs 0 ⟨two64, 0, false, 0, false⟩ }
    (forms tiles).all (opReady tiles) = true ∧
    ((forms far).all fun o => !inRows o && (arrRows o).head?.any fun e => e.1 + e.2 ≤ 8192) = true ∧
    (((forms held).take 3).all fun o => !innerConst o && inRows o && !badInner o && !badShift o) = true ∧ held.me.hold = none ∧
    (waited held.me < (sReg held.sl 25).toNat % 2 ^ 32 ∧ (sReg tiles.sl 25).toNat % 2 ^ 32 ≤ waited tiles.me) ∧
    ((forms bad).all fun o => opReady bad o && !scaleOk o.tA 1 (kOrg o.tA)) = true ∧
    ((forms page).all fun o => opReady page o && scaleOk o.tA 1 (kOrg o.tA) && scaleOk o.tB 2 (kOrg o.tA)) = true ∧
    (((forms page).take 3).all fun o => match pageStop (look page page.cur page.sl.asn page.sl.sup .rd)
        ((opScales o (nChunks o)).1 ++ (opScales o (nChunks o)).2) with
      | some (_, .fault _) => true
      | _ => false) = true ∧ pendingAcc page.me = false ∧ vget page.sl.adopt 1 true = true ∧
    (((forms other).take 3).all fun o => opReady other o && (outerFactors other other.cur o).2.2.isNone &&
      !(other.sl.frec 25 == (outerFactors other other.cur o).1)) = true ∧ vget other.sl.adopt 1 true = false := by decide +kernel

theorem witness_metadataWords :
    (match metaWord (tiles.wrBytes 0x40 4 0x4000) with
      | .ok (_, w) => w.getLsbD 14 && w.extractLsb' 15 17 == 0
      | _ => false) = true ∧
    (match metaWord tiles with
      | .ok (_, w) => !w.getLsbD 14
      | _ => false) = true := by decide +kernel

theorem witness_AccumulatorInstructions :
    let full := tiles.modMe fun k => { k with mq := List.replicate 4 (blankOp base (.aclr ⟨1⟩)) }
    (tiles.me.mq.filter fun q => q.follow.isNone).length < 4 ∧ ¬(full.me.mq.filter fun q => q.follow.isNone).length < 4 ∧
    (srcS (regs [(1, 8128)]) (.reg 1) + (0 : BitVec 6).setWidth 64).toNat + 64 ≤ 8192 ∧
    8192 < (srcS (regs [(1, 8128)]) (.reg 1) + (1 : BitVec 6).setWidth 64).toNat + 64 := by decide +kernel

/-- t1 to t3 hold BF16, t4 FP64, in rows that fit; records with and without shifts, equal and different. -/
theorem witness_TileInstructions :
    let a := tiles.sl.tid 1
    let sh : FRec := { FRec.identity with rh := vset FRec.identity.rh 0 ⟨two64, 0, false, 0⟩ }
    waited tiles.me ≤ (sReg tiles.sl 25).toNat % 2 ^ 32 ∧ (tiles.me.mq.filter fun q => q.follow.isNone).length < 4 ∧
    (a.v = true ∧ a.fmt.toNat ≤ 3 ∧ rowBase tiles 28 + (if a.fmt = 0 then 128 else 64) ≤ 8192) ∧
    ((tiles.sl.tid 4).fmt.toNat ≤ 3 ∧ rowBase tiles 29 + (if (tiles.sl.tid 4).fmt = 0 then 128 else 64) ≤ 8192) ∧
    rowBase tiles 27 + 64 ≤ 8192 ∧ badSat .rne (tiles.sl.tid 3) [a, tiles.sl.tid 2] = false ∧
    tileRec tiles.sl a = tileRec tiles.sl (tiles.sl.tid 2) ∧ sh ≠ FRec.identity ∧
    (FRec.identity.noShift = true ∧ mulFits FRec.identity FRec.identity = true) ∧
    (sh.noShift = false ∧ sh.const = true ∧ FRec.identity.const = true) ∧
    (a.fmt ≠ 0 ∧ texpdReady (tileRec tiles.sl a) = true) ∧
    (texpdRec tiles { tileOp tiles (.texpd ⟨.rne, 1, 3⟩) a .invalid (tiles.sl.tid 3) 0 with occ := 256 }).2.2 = none ∧
    (let op := tileOp tiles (.tcvt ⟨.rne, 1, 3⟩) a .invalid (tiles.sl.tid 3) 0
     cvtBad a op.layS = false ∧ cvtBad (tiles.sl.tid 3) op.layD = false ∧ op.rowA + cvtRows a.fmt.toNat op.layS ≤ 8192 ∧
     op.rowD + cvtRows 3 op.layD ≤ 8192) := by decide +kernel

theorem witness_RecordInstructions :
    let s := tiles.modSl fun sl => sl.setRed 127 { newRed .sum 64 0 with state := .sealed }
    let s' := tiles.modSl fun sl => sl.setRed 127 (newRed .sum 64 0)
    let o : OpFset := ⟨.rs, 1, .imm [127], 63⟩
    waited s.me ≤ (sReg s.sl 25).toNat % 2 ^ 32 ∧ waited s'.me ≤ (sReg s'.sl 25).toNat % 2 ^ 32 ∧
    (tiles.sl.tid 5).v = true ∧ (tiles.sl.tid 6).v = false ∧ (opndS s o.b).getLsbD 16 = false ∧
    ((opndS s o.b).getLsbD 17 = false) ∧ (s.sl.red ((opndS s o.b).toNat % 128)).state = .sealed ∧
    ((s'.sl.red 127).state = .opened ∧ ∀ b ∈ bindTerms o (opndS s' o.b), hasRoom (tileRec s'.sl (s'.sl.tid 1)) o.k b.1 = true) ∧
    (opndS base (.imm [0x400])).getLsbD 10 = true := by decide +kernel

theorem witness_ReductionInstructions :
    let s := tiles.modSl fun sl => sl.setRed 127 (newRed .max 64 0)
    let full := tiles.modSl fun sl => { sl with reds := (List.range 128).map fun i => (i, newRed .sum 64 0) }
    (∀ i, i < 128 → (full.sl.red i).state ≠ .free) ∧
    ((full.modSl fun sl => sl.setRed 127 .free).sl.red 127).state = .free ∧
    (∀ j, j < 127 → ((full.modSl fun sl => sl.setRed 127 .free).sl.red j).state ≠ .free) ∧
    waited s.me ≤ (sReg s.sl 25).toNat % 2 ^ 32 ∧
    (s.me.mq.filter fun q => q.follow.isNone).length < 4 ∧ (s.sl.tid 1).v = true ∧ (s.sl.tid 1).fmt.toNat ≤ 3 ∧
    rowBase s 28 + 64 ≤ 8192 ∧ ((s.sl.red 127).state = .opened ∧ (s.sl.red 127).op = .max) ∧
    (tileRec s.sl (s.sl.tid 1)).const = true ∧ ¬(128 < 128 ∧ (s.sl.red 128).state = .opened) ∧ entNamed s 127 = false ∧
    entNamed (s.modMe fun k => { k with mq := [{ tileOp s (.rrow ⟨.max, 1, .imm [127]⟩) (s.sl.tid 1) .invalid .invalid 127 with
      occ := 64 }] }) 127 = true := by decide +kernel

theorem witness_ArrayOperationsEnd :
    let o (i : Instr) : MOp := { blankOp base i with
      src := List.replicate 64 1
      acc := List.replicate 64 2 }
    (63 < 64 ∧ 7 < 8) ∧ (o (.aclr ⟨7⟩)).kind = .aclr ∧ (o (.accld ⟨7, .zero, 0⟩)).kind = .accld ∧
    (o (.aclr ⟨7⟩)).follow = none ∧ (base.core 0).mdue = [] ∧
    ((o (.mma ⟨g0, false, 7, 1, 2, none⟩)).kind = .mma ∧ (o (.mma ⟨g0, false, 7, 1, 2, none⟩)).acc.length = 64) := by
  decide +kernel

/-- The array's queue holds what an instruction has entered, so many cycles into its run. -/
def running (i : Instr) (run : Option Nat) (f : MOp → MOp := id) (s : State := tiles) : State :=
  (after (exec i s)).modMe fun k => { k with mq := k.mq.map fun o => f { o with run := run, wait := 0 } }
def arr0 (s : State) : State × Option Nat := arrayCycle s s 0 (some false)
def head0 (s : State) : MOp := s.me.mq.headD (blankOp base .nop)

/-- A product at its start, at the end of the first of two chunks, and at its end. -/
theorem witness_ProductCycles :
    let i : Instr := .mmat ⟨g0, false, 2, 1, 2, 0, 0, 32⟩
    let s0 := running i none
    let o0 := head0 s0
    let s1 := running i (some (chunkEnd o0 0 - 1)) fun o => { o with src := (chunkReads s0 0 o 0).1 }
    let s2 := running i (some (o0.occ - 1)) fun o => { o with
      next := 1
      src := (chunkReads s0 0 o 1).1 }
    [s0, s1, s2].all (fun s => s.me.mdue == [] && s.me.mq == [head0 s] && !(head0 s).slot && (head0 s).follow == none &&
      (head0 s).wait == 0 && (head0 s).kind == .mmat && (arr0 s).2 == none) = true ∧
    (o0.run = none ∧ o0.next = 0 ∧ 0 < nChunks o0 ∧ 1 < chunkEnd o0 0 ∧ 1 < o0.occ) ∧
    (let o := head0 s1
     chunkEnd o o.next - 1 + 1 = chunkEnd o o.next ∧ chunkStart o o.next < chunkEnd o o.next - 1 ∧ o.next + 1 < nChunks o ∧
     chunkEnd o o.next < o.occ ∧ chunkEnd o o.next < chunkEnd o (o.next + 1)) ∧
    (let o := head0 s2
     o.occ = chunkEnd o o.next ∧ chunkStart o o.next < o.occ - 1 ∧ o.next + 1 = nChunks o) ∧
    pairAcc o0.fa o0.fb = some .f32 ∧ pairAcc 10 10 = some .i32 := by decide +kernel

/-- Operations of one row a cycle, each in a cycle of its own, and the last cycles of the reductions. -/
theorem witness_RowCycles :
    let red := tiles.modSl fun sl => sl.setRed 127 (newRed .sum 64 0)
    let ok (s : State) (r : Nat) : Bool := let o := head0 s
      s.me.mdue == [] && s.me.mq == [o] && !o.slot && o.follow == none && o.wait == 0 && o.run == some r && decide (r < o.occ) &&
      (arr0 s).2 == none && (match opWrites o r with
        | some x => !journalWaits s 0 o x && decide (x < 8192)
        | none => true)
    let st := running (.accst ⟨3, .reg 28, 0⟩) (some 63)
    (ok st 63 = true ∧ (head0 st).kind = .accst ∧ (head0 st).rowA + 62 < 8192) ∧
    ([Instr.tadd ⟨.rne, 1, 2, 3⟩, .tsub ⟨.rne, 1, 2, 3⟩, .tmul ⟨.rne, 1, 2, 3⟩, .tscale ⟨.rne, 1, .src .two, 3⟩, .trelu ⟨.rne, 1, 3⟩,
      .resolve ⟨1⟩].all fun i =>
        let s := running i (some 63)
        let o := head0 s
        let fd := if o.kind = .resolve then o.fa else o.fd
        ok s 63 && decide (fd ≤ 3) && decide (fd ≠ 0) && decide (tileRow (if o.kind = .resolve then o.rowA else o.rowD) fd 0 63 < 8192) &&
        decide (tileRow o.rowA o.fa 0 63 < 8192) && decide (tileRow o.rowB o.fb 0 63 < 8192)) = true ∧
    (let s := running (.tadd ⟨.rne, 4, 4, 4⟩) (some 127)
     ok s 127 = true ∧ (head0 s).fd = 0 ∧ (head0 s).occ = 128) ∧
    ([(Instr.texpd ⟨.rne, 1, 3⟩, 255), (.tcvt ⟨.rne, 1, 3⟩, 127)].all fun e =>
      let s := running e.1 (some e.2) id (tiles.modSl fun sl => setTileRec sl (sl.tid 1) FRec.identity)
      ok s e.2 && (opWrites (head0 s) e.2).isSome) = true ∧
    ([Instr.rrow ⟨.sum, 1, .imm [127]⟩, .rcol ⟨.sum, 1, .imm [127]⟩, .rseal ⟨.imm [127]⟩].all fun i =>
      let n := if i = .rseal ⟨.imm [127]⟩ then 1 else 63
      let s := running i (some n) id red
      ok s n && decide (n + 1 = (head0 s).occ) && decide ((head0 s).bval.toNat < 128)) = true := by decide +kernel

theorem witness_ScratchpadRowsAndLanes :
    let x (v : Word) : Nat := (rowIx (regs [(1, v)]) (.reg 1) (.off 1)).toNat
    Memory.wf ram.mem ∧ 8192 ≤ x 8191 ∧ x 8190 < 8192 ∧ ram.poisoned (spadRow 0 8191) = false ∧
    ({ ram with poison := [spadRow 0 8191] } : State).poisoned (spadRow 0 8191) = true := by decide +kernel

theorem freshNumber {k : Core} (h : k.withheld = []) (h0 : k.slot0.shadow = none) (h1 : k.slot1.shadow = none) :
    FreshNumber k :=
  ⟨fun x hx => by simp [h] at hx, fun b sh hs => by cases b <;> simp [Core.slotOf, h0, h1] at hs⟩

theorem witness_AtOnce :
    AtOnce owned .rd (byteAddr owned (.reg 2) 256 (.off 0)) 0x3000 0 ∧ AtOnce owned .rd (byteAddr owned (.reg 2) 8 (.off 1)) 0x3008 0 ∧
    AtOnce owned .wr (byteAddr owned (.reg 2) 256 (.off 0)) 0x3000 0 ∧ AtOnce owned .wr (byteAddr owned (.reg 2) 8 (.off 1)) 0x3008 0 ∧
    AtOnce (sup owned) .wr 0x3000 0x3000 0 ∧ AtOnce owned .wr ((srcS owned (.reg 2)).setWidth 52) 0x3000 0 := by
  refine ⟨?_, ?_, ?_, ?_, ?_, ?_⟩ <;>
    exact ⟨by decide +kernel, by decide +kernel, ⟨page0, by decide +kernel⟩, by decide +kernel,
      freshNumber (by decide +kernel) (by decide +kernel) (by decide +kernel)⟩

theorem witness_GlobalLoadsAndStores :
    owned.poisoned 0x3000 = false ∧ canRead owned 0 0x3000 0 = true ∧ canRead owned 0 0x3008 0 = true ∧ owned.sl.sup = false ∧
    (∀ h ∈ owned.me.withheld, h.closed = false ∧ h.fenced = false) ∧ owned.me.pubs = [] ∧ (sup owned).sl.sup = true ∧
    (sup owned).me.withheld = [] ∧ (sup owned).me.pubs = [] ∧ canOwn (sup owned) 0 0x3000 0 = true ∧ canOwn (sup owned) 0 0x3008 0 = true ∧ (sup owned).poisoned 0x3000 = false ∧
    ran (exec (.ldg ⟨d1, .reg 2, .off 0⟩) owned) = true ∧
    tlbFind base (clusterOf base.cur) (dieOf base.cur) base.sl.asn (byteAddr base .zero 256 (.off 0)) = none ∧
    supAccess base (accAt .ldg (byteAddr base .zero 256 (.off 0))) = false := by decide +kernel

theorem witness_CacheMaintenance :
    FreshNumber ram.me ∧ (Instr.cinv ⟨.reg 2, .off 0⟩) ∈ [Instr.pref ⟨.reg 2, .off 0⟩, .cflush ⟨.reg 2, .off 0⟩, .cinv ⟨.reg 2, .off 0⟩] ∧
    supAccess ram (accAt .cflush 0x3000) = false ∧ supAccess ram (accAt .cinv 0x3000) = false ∧
    xlate ram 0 0 false .rd (byteAddr ram (.reg 2) 256 (.off 0)) = .ok 0x3000 0 page0 ∧ l1Kind ram 0x3000 0 = true ∧
    copies ram 0 0x3000 = [] ∧ (l1At owned (l1Home owned 0 0x3000) 0x3000).st ≠ .i :=
  ⟨freshNumber (by decide +kernel) (by decide +kernel) (by decide +kernel), by decide, by decide +kernel⟩

theorem witness_AtomicResults :
    let o : OpAt := ⟨⟨false, 17⟩, .reg 2, .reg 3, .rlx, true⟩
    let s : State := { owned with ctx := { ram.ctx with word := 0xED4420C1 } }
    encode (.aadd o) = some (0x6D4420C1, []) ∧
    (0x6D4420C1 : SlotWord).setWidth 31 = s.ctx.word.setWidth 31 ∧ s.me.inflight = [] ∧ s.me.withheld = [] ∧ s.me.pubs = [] ∧
    canOwn s s.cur 0x3000 0 = true ∧ s.poisoned 0x3000 = false := by decide +kernel

/-! ### Copies -/

/-- Tiles t1 to t3 of 64 elements; t6 of four tokens. -/
def shaped (t : TidEnt) (a b : BitVec 16) : TidEnt := { t with shp := vset (vset t.shp 0 a) 1 b }
def cp : State := (regs [(22, 0x3000), (23, 0x8000000000000000)] tiles).modSl fun sl => { sl with
  tids := [(1, shaped (tid 3 1) 1 64), (2, shaped (tid 3 2) 1 64), (6, { shaped (tid 15 0) 4 0 with ndim := 1 })] }
def chanQ (s : State) (n : Nat) : List (CmdKind × Nat × Nat) := (chanOf s 0 n).q.map fun c => (c.kind, c.rows, c.left)

/-- One row of 128 bytes; the predicate is false; a ninth command finds no room. -/
theorem test_copyEnters :
    let full := modChan cp 0 2 fun ch => { ch with q := List.replicate 8 (newCmd cp .cpy .invalid .invalid 0 true 0) }
    chanQ (after (exec (.cpy ⟨1, 1, 2, false, false, false, false, 2, []⟩) cp)) 2 = [(.cpy, 1, 128)] ∧
    value (.cpy ⟨1, 1, 2, false, false, false, false, 2, []⟩) cp = 0 ∧
    value (.cpy ⟨1, 1, 2, false, false, false, false, 2, []⟩) full = 1 ∧
    chanQ (after (exec (.gath ⟨1, .reg 22, 6, 3⟩) cp)) 3 = [(.gath, 0, 0)] ∧
    chanQ (after (exec (.scat ⟨1, .reg 22, 6, 3⟩) cp)) 3 = [(.scat, 4, 0)] ∧
    (after (exec (.cpy ⟨1, 1, 3, false, false, false, false, 2, []⟩) cp)).me.tval = 1 ∧
    (after (exec (.cpym ⟨1, 1, 2, 2, 0x7E⟩) cp)).me.tval = 6 ∧
    (let s := cp.modCluster 0 fun x => { x with role := some 0 }
     chanQ (after (exec (.cpym ⟨1, 1, 2, 2, 0x7E⟩) s)) 2 = [(.cpym 0x7E, 1, 0)]) := by decide +kernel

/-- A barrier-bound copy adds its bytes to PEND. -/
theorem test_copyBindsABarrier :
    (barAt (after (exec (.cpy ⟨1, 1, 2, false, true, false, false, 2, [5]⟩) cp)) 0 5).pend = 128 := by decide +kernel

theorem test_channelWaits :
    let flt := modChan base 0 1 fun ch => { ch with fault := true }
    let busy := modChan cp 0 1 fun ch => { ch with q := [newCmd cp .cpy .invalid .invalid 0 true 0] }
    (value (.cwait ⟨1, .src .zero, 1⟩) base, value (.cwait ⟨1, .src .zero, 1⟩) flt, value (.cwait ⟨1, .src .zero, 1⟩) busy) = (0, 1, 1) ∧
    (after (exec (.cwaitWp ⟨.one, 1⟩) base)).sig = .none ∧ (after (exec (.cwaitWp ⟨.one, 1⟩) busy)).sig = .frozen ∧
    (after (exec (.publ ⟨1⟩) cp)).sig = .none := by decide +kernel

theorem witness_CopyCommands :
    let o : OpCpy := ⟨1, 1, 2, false, false, false, false, 2, []⟩
    let ob : OpCpy := ⟨1, 1, 2, false, true, false, false, 2, [0xFFF]⟩
    let om : OpCpym := ⟨1, 1, 2, 2, 0x7E⟩
    let full := modChan cp 0 2 fun ch => { ch with q := List.replicate 8 (newCmd cp .cpy .invalid .invalid 0 true 0) }
    let c := cpyCmd o (cpyCkpt o cp)
    let cb := cpyCmd ob (cpyCkpt ob cp)
    let role := cp.modCluster 0 fun x => { x with role := some 0 }
    let cm := { newCmd (askCkpt role) (.cpym om.recv) (cp.sl.tid 1) (cp.sl.tid 2) om.tb true 1 with fA := tileRec cp.sl (cp.sl.tid 1) }
    let t := cp.sl.tid 6
    cpyChecks (cpyReasons c.tA c.tB o.res o.strm c.dst) c c.src c.dst = none ∧ c.follow = none ∧ c.fA.const = true ∧ c.bar = none ∧
    noRoom (cpyCkpt o cp) 0 2 c = false ∧ noRoom full 0 2 c = true ∧ cb.bar = some 0xFFF ∧
    noRoom (cpyCkpt ob cp) 0 2 cb = false ∧ (barAdd (barAt cp 0 0xFFF) cb.left).isSome = true ∧
    cpyChecks (cpymReasons (askCkpt role) (cp.sl.tid 1) (cp.sl.tid 2) cm.dst om.recv) cm cm.src cm.dst = none ∧
    noRoom (askCkpt role) 0 2 cm = false ∧
    (t.v = true ∧ shpAt t 0 ≤ 4096 ∧ t.fmt = 15 ∧ t.ndim = 1) ∧ ownSp (sReg cp.sl 23) = true ∧ ownSp (sReg base.sl 23) = false ∧
    waited cp.me ≤ (sReg cp.sl 25).toNat % 2 ^ 32 ∧ (cp.sl.tid 1).v = true ∧
    barAdd ⟨0, 1, 0, BitVec.allOnes 56, false⟩ cb.left = none ∧
    (sendBar cp 0 0xFFF (.add cb.left) .open).isSome = true ∧
    sendBar (setBar cp 0 0xFFF ⟨0, 1, 0, BitVec.allOnes 56, false⟩) 0 0xFFF (.add cb.left) .open = none ∧
    (let busy := modChan base 0 3 fun ch => { ch with q := [c] }
     (chanOf busy 0 3).fault = false ∧ (chanOf busy 0 3).q ≠ [] ∧ busy.me.hold = none ∧
     0 < (opndS busy (.src .two)).toNat % 2 ^ 32 ∧ (opndS busy (.src .zero)).toNat % 2 ^ 32 = 0 ∧ (base.die 0).arrivals = [] ∧
     ¬(1 ≤ (vget busy.sl.wp 3 0).toNat ∨ (chanOf busy 0 3).q = [] ∨ (chanOf busy 0 3).fault = true)) ∧
    (chanOf (modChan base 0 3 fun ch => { ch with fault := true }) 0 3).fault = true ∧
    ((chanOf base 0 3).fault = false ∧ (chanOf base 0 3).q = []) ∧
    (srcS base .zero).toNat % 65536 ≤ (vget base.sl.wp 3 0).toNat := by decide +kernel

/-- Rows of a completed command, in the own scratchpad and in staging, and a publication that still waits. -/
theorem witness_Publications :
    let row (pa : Nat) : ShRow := ⟨false, some 0, 1, 2, 0, true, 7, [⟨pa, 0, 1, 0⟩], false⟩
    let s (pa : Nat) : State := cp.modMe fun k => { k with shrows := [row pa] }
    let rows (t : State) : List ShRow := (publishOp t).me.shrows.filter fun x => x.whole && x.slot == t.me.ctx && x.task == t.sl.task && x.tid == 1
    let wait : State := (s (2 ^ 48)).modMe fun k => { k with inflight := [⟨40, .scalar, 1, .bl, false, 0, 0, 0, 0, 0,
      some ⟨.ldgs, 0x3000, 0, 0, .pending, false, 0, 0⟩, false, 0⟩] }
    (cp.sl.tid 1).v = true ∧ rows cp = [] ∧
    (rows (s (spadRow 0 0)) ≠ [] ∧ ∀ x ∈ rows (s (spadRow 0 0)), ownRow 0 x = true) ∧
    (rows (s (2 ^ 48)) ≠ [] ∧ (publishOp (s (2 ^ 48))).passes (publishOp (s (2 ^ 48))).gate = true) ∧
    ((publishOp wait).passes (publishOp wait).gate = false ∧ ∃ x ∈ rows wait, ownRow 0 x = false) ∧
    (let p : Pub := ⟨false, 1, [7]⟩
     let t : State := wait.modMe fun k => { k with pubs := [p] }
     (t.core 0).pubs = [p] ∧ settledBefore (t.core 0) p.slot p.seq = false ∧
     settledBefore ((t.modMe fun k => { k with inflight := [] }).core 0) p.slot p.seq = true) := by decide +kernel

/-! ### Synchronization -/

theorem test_bind :
    let s : State := { base with regions := [⟨0, 1, 5, 4, 0x30⟩] }
    let run (a b : Word) : Nat × Nat :=
      let s := regs [(1, a), (2, b)] s
      (value (.bind ⟨1, .reg 1, .reg 2, 0x4005⟩) s, (after (exec (.bind ⟨1, .reg 1, .reg 2, 0x4005⟩) s)).regions.length)
    [run 0x3300 1, run 0x3400 1, run 0x3000 0, run 0x3100 0] = [(1, 1), (0, 2), (0, 0), (1, 1)] := by decide +kernel

theorem test_acquireAndRelease :
    let s := regs [(1, 0x4005)] (base.modDie 1 fun x => { x with sync := [(5, ⟨7, 0, false⟩)] })
    sent (.acq ⟨⟨false, 0⟩, .reg 1, .src .zero, 6⟩) s = [(6, 1, 0), (0, 40, 7)] ∧
    ((after (exec (.rel ⟨.reg 1⟩) s)).die 1).arrivals = [.rel 1 5 0 false 0 false 1] ∧
    (after (exec .fence { s with ctx := { s.ctx with scope := .die } })).eff.ckpt = true ∧
    (after (exec .fence s)).eff.ckpt = false := by decide +kernel

theorem test_flags :
    let s := base.modMe fun k => { k with flags := vset k.flags 15 3 }
    value (.fwait ⟨1, .two, .src .zero, 15⟩) s = 0 ∧ vget (after (exec (.fwait ⟨1, .two, .src .zero, 15⟩) s)).me.flags 15 0 = 1 ∧
    value (.fwait ⟨1, .two, .src .zero, 14⟩) s = 1 ∧ (after (exec (.fwait ⟨1, .two, .src .one, 14⟩) s)).sig = .held ∧
    (after (exec (.fpost ⟨.two, 15⟩) s)).me.posts = [(15, 2)] ∧
    ((after (exec (.fpostr ⟨.two, .imm [1023], 15⟩) s)).core 1023).rposts = [⟨15, 2, 0, false, 1⟩] := by decide +kernel

/-- A SYNC of the own core alone passes; one that waits for core 1 is held. -/
theorem test_sync :
    (after (exec (.sync ⟨1, .zero, .src .one⟩) base)).me.hold.isSome = true ∧
    (after (exec (.sync ⟨1, .two, .src .one⟩) base)).sig = .held := by decide +kernel

theorem test_barriers :
    let s := regs [(1, 0x7FFF)] ((base.modDie 7 fun x => { x with barriers := [(0xFFF, ⟨3, 2, 1, 0, false⟩)] }))
    let b (i : Instr) (s : State) : Barrier := barAt (after (exec i s)) 7 0xFFF
    b (.barr ⟨1, .reg 1⟩) s = ⟨4, 2, 0, 0, false⟩ ∧ b (.barrx ⟨1, .reg 1, .src .two⟩) s = ⟨3, 2, 2, 2, false⟩ ∧
    sent (.bwait ⟨6, .reg 1, .src .zero⟩) s = [(6, 1, 0), (7, 1, 0)] ∧ b (.rearm ⟨1, .reg 1, .src .two⟩) s = ⟨3, 2, 0, 0, false⟩ ∧
    value (.barr ⟨1, .reg 1⟩) (setBar s 7 0xFFF ⟨3, 2, 2, 1, false⟩) = 1 := by decide +kernel

theorem test_triggers :
    let s := regs [(1, 0x7FF), (2, 9)] (base.modDie 7 fun x => { x with tctr := [(0xFF, 7)] })
    let t := after (exec (.trig ⟨1, .reg 1, .reg 2, 0x7B002001⟩) s)
    ((t.die 7).tops.map fun o => (o.ctr, o.thr.toNat, o.opA.toNat)) = [(0xFF, 9, 9)] ∧
    (let u := after (exec (.tcntAdd ⟨.reg 1, .src .two⟩) t)
     (tctrAt u 7 0xFF, (u.die 7).tops.length, (u.die 7).tdue.length) = (9, 0, 1)) ∧
    (let u := after (exec (.tcntSet ⟨.reg 1, .src .two⟩) t)
     (tctrAt u 7 0xFF, (u.die 7).tops.length, (u.die 7).tdue.length) = (2, 1, 0)) := by decide +kernel

theorem witness_ObjectInstructions :
    let s : State := { base with regions := [⟨0, 1, 5, 4, 0x30⟩] }
    let full : State := { base with regions := List.replicate 4096 ⟨1, 0, 0, 1, 0⟩ }
    let it (r : Region) : Bool := r.asn == s.sl.asn && r.base == 0x30
    s.regions.any it = true ∧ base.regions.any it = false ∧ 4096 ≤ full.regions.length ∧
    (∃ r ∈ s.regions, r.asn = s.sl.asn ∧ r.base.toNat < (0x33 : BitVec 44).toNat + 1 ∧ (0x33 : BitVec 44).toNat < r.base.toNat + r.nrows.toNat) ∧
    (∀ r ∈ s.regions, ¬(r.asn = s.sl.asn ∧ r.base.toNat < (0x34 : BitVec 44).toNat + 1 ∧
      (0x34 : BitVec 44).toNat < r.base.toNat + r.nrows.toNat)) ∧ s.regions.length < 4096 ∧
    (acqTie base ⟨0, 0, false⟩).isSome = true ∧
    (let a : Act := ⟨.opened, 0, 0, none, 0, [10, 11, 12, 13]⟩
     let s : State := { base.modSl (fun sl => { sl with attach := some 1 }) with acts := [(1, a), (2, { a with ties := [] })] }
     acqTie s ⟨0, 2, true⟩ = none) ∧
    (let s := base.modSl fun sl => { sl with
        attach := some 1
        released := [(1, 0), (2, 0)] }
     s.sl.attach.isSome = true ∧ 2 ≤ s.sl.released.length ∧ ∀ e ∈ s.sl.released, e.1 ≠ 3) ∧
    ¬(base.sl.attach.isSome = true) ∧ waited base.me ≤ (opndS base (.src .zero)).toNat % 2 ^ 32 ∧
    (∀ h ∈ base.me.withheld, h.pa = none) ∧ base.ctx.scope = .core ∧
    ({ base with ctx := { base.ctx with scope := .sys } } : State).ctx.scope ≠ .core ∧ base.me.inflight = [] ∧ base.me.withheld = [] ∧
    base.sl.sup = false ∧ (sup).sl.sup = true := by decide +kernel

theorem witness_FlagsAndBarriers :
    let f := base.modMe fun k => { k with flags := vset k.flags 15 3 }
    let held := base.modMe fun k => { k with hold := some ⟨.sync 1 true, 0, 0, [1]⟩ }
    let b (p e a n x : Nat) (q : Bool) : Barrier := ⟨BitVec.ofNat 16 p, BitVec.ofNat 16 e, BitVec.ofNat 16 a, BitVec.ofNat 56 (n + x), q⟩
    3 ≤ (vget f.me.flags 15 0).toNat ∧ (vget f.me.flags 15 0).toNat < 4 ∧ (opndS f (.src .zero)).toNat % 2 ^ 32 = 0 ∧
    waited f.me ≤ (opndS f (.src .zero)).toNat % 2 ^ 32 ∧ held.me.hold = some ⟨.sync 1 true, 0, 0, [1]⟩ ∧ (b 0 1 0 0 0 false).arr ≠ (b 0 1 0 0 0 false).exp ∧
    (b 0 1 1 0 0 false).arr = (b 0 1 1 0 0 false).exp ∧ (b 0 1 0 0 0 false).pend.toNat + (2 ^ 56 - 1) < 2 ^ 56 ∧
    2 ^ 56 ≤ (b 0 1 0 1 0 false).pend.toNat + (2 ^ 56 - 1) ∧ (b 1 1 0 0 0 false).phase ≠ 0 ∧ (b 0 1 0 0 0 true).poison = true ∧
    (b 0 1 0 0 0 false).pend = 0 ∧ (b 0 1 0 1 0 false).pend ≠ 0 := by decide +kernel

/-- SYNC of cores 0 and 1: core 1 has not come, or holds for it; posts and operations that stand behind what is on its way. -/
theorem witness_SyncAndWays :
    let o : OpPab := ⟨1, .two, .src .one⟩
    let mask : BitVec 8 := (srcS base o.a).setWidth 8 ||| (1 <<< (base.cur % 8))
    let s := base.modCore 1 fun k => { k with hold := some ⟨.sync mask false, 3, 9, []⟩ }
    let posted := base.modMe fun k => { k with rposts := [⟨15, 1, base.gate⟩] }
    let way := base.modDie 0 fun x => { x with arrivals := [.barr 0 5 1 false] }
    let busy := base.modMe fun k => { k with inflight := [⟨40, .scalar, 1, .bl, false, 0, 0, 0, 0, 0,
      some ⟨.ldgs, 0x3000, 0, 0, .pending, false, 0, 0⟩, false, 0⟩] }
    (mask = 3 ∧ base.cur < 1024 ∧ base.me.hold = none ∧ waited base.me < (opndS base o.b).toNat % 2 ^ 32) ∧
    syncMask (base.core 1) = none ∧ (syncMask (s.core 1) = some mask ∧ ∀ i, i < 8 → i ≠ 0 → mask.getLsbD i = true → i = 1) ∧
    (s.me.freeze = none ∧ s.me.trapping = none ∧ lateSoon s.me = false) ∧
    (base.me.rposts.any fun p => p.ofStep base.cur base.me.ctx 15) = false ∧
    (posted.me.rposts.any fun p => p.ofStep posted.cur posted.me.ctx 15) = true ∧
    (((base.die 0).arrivals.filter fun a => a.bar == some (0, 5)) = [] ∧ base.passes base.gate = true) ∧
    ((way.die 0).arrivals.filter fun a => a.bar == some (0, 5)) ≠ [] ∧ busy.passes busy.gate = false ∧
    (sendBar base 0 5 (.rearm 2) .open).isSome = true ∧
    sendBar (setBar base 0 5 ⟨0, 1, 0, 1, false⟩) 0 5 (.rearm 2) .open = none := by decide +kernel

theorem witness_MonitorAndTriggers :
    let m := base.modMe fun k => { k with monitor := some 0 }
    let full := base.modDie 0 fun x => { x with tops := List.replicate 1024 ⟨0, 0, .nop, 0, false, none, none, none, 0, 0, .core, 0, false⟩ }
    let o : OpCpy := ⟨0, 1, 2, false, false, false, false, 2, []⟩
    let c := cpyCmd o (askCkpt cp)
    base.me.monitor = none ∧ (m.me.monitor ≠ none ∧ m.me.monitorHit = false) ∧ (opndS m (.src .zero)).toNat % 2 ^ 32 = 0 ∧
    decodeSlot ((0x7B002001 : Imm31).setWidth 32) [] = .ok (.cready ⟨0, .reg 2⟩) ∧
    decodeSlot ((0x730020EF : Imm31).setWidth 32) [] = .ok (.fpostr ⟨.reg 2, .src (.reg 3), 15⟩) ∧
    decodeSlot ((0x69001082 : Imm31).setWidth 32) [] = .ok (.cpy o) ∧
    cpyChecks (cpyReasons c.tA c.tB false o.strm c.dst) c c.src c.dst = none ∧ waited m.me ≤ (opndS m (.src .zero)).toNat % 2 ^ 32 ∧
    (base.die 0).tops.length + (base.die 0).tdue.length < 1024 ∧ 1024 ≤ (full.die 0).tops.length + (full.die 0).tdue.length ∧ decodeSlot ((0 : Imm31).setWidth 32) [] = .ok .nop := by decide +kernel

/-! ### Tasks, residency, activities, collectives -/

def theTask : Task := { Task.none with st := .running }
def theLaunch : Launch := { Launch.none with st := .expanded, dies := 1, lid := 5 }
/-- Task 0 of launch 0 runs on core 0; die 0 has a pool, a compensation segment at 2^20 and room. -/
def tasked (s : State := mapped) : State :=
  ({ s with
    tasks := [(0, theTask)]
    launches := [(0, theLaunch)] }).modDie 0 fun x => { x with
      trpool := 0x4000001
      csseg := 0x100001 }

theorem test_tasks :
    let s := regs [(1, 0x3085), (2, 77)] tasked
    (after (exec (.tlaunch ⟨1, .reg 1⟩) s)).tlaunch.map (fun e => (e.1, e.2.1)) = [(0x3080, some 0)] ∧
    (let t := after (exec (.tspawn ⟨1, .reg 2, .reg 1⟩) s)
     ((t.task 1).wid, (t.task 1).entry, (t.task 1).kind, (t.die 0).ready) = (77, 0x3085, .spawned, [1])) ∧
    value (.tspawn ⟨1, .reg 2, .reg 1⟩) (s.modDie 0 fun x => { x with trpool := 0 }) = 1 ∧
    (let s := { s with tasks := [(0, theTask), (4, { Task.none with wid := 77, ctr := 2 })] }
     let t := after (exec (.tdep ⟨1, .reg 2⟩) s)
     ((t.task 4).ctr, (t.task 0).added) = (3, [4]) ∧ sent (.tdep ⟨1, .reg 2⟩) s = [(1, 40, 0)] ∧
     sent (.tdep ⟨1, .reg 1⟩) s = [(1, 40, 1)]) ∧
    (after (exec .tend tasked)).sig = .gone ∧ ((after (exec .tend tasked)).task 0).st = .done := by decide +kernel

theorem test_residency :
    let s := regs [(2, 0x8000000000000007), (3, 9), (4, 11)] (tasked cp)
    let t := after (exec (.resadv ⟨4, 1, .reg 2, 0x4005⟩) s)
    (t.die 0).resid.map (fun e => (e.2.v, e.2.loc.toNat, e.2.odie.toNat, e.2.oidx.toNat, e.2.ver.toNat)) = [(true, 7, 1, 5, 11)] ∧
    sent (.reschk ⟨1, 1⟩) t = [(1, 40, 1)] ∧ sent (.reschk ⟨1, 1⟩) (t.modDie 1 fun x => { x with sync := [(5, ⟨11, 0, false⟩)] }) = [(1, 40, 0)] ∧
    ((after (exec (.resdrop ⟨1⟩) t)).die 0).resid.map (·.2.v) = [false] ∧
    (after (exec (.resadv ⟨4, 1, .reg 3, 0x4005⟩) s)).me.resid.map (fun e => (e.1, e.2.loc.toNat)) = [(0, 9)] := by decide +kernel

/-- Activity 0 is open and its launch's; activity 1 has failed. -/
def active0 (s : State := tasked) : State := { s with acts := [(0, ⟨.opened, 5, 0, none, 1, []⟩), (1, ⟨.failed, 5, 0, none, 0, []⟩)] }

theorem test_activities :
    let s := regs [(1, 0x1000), (2, 1)] (active0 (tasked.modSl fun sl => { sl with attach := some 0 }))
    let st (i : Instr) (a : BitVec 12) (s : State) : ActSt := (actGet (after (exec i s)) a).st
    sent (.abegin ⟨1⟩) tasked = [(1, 40, 0)] ∧ st (.abegin ⟨1⟩) 0 tasked = .opened ∧
    (after (exec (.abegin ⟨1⟩) tasked)).sl.attach = some 0 ∧
    sent (.asave ⟨1, .zero⟩) s = [(1, 40, 2)] ∧ (actGet (after (exec (.apush ⟨1, .zero, .zero, 0x40⟩) s)) 0).top = some (0, 0) ∧
    st (.acommit ⟨1, .zero⟩) 0 s = .free ∧ st (.aabandon ⟨1, .reg 1, .zero⟩) 0 s = .abandoning ∧
    st (.adiscard ⟨.reg 2⟩) 1 (sup s) = .free ∧ st (.aresume ⟨.reg 2, .zero⟩) 1 (sup s) = .abandoning ∧
    (after (exec (.acommit ⟨1, .two⟩) s)).me.tval = 3 ∧ (after (exec (.cend ⟨.zero⟩) s)).me.tcause = 0x0502 ∧
    (let s := { s with tasks := [(0, { theTask with kind := .comp, comp := some (0, 0, 0) })] }
     (after (exec (.cend ⟨.zero⟩) s)).sig = .gone ∧ (after (exec (.abegin ⟨1⟩) s)).me.tcause = 0x0502) := by decide +kernel

/-- A SUM of one line of F32 on staging offset 0; plan 3 holds members 0 and 1 of dies 0 and 1 (local, bit 6 set). -/
def collected : State := ({ mapped with plans := [(3, [64, 192])] }).modDie 0 fun x => { x with
  tiles := [(9, ⟨true, false, 0, 0, 0, 256, 0, 0, 0x3000, 3, 0, false, .open⟩)] }

theorem test_collectives :
    let s := regs [(1, 9), (2, 3)] collected
    let t := after (exec (.cready ⟨1, .reg 1⟩) s)
    ((tileAt t 0 9).rdy, (t.die 0).firings) = (true, [9]) ∧ value (.cready ⟨1, .reg 1⟩) s = 0 ∧ value (.cready ⟨1, .reg 2⟩) s = 1 ∧
    (after (exec (.cwaitc ⟨6, .reg 1, .zero⟩) (t.modMe fun k => { k with inflight := [] }))).me.inflight.map (fun e =>
      (e.reg.toNat, e.value.toNat)) = [(6, 1), (7, 0)] ∧ sent (.cwaitc ⟨6, .reg 1, .zero⟩) s = [(6, 1, 0), (7, 1, 0)] ∧
    (after (exec (.cplan ⟨1, .reg 2, .zero⟩) s)).plans = [] ∧
    (let s := s.wrBytes (spadRow 0 0) 8 0x00C000400002
     (after (exec (.cplan ⟨1, .one, .zero⟩) s)).plans = [(1, [64, 192]), (3, [64, 192])]) := by decide +kernel

/-- An image that names die 1 in its own mask: SUM, F32, one line of 256 bytes, plan 3. -/
theorem test_ctile :
    (after (exec (.ctile ⟨1, .reg 1, .reg 2⟩) (regs [(1, 9), (2, 8192)] collected))).me.tcause = 0x0205 ∧
    value (.ctile ⟨1, .reg 1, .reg 2⟩) (regs [(1, 9)] collected) = 1 := by decide +kernel

/-! ### Cache pages -/

/-- A descriptor at 0x4000: table 0x5000, 4 blocks, scores at 0x6000, grace counters at 0x7000; block 2 is page 3, whose
counter stands at 5. -/
def pages : State :=
  ((((mapped (regs [(1, 0x4000), (2, 0x8000000900000002), (3, 2), (4, 3), (5, 0x8000000000000003), (6, 0x900000002), (7, 4)])).wrBytes
    0x4000 64 (0x5000 + 4 * 2 ^ 128 + 0x6000 * 2 ^ 192 + 0x7000 * 2 ^ 256)).wrBytes 0x5008 4 0x80000003).wrBytes 0x700C 4 5).wrBytes
    0x6000 4 0x3FC00000

theorem test_cachePages :
    let w (i : Instr) (a : Nat) (s : State) : Nat := rdN (after (exec i s)).mem a 4
    w (.btset ⟨1, .reg 1, .reg 2⟩) 0x5008 pages = 0x80000009 ∧ sent (.btset ⟨1, .reg 1, .reg 7⟩) pages = [(1, 40, 1)] ∧
    sent (.btlook ⟨9, .reg 1, .reg 3⟩) pages = [(9, 40, 0x80000003)] ∧ sent (.btlook ⟨9, .reg 1, .reg 7⟩) pages = [(9, 40, 0)] ∧
    w (.sacc ⟨0, .reg 1, .one⟩) 0x6000 pages = 0x40200000 ∧ w (.sacc ⟨0, .reg 1, .one⟩) 0x60FC pages = 0x3F800000 ∧
    w (.grace ⟨1, .reg 1, .reg 4⟩) 0x700C pages = 6 ∧ w (.grace ⟨1, .reg 1, .reg 5⟩) 0x700C pages = 4 ∧
    w (.handover ⟨0, .reg 1, .reg 6⟩) 0x5008 pages = 0x80000009 ∧
    ((after (exec (.handover ⟨0, .reg 1, .reg 6⟩) pages)).die (homeDie 0x700C)).pendrel = [⟨0x700C, 3, 0, none, false⟩] ∧
    (after (exec (.btinv ⟨.reg 1⟩) pages)).sig = .none ∧
    (let t := after (exec (.btinv ⟨.reg 1⟩) (pages.modCluster 1 fun x => { x with btb := [⟨0x4000, 2, 3, 0⟩] }))
     t.sig = .frozen ∧ ((after (exec (.freezeRelease 0) t)).cluster 1).btb = []) := by
  decide +kernel

/-! ### Traps and system instructions -/

theorem test_trapEntry :
    let s := mapped.modMe fun k => { k with tvec := 0x9003, tfbase := 0x10000 }
    let t := after (exec (.trap 0xFFF) s)
    (t.me.tcause, t.me.tepc, t.me.tval, t.sl.sup, t.sl.pc) = (0x1FFF, 0x100, 4, true, 0x9000) ∧ rdN t.mem 0x10000 8 = 0x100 ∧
    rdN t.mem 0x10010 2 = 0x1FFF ∧ (after (exec .ebreak s)).me.tcause = 0x0011 ∧
    (after (exec .ebreak (sup s))).fatal.isSome = true := by decide +kernel

/-- The frame of a trap, returned from: SUP falls, and the step goes on at TEPC. -/
theorem test_trapReturn :
    let s := (regs [(31, 0x1234)] mapped).modMe fun k => { k with tfbase := 0x10000 }
    let t := after (exec .ebreak s)
    let u := after (exec .rft (t.modMe fun k => { k with tepc := 0x110 }))
    (u.sl.sup, u.sl.pc, sReg u.sl 31, u.sig) = (false, 0x110, 0x1234, .gone) := by decide +kernel

theorem test_system :
    let s := regs [(1, 0x3FF), (2, 0xABCD)] (base.modSl fun sl => { sl with sticky := vset (vset sl.sticky 7 5) 6 4 })
    ((after (exec (.signal ⟨1, .reg 1, .reg 2⟩) s)).core 1023).signals.map (fun e => (e.1, e.2.1)) = [(0xABCD, 0)] ∧ sent (.xread ⟨9, 7⟩) s = [(9, 1, 5)] ∧
    (after (exec (.xclr 7) s)).sl.sticky.toList = [0, 0, 0, 0, 0, 0, 4, 0] ∧
    (let s := (sup base).modDie 7 fun x => { x with banks := vset x.banks 3 { Bank.reset with
        recs := vset Bank.reset.recs 7 { ErrRec.empty with v := true, addr := 0x77 } } }
     value (.errld ⟨9, .reg 1⟩) (regs [(1, 0x3FD)] s) = 0x77 ∧ value (.errld ⟨9, .reg 1⟩) (regs [(1, 0x3FC)] s) % 2 = 1 ∧
     sent (.errld ⟨9, .reg 1⟩) (regs [(1, 0x3FD)] s) = [(9, 40, 0x77)]) ∧
    (after (exec (.errld ⟨9, .zero⟩) mapped)).me.tcause = 0x0010 := by decide +kernel

theorem witness_TaskInstructions :
    let s := regs [(1, 0x3085), (2, 0x8000000000000)] tasked
    let far : State := (regs [(1, 0x3000000000000)] tasked).modCluster 0 fun x => { x with
      tlb := [⟨0, 0x3000000000000, 34, 0x3000000000000, true, true, true, true, 0⟩] }
    let full : State := { s with tlaunch := List.replicate 256 (0, none, .open) }
    let dep : State := { s with tasks := [(0, theTask), (4, { Task.none with wid := 0x3085, ctr := 2 })] }
    let va : Addr := 0x3080
    tlbFind s (clusterOf s.cur) (dieOf s.cur) s.sl.asn va = some page0 ∧
    xlate s s.cur s.sl.asn s.sl.sup .rd va = .ok 0x3080 0 page0 ∧ xlate s s.cur s.sl.asn s.sl.sup .wr va = .ok 0x3080 0 page0 ∧
    ([Kind.rd, .wr].all fun k => !ctlBytes s s.sl.sup k 0x3080 128 && !ctlBytes far far.sl.sup k 0x3000000000000 128) = true ∧
    (publishOp (fillTlb s (clusterOf s.cur) (dieOf s.cur) page0)).tlaunch.length < 256 ∧
    256 ≤ (publishOp (fillTlb full (clusterOf s.cur) (dieOf s.cur) page0)).tlaunch.length ∧
    (match xlate far far.cur far.sl.asn far.sl.sup .rd 0x3000000000000 with
      | .ok pa _ _ => decide (devTop ≤ pa.toNat)
      | _ => false) = true ∧
    spawnRefused s (curLaunch s) (dieOf s.cur) = false ∧
    spawnRefused (s.modDie 0 fun x => { x with trpool := 0 }) (curLaunch s) (dieOf s.cur) = true ∧
    tdepTarget dep 0x3085 = some 4 ∧ tdepTarget dep 9 = none ∧
    (s.sl.sup = false ∧ inComp s = false) ∧ (sup).sl.sup = true := by decide +kernel

/-- The step of task 0 with nothing outstanding; successors that it releases, the last of a launch, and a spawned one. -/
theorem witness_TaskEnds :
    let s := tasked.modSl fun sl => { sl with task := some 0 }
    let succ (ctr : Nat) : Task := { Task.none with st := .waiting, ctr := ctr, preds := [(0, 0)] }
    let t : State := { s with tasks := [(0, theTask), (4, succ 1), (5, succ 2)] }
    let spawned : State := { s with tasks := [(0, { theTask with kind := .spawned, added := [4] }), (4, succ 1)] }
    let torn : State := { s with tasks := [(0, { theTask with torn := true })] }
    (s.sl.sup = false ∧ inComp s = false ∧ s.eff.ckpt = false ∧ s.sl.task = some 0) ∧
    (s.me.inflight = [] ∧ s.me.mq = [] ∧ s.me.mdue = [] ∧ s.me.withheld = [] ∧ s.me.pubs = [] ∧ s.me.shrows = [] ∧
      hasCommands s.me (some 0) = false ∧ ∀ e ∈ s.dies, ∀ a ∈ e.2.arrivals, a.isRel = false) ∧
    (t.fatal = none ∧ (t.task 0).st = .running ∧ TaskSt.done.final = true ∧ TaskSt.faulted.final = true) ∧
    ((4, succ 1) ∈ t.tasks ∧ (t.task 4).st = .waiting ∧ 4 ∉ (t.task 0).added ∧ (succ 1).kind = .walked ∧
      (t.task 4).preds.contains ((t.task 0).launch, (t.task 0).wid) = true ∧ (t.task 5).ctr = 2) ∧
    ((spawned.task 0).kind ≠ .walked ∧ (spawned.task 0).added = [4] ∧ (spawned.task 4).st = .waiting) ∧ (torn.task 0).torn = true ∧
    ((s.task 0).kind ≠ .comp ∧ (s.launch (s.task 0).launch).st = .expanded ∧
      (∀ e ∈ s.tasks, e.2.launch = 0 → e.2.kind ≠ .comp → e.1 ≠ 0 → e.2.st.final = true) ∧
      s.tasks.Pairwise (fun a b => a.1 < b.1)) := by decide +kernel

theorem witness_ResidencyInstructions :
    let s := regs [(2, 0x8000000000000007), (3, 9)] (tasked cp)
    let t := after (exec (.resadv ⟨4, 1, .reg 2, 0x4005⟩) s)
    ((s.sl.tid 1).v = true ∧ (srcS s (.reg 2)).getLsbD 63 = true ∧ (srcS s (.reg 3)).getLsbD 63 = false) ∧
    ((t.die 0).resid.any fun e => matchesTid (t.sl.tid 1) e.2) = true := by decide +kernel

/-- Every activity identifier in use. -/
theorem tget_range {α : Type} (f : Nat → α) (d : α) (n m k : Nat) (h : m ≤ k ∧ k < m + n) :
    tget ((List.range' m n).map fun i => (i, f i)) k d = f k := by
  induction n generalizing m with
  | zero => omega
  | succ n ih =>
    simp only [List.range'_succ, List.map_cons, tget]
    split
    · simp_all
    · exact ih (m + 1) (by omega)

theorem beginAct_none (s : State) (hl : opbLong (s.launch (curLaunch s)) = false)
    (h : ∀ i < 4096, (tget s.acts i .free).st ≠ .free) : beginAct s = none := by
  have g : (List.range 4096).find? (fun i => (actGet s (BitVec.ofNat 12 i)).st == .free) = none := by
    refine List.find?_eq_none.2 fun i hi => ?_
    have h1 : (BitVec.ofNat 12 i).toNat = i := by simpa using List.mem_range.1 hi
    simpa [actGet, h1] using h i (by simpa using hi)
  simp only [beginAct, hl, g]
  simp

def busyActs (n : Nat) : State := { tasked with acts := (List.range' 0 n).map fun i => (i, ⟨.opened, 5, 0, none, 0, []⟩) }

theorem witness_noActivityIsFree : inComp (busyActs 4096) = false ∧ beginAct (busyActs 4096) = none := by
  have h1 : ∀ n, inComp (busyActs n) = false := fun n => rfl
  have h2 : ∀ n, (busyActs n).launch (curLaunch (busyActs n)) = theLaunch := fun n => rfl
  refine ⟨h1 _, beginAct_none _ ?_ fun i hi => ?_⟩
  · rw [h2]
    decide +kernel
  · rw [busyActs, tget_range _ _ _ _ _ ⟨Nat.zero_le _, by omega⟩]
    simp

theorem witness_ActivityInstructions :
    let s := regs [(2, 1), (3, 8191)] (active0 (tasked.modSl fun sl => { sl with attach := some 0 }))
    let comp : State := { s with tasks := [(0, { theTask with kind := .comp, comp := some (0, 0, 0) })] }
    let r1 := landSlot (publishOp s)
    let x : Nat := (s.rdRow s.cur 8191).toNat % 2 ^ 384
    let failing : State := s.modDie 0 fun x => { x with csseg := 0 }
    (inComp s = false ∧ (beginAct s).isSome = true) ∧
    actReason s 0 true true = none ∧ s.poisoned (spadRow s.cur 8191) = false ∧
    (actGet r1 0).st = .opened ∧ (pushEntry r1 (dieOf r1.cur) 0 0 x 0x40 r1.sl.released).isSome = true ∧
    (pushEntry r1 (dieOf r1.cur) 0 1 0 0 []).isSome = true ∧
    pushEntry (landSlot failing) 0 0 0 x 0x40 [] = none ∧
    (actReason s 0 true false = none ∧ tiedLive (publishOp s) 0 = false ∧ (actGet (publishOp s) 0).st = .opened) ∧
    (0 : BitVec 16) ≤ (actGet r1 0).nsave ∧ (actGet r1 0).nsave < 2 ∧
    (comp.task (curTask comp)).kind = .comp ∧ (srcS comp .zero).getLsbD 0 = false ∧ ((s.task (curTask s)).kind ≠ .comp ∧ s.sl.sup = false) ∧
    ((sup s).sl.sup = true ∧ (actGet (sup s) 1).st = .failed ∧ (∀ b ∈ (sup s).abandons, b.act = 1 → b.status = none)) ∧
    inComp comp = true ∧ (actGet s 9).st = .free ∧
    tiedLive { s with acts := [(0, ⟨.opened, 5, 0, none, 1, [1]⟩), (1, ⟨.opened, 5, 0, none, 0, []⟩)] } 0 = true := by decide +kernel

/-- Entry 9 as an image: SUM of one F32 line, staging offset 0, result at 0x3000, plan 3. -/
def collImage : State :=
  let s : State := { base with plans := [(3, [64, 192])] }
  s.wrBytes (spadRow 0 0) 32 (256 * 2 ^ 16 + 0x3000 * 2 ^ 128 + 3 * 2 ^ 192)

theorem witness_CollectiveInstructions :
    let s := regs [(1, 9), (2, 8192)] collected
    let t := after (exec (.cready ⟨1, .reg 1⟩) s)
    let full := s.modDie 0 fun x => { x with firings := List.replicate 64 1 }
    let row (s : State) : Row := s.rdRow s.cur 0
    let n (s : State) : Nat := laneN (row s) 0 16
    let two := s.wrBytes (spadRow 0 0) 8 0x00C000400002
    let no := s.wrBytes (spadRow 0 0) 8 0x00C000400021
    let l (s : State) : List Nat := (List.range (min (n s) 32)).map fun i => laneN (row s) (i + 1) 16 % 1024
    8192 ≤ (srcS s (.reg 2)).toNat ∧ s.poisoned (spadRow s.cur 0) = false ∧
    tileRefused s (dieOf s.cur) 9 (tileImage s 0) = true ∧ (n s = 0 ∧ planBusy s 3 = false) ∧ s.planOut = [] ∧
    planBusy t 3 = true ∧ waited s.me ≤ (srcS s .zero).toNat % 2 ^ 32 ∧
    (n two ≠ 0 ∧ planRefused two 1 (n two) (l two) = false) ∧ (n no ≠ 0 ∧ planRefused no 1 (n no) (l no) = true) ∧
    (tileAt s 0 2).v = false ∧ (tileAt t 0 9).rdy = true ∧ 64 ≤ (full.die 0).firings.length ∧
    ((tileAt s 0 9).v = true ∧ (tileAt s 0 9).rdy = false ∧ (s.die 0).firings.length < 64) := by decide +kernel

theorem witness_CachePageInstructions :
    let page (s : State) (ks : List Kind) (va : Addr) (n : Nat) (pa : Addr) : Bool :=
      (tlbFind s (clusterOf s.cur) (dieOf s.cur) s.sl.asn va).isSome &&
      (ks.all fun k => xlate s s.cur s.sl.asn s.sl.sup k va == .ok pa 0 page0) && va.toNat % 256 + n ≤ 256 &&
      pa.toNat < devTop && !s.poisoned pa.toNat
    let last := pages.wrBytes 0x700C 4 0xFFFFFFFF
    let gone := pages.wrBytes 0x700C 4 0
    (pages.me.inflight = [] ∧ pages.me.withheld = [] ∧ pages.me.pubs = []) ∧ page pages [.rd] 0x4000 64 0x4000 = true ∧
    rdN pages.mem 0x4000 64 / 2 ^ 128 % 2 ^ 32 = 4 ∧ rdN pages.mem 0x4000 64 % 2 ^ 52 = 0x5000 ∧
    page pages [.rd, .wr] 0x500C 4 0x500C = true ∧ page pages [.rd] 0x5008 4 0x5008 = true ∧ page pages [.rd] 0x4000 1 0x4000 = true ∧
    ((List.range 64).all fun i => page pages [.rd, .wr] (BitVec.ofNat 52 (0x6000 + 4 * i)) 4 (BitVec.ofNat 52 (0x6000 + 4 * i))) = true ∧
    page pages [.rd, .wr] 0x700C 4 0x700C = true ∧ 1 < rdN pages.mem 0x700C 4 ∧ rdN pages.mem 0x700C 4 < 2 ^ 32 - 1 ∧
    rdN last.mem 0x700C 4 = 2 ^ 32 - 1 ∧ rdN gone.mem 0x700C 4 = 0 ∧ rdN pages.mem 0x5008 4 / 2 ^ 31 % 2 = 1 ∧
    rdN pages.mem 0x5008 4 % 2 ^ 24 = 3 ∧ page pages [.wr] 0x8000 1 0x8000 = true ∧
    (pages.die (homeDie 0x700C)).pendrel.length < 256 ∧
    (((pages.modCluster 0 fun x => { x with btb := [⟨0x4000, 2, 7, 0⟩] }).cluster 0).btb.find? fun e =>
      e.desc == 0x4000 && e.block == 2).isSome = true := by decide +kernel

/-- An exit that leaves a counter at zero, a handover that finds it there, and a notice on a page that may be written. -/
theorem witness_PagesFreed :
    let one := pages.wrBytes 0x700C 4 1
    let gone := pages.wrBytes 0x700C 4 0
    let r : PendRel := ⟨0x700C, 3, 0, some 0x8000, false⟩
    rdN one.mem 0x700C 4 = 1 ∧ (rdN gone.mem 0x700C 4 = 0 ∧ 0x5008 + 4 ≤ 0x700C ∧ (gone.die (homeDie 0x700C)).pendrel.length < 256) ∧
    ((pages.die (homeDie 0x700C)).pendrel.find? fun r => r.ctr.toNat == 0x700C) = none ∧
    (sReg pages.sl 5).getLsbD 63 = true ∧ r.notice = some 0x8000 ∧ ({ r with notice := none } : PendRel).notice = none ∧
    (match xlateU pages (128 * 0) (schedMaster 0) 0 false .wr 0x8000 with
      | .ok pa _ _ => decide (pa.toNat + 8 ≤ devTop) && decide (pa.toNat % 256 ≤ 248)
      | _ => false) = true := by decide +kernel

theorem witness_pagesAreFresh : FreshNumber pages.me ∧ FreshNumber (pages.wrBytes 0x700C 4 1).me :=
  ⟨freshNumber (by decide +kernel) (by decide +kernel) (by decide +kernel),
    freshNumber (by decide +kernel) (by decide +kernel) (by decide +kernel)⟩

theorem witness_TrapEntry :
    let s := (mapped).modMe fun k => { k with tvec := 0x9003, tfbase := 0x10000 }
    let epc : Word := s.sl.pc.setWidth 64 ||| (s.sl.prol.setWidth 64 <<< 52)
    (s.sl.sup = false ∧ s.me.inflight = [] ∧ s.me.mq = [] ∧ s.me.mdue = [] ∧ s.sl.bubble = false ∧ s.me.slot0.lcause = [] ∧
      s.me.slot1.lcause = [] ∧ frameAsk s s.cur .wr = none) ∧ ((sup).fatal = none ∧ (after (exec .ebreak (sup))).fatal.isSome = true) ∧
    (match writeFrame s.cur (frameBase s.me) (frameOf s.me s.sl [] 0x0011 epc 4) 0x58 (s.setMe s.me) with
      | .ok u => decide (u.me = s.me) && u.cur == s.cur
      | .error _ => false) = true ∧ (sup).sl.sup = true := by decide +kernel

theorem witness_TrapReturn :
    let s := (regs [(31, 0x1234)] mapped).modMe fun k => { k with tfbase := 0x10000 }
    let t := after (exec .ebreak s)
    s.sl.sup = false ∧ t.sl.sup = true ∧
    (match readFrame t t.cur (frameBase t.me) 0x58 with
      | .ok f => wordAt f 48 4 / 2 ^ 6 % 4 == 0 && wordAt f 48 1 % 64 == 0 && wordAt f (0x100 + 8 * 31) 8 == 0x1234
      | .error _ => false) = true ∧ t.sl.cfail = false ∧ t.me.inflight = [] ∧ t.me.mq = [] ∧ t.me.mdue = [] ∧
    frameAsk t t.cur .rd = none ∧
    (match readFrame t t.cur (frameBase t.me) 0x58 with
      | .ok f => (List.range 4).all (fun n => wordAt f (0x5500 + 32 * n) 32 % 2 == 0)
      | .error _ => false) = true ∧ t.me.qkept = [] ∧
    (let w := (sup mapped).modMe fun k => { k with inflight := [⟨40, .scalar, 1, .bl, false, 0, 0, 0, 0, 0,
      some ⟨.ldgs, 0x3000, 0, 0, .pending, false, 0, 0⟩, false, 0⟩] }
     w.sl.sup = true ∧ pendingAcc w.me = true) := by decide +kernel

theorem witness_SignalsAndStickyRecords :
    let full := base.modCore 1023 fun k => { k with signals := List.replicate 8 (0, 0, .open) }
    ((publishOp base).core 1023).signals.length < 8 ∧ ((publishOp full).core 1023).signals.length = 8 ∧ (sup).sl.sup = true ∧ base.sl.sup = false := by decide +kernel

/-! ### The outside -/

/-- Ready, with ring 255 of 4 records at 0x10000, its tail at 2. -/
def up : State := { State.reset with
  boot := .ready
  rings := [(255, ⟨0x10000, 2, 2, true, false, 1⟩)] }
/-- Nothing may be written to control space. -/
def denied : State := { up with access := [(32, [(0, (0xFFFFFFFFF : AccEnt) <<< 128 ||| 0xB)])] }

/-- The doorbell is stored up to the head, and not past it; a ring reset sets CANCELLED in the record at the head. -/
theorem test_rings :
    let q := after (exec (.lqtailDoorbell 255 0) up)
    let p := after (exec (.lqtailDoorbell 255 1) up)
    let r := after (exec (.ringReset 255) (up.wrBytes 0x10080 8 0x40001))
    ((q.ring 255).tail, (q.ring 255).err, q.reply) = (0, false, .done) ∧
    ((p.ring 255).tail, (p.ring 255).err) = (2, true) ∧ (r.ring 255).head = 2 ∧ rdN r.mem 0x10080 8 % 16 = 2 ∧
    ((after (exec (.lqEnable 0 true) up)).ring 0).err = true ∧ ((after (exec (.lqEnable 255 false) up)).ring 255).en = false ∧
    ((after (exec (.lqctlErrClear 255) p)).ring 255).err = false ∧
    (after (exec (.lqtailDoorbell 255 0) denied)).reply = .abort ∧ (after (exec (.lqtailDoorbell 255 0) State.reset)).reply = .abort := by
  decide +kernel

/-- LQKILL of launch identifier 5 cancels a waiting task and lets a running one finish. -/
theorem test_teardown :
    let s : State := { tasked with tasks := [(0, theTask), (1, { theTask with st := .waiting })] }
    let t := after (exec (.lqkill (.host 1) 5) s)
    ((t.task 0).st, (t.task 0).torn, (t.task 1).st, (after (exec (.lqkill (.host 1) 4) s)).tasks == s.tasks) =
      (.running, true, .cancelled, true) := by decide +kernel

theorem test_registerWrites :
    let w (off : BitVec 26) (v : Word) (s : State) : State := after (exec (.registerWrite .mgmt off (.write 8 v.toNat)) s)
    (w 0x2000 7 up).gttbase = 7 ∧ ((w 0x1FFFFF0 7 up).core 1023).cycle = 0 ∧ (w 0x7000 900 up).powercap.toNat % 4096 = 900 ∧
    ((after (exec (.preemptRequest (.host 0) 1023) up)).core 1023).preempt = true ∧
    ((after (exec (.cssegWrite (.host 0) 7 0xFFFFFFFFFFFFFFFF) up)).die 7).csseg = 0x000FFFFFFFF00FFF ∧
    ((after (exec (.trpoolWrite (.host 1) 7 0xFFFFFFFFFFFFFFFF) up)).die 7).trpool = 0x000FFFFFFFF00FFF ∧
    (after (exec (.devidWrite .mgmt 0xFF) up)).devid = 0x3F ∧ (after (exec (.devidWrite (.host 0) 0xFF) up)).devid = 0 ∧
    tget (tget (after (exec (.accessTableWrite .mgmt 63 63 (BitVec.allOnes 192)) up)).access 63 []) 63 0 =
      0xFFFFFFFFF0000000FFFFFFFFF0000FFFFFFFF000F ∧
    (after (exec (.accessTableWrite (.host 0) 63 63 1) up)).access = [] := by decide +kernel

theorem test_invalidation :
    let s : State := { up with clusters := [(127, { Cluster.reset with tlb := [⟨15, 0x10000, 16, 0, true, true, true, true, 0⟩] })] }
    let v : Word := 0x00F0000000010000
    let t := after (exec (.tbivc (.core 0) v) s)
    t.tbivc = some (1, 15, 0) ∧ ((after (exec .tbivcComplete t)).cluster 127).tlb = [] ∧ (after (exec .tbivcComplete t)).tbivc = none ∧
    (after (exec (.tbivc (.core 0) v) t)).tbivcOvr = true ∧
    (after (exec (.tbivcOvrClear (.core 0)) (after (exec (.tbivc (.core 0) v) t)))).tbivcOvr = false ∧
    ((after (exec (.atsInvalidation 15 1 0) s)).cluster 127).tlb = [] ∧
    ((after (exec (.atsInvalidation 15 2 0) s)).cluster 127).tlb.length = 1 := by decide +kernel

theorem test_errorRecordsAndObjects :
    let s := up.modDie 7 fun x => { x with
      sync := [(16383, ⟨41, 0, false⟩)]
      banks := vset x.banks 3 { Bank.reset with recs := vset Bank.reset.recs 7 { ErrRec.empty with v := true, ovf := true } } }
    let rec7 (t : State) : ErrRec := vget (vget (t.die 7).banks 3 .reset).recs 7 .empty
    (rec7 (after (exec (.errorRecordFree .mgmt 7 3 7) s))).v = false ∧
    ((rec7 (after (exec (.errorOvfClear .mgmt 7 3 7) s))).v, (rec7 (after (exec (.errorOvfClear .mgmt 7 3 7) s))).ovf) = (true, false) ∧
    (after (exec (.hostSyncAcquire 1 7 16383) s)).reply = .data 41 ∧
    objVer (after (exec (.hostSyncRelease 1 7 16383) s)) 7 16383 = 42 := by decide +kernel

/-- BAR2 from APBASE on, and a peer: reads, writes, an exchange, a comparison; past device memory all ones. -/
theorem test_outsideAccesses :
    let s := ({ up with apbase := 0x100000 } : State).wrBytes 0x100010 8 0x1122334455667788
    let b (op : ExtOp) (off : BitVec 40) : Reply × Nat :=
      let t := after (exec (.bar2Access 1 op off) s)
      (t.reply, rdN t.mem 0x100010 8)
    b (.read 4) 0x12 = (.data 0x33445566, 0x1122334455667788) ∧ b (.write 2 0xAAAA) 0x10 = (.done, 0x112233445566AAAA) ∧
    b (.fetchAdd false 0xFFFFFFFF) 0x10 = (.data 0x55667788, 0x1122334455667787) ∧
    b (.swap true 5) 0x10 = (.data 0x1122334455667788, 5) ∧ b (.cas false 0x55667788 1) 0x10 = (.data 0x55667788, 0x1122334400000001) ∧
    b (.cas false 0x55667789 1) 0x10 = (.data 0x55667788, 0x1122334455667788) ∧
    (after (exec (.bar2Access 1 (.read 2) 0) { s with apbase := 768000000000 })).reply = .data 0xFFFF ∧
    (after (exec (.peerRequest 63 (.read 8) 0x100010) s)).reply = .data 0x1122334455667788 ∧
    (after (exec (.peerRequest 63 (.read 8) 0x100010) State.reset)).reply = .abort := by decide +kernel

def bootIn : BootIn := ⟨none, [], 0x3F, .replicate 8 3, .replicate 8 2, .replicate 4 0xAB⟩
/-- The steps of a boot, up to its end. -/
def booted (s : State) : State := bootStep (bootStep (bootStep (bootStep (bootStep s))))
theorem test_boot :
    let s := (base.wrBytes 0x100 1 7).wrBytes (8 * 2 ^ 48) 1 9
    let off := after (exec .powerRemoval s)
    let on := after (exec (.powerOn bootIn) off)
    let r := after (exec (.reset bootIn) s)
    (off.power, off.boot, rd off.mem 0x100, rd off.mem (8 * 2 ^ 48)) = (.d3cold, .off, 0, 9) ∧
    (on.boot, (booted on).power, (booted on).boot, (booted on).devid, ((booted on).die 7).csseg, ((booted on).die 7).trpool) =
      (.running 1 bootIn, .p0, .ready, 0x3F, 0x300020, 0x200040) ∧
    (r.boot, rd r.mem 0x100, r.cores) = (.running 1 bootIn, 7, []) ∧
    (booted (after (exec (.powerOn { bootIn with fail := some (3, 2) }) off))).boot = .failed 3 2 ∧
    (let m : State := { up with meas := .replicate 4 0xAB }
     (after (exec (.spdmRequest 0 (.measurement 4)) m)).reply = .data 0xAB ∧
     (after (exec (.spdmRequest 0 (.measurement 5)) m)).reply = .abort) ∧
    (let k := after (exec (.spdmRequest 1 (.ideKey 7 .bar2 0 0xFFFF)) up)
     let t := after (exec (.ideIntegrityFailure 1 7) k)
     (streamSecure k 1 7, streamSecure t 1 7) = (true, false) ∧ t.msixFns[0].pending.contains 3 = true ∧
     t.msixFns[1].pending.contains 3 = true ∧
     (after (exec (.bar2Access 1 (.read 2) 0xFFFE) k)).reply = .data 0 ∧
     (after (exec (.bar2Access 1 (.read 2) 0xFFFE) t)).reply = .abort ∧
     (after (exec (.bar2Access 1 (.read 2) 0x10000) t)).reply = .data 0) := by decide +kernel

/-- A page of address space 15 that is asked for. -/
def pageReq : PageReq := ⟨none, 15, 7, .rd, false, 0⟩
/-- A grant becomes a page of the host; a refusal becomes a page request; its answer asks again. -/
theorem test_pages :
    let s : State := { up with ats := [pageReq] }
    let r := after (exec (.atsResponse .refuse) s)
    (after (exec (.atsResponse (.grant 0x10000 true false false)) s)).hostPages = [(15, 7, 0x10000, true, false, false)] ∧
    (after (exec (.atsResponse (.grant 0x10000 false true false)) s)).pri = [pageReq] ∧
    (r.ats, r.pri) = ([], [pageReq]) ∧ (after (exec (.priResponse ⟨0, 0, true⟩) r)).ats = [{ pageReq with again := true }] ∧
    (after (exec (.priResponse ⟨0, 0, false⟩) r)).ats = [] ∧ (after (exec (.priResponse ⟨1, 0, true⟩) r)).pri = [pageReq] := by decide +kernel

theorem test_powerAndPorts :
    let n (i : Instr) (s : State := up) : State := after (exec i s)
    (n (.powerStepDown 2301 false)).pstate = 1 ∧ (n (.powerStepDown 2300 false)).pstate = 0 ∧ (n (.powerStepDown 0 true)).pstate = 1 ∧
    (n .powerStepUp { up with pstate := 2 }).pstate = 1 ∧ (n .d3hotEntry).power = .d3hot ∧ (n .d0Return (n .d3hotEntry)).power = .p0 ∧
    ((n (.junctionLimit 7)).fatal.map fun f => (f.die, f.cause)) = some (7, 0x8071) ∧
    (n (.laneStepDown 17)).ports[17] = 336 ∧ (n (.portDown 17)).ports[17] = 448 ∧
    (n (.portDown 17) { up with ports := .replicate 18 112 }).ports[17] = 0 ∧
    (n (.msixVectorUnmask ⟨1, .vector 2047 false⟩) { up with msixFns := .replicate 2 ⟨true, false, [], [2047]⟩ }).msixSent = [(1, 2047)] ∧
    (n (.msixVectorUnmask ⟨1, .control true true⟩) { up with msixFns := .replicate 2 ⟨true, false, [2047], [2047]⟩ }).msixSent = [] ∧ (n (.bar2Resize 10)).bar2 = 40 := by decide +kernel

theorem witness_HostRegisterWrites :
    let r : Ring := ⟨0x10000, 2, 2, true, false, 1⟩
    (up.boot = .ready ∧ accOk up (Master.code (.peer 63)) .wr (3 * 2 ^ 48 + 0x3FFFFFF) = true ∧
      accOk up 0x8000 .wr (3 * 2 ^ 48 + 0x102000) = true ∧ accOk up 0x8001 .rd (3 * 2 ^ 48 + 0x200000) = true) ∧
    (linkRefuses up (Master.code (.peer 63)) .bar0 0x3FFFFFF 8 = false ∧ linkRefuses up 0x8000 .bar0 0x102000 8 = false ∧
      linkRefuses up 0x8001 .bar0 0x200000 8 = false) ∧
    (mKind (Master.code (.host 0)) = 0 ∨ mKind (Master.code (.host 0)) = 4) ∧ supWriter (Master.code (.host 0)) (.csseg 7) = true ∧
    (∀ k, k < 4 → engineReach up (0x10000 + 128 * k) = true ∧ accOk up (schedMaster 0) .wr (0x10000 + 128 * k) = true) ∧
    up.fatal = none ∧ State.reset.boot ≠ .ready ∧ accOk denied 0x8000 .wr (3 * 2 ^ 48 + 0x100000) = false ∧ denied.boot = .ready ∧
    (1 ≤ (0 : Nat) → False) ∧ ¬(1 ≤ Ring.reset.size.toNat ∧ Ring.reset.size.toNat ≤ 16) ∧ (1 ≤ r.size.toNat ∧ r.size.toNat ≤ 16) ∧
    (r.head.toNat < 2 ^ r.size.toNat ∧ r.tail.toNat < 2 ^ r.size.toNat) ∧ (2 + 4 - 1) % 4 + 2 < 4 ∧ 4 ≤ (2 + 4 - 1) % 4 + 3 ∧
    up.ring 255 = r ∧ up.tbivc = none ∧ ({ up with tbivc := some (0, 0, 3) } : State).tbivc.isSome = true ∧
    Master.mgmt ≠ .host 0 := by decide +kernel

/-- Launch 0 is torn down: task 0 runs, task 1 waits, task 2 is a compensation task, task 3 final; or none runs. -/
theorem witness_Teardown :
    let s : State := { tasked with tasks := [(0, theTask), (1, { theTask with st := .waiting, wid := 7 }), (2, { theTask with kind := .comp }),
      (3, { theTask with st := .done })] }
    let idle : State := { tasked with tasks := [(1, { theTask with st := .waiting, wid := 7 })] }
    let acted : State := { s with acts := [(9, ⟨.opened, 0, 0, none, 0, []⟩)] }
    let known (t : State) (n : Nat) : Prop := t.task n ≠ .none ∧ (t.task n).launch = 0
    ((s.launch 0).lid = 5 ∧ (s.launch 0).st ≠ .done ∧ ∀ e ∈ s.launches, e.1 = 0 → e.2.lid ≠ 6) ∧
    (known s 0 ∧ (s.task 0).kind ≠ .comp ∧ (s.task 0).st = .running ∧ (s.task 0).st.final = false) ∧
    (known s 1 ∧ (s.task 1).kind ≠ .comp ∧ (s.task 1).st.final = false ∧ (s.task 1).st ≠ .running ∧ s.fatal = none) ∧
    (s.task 2).kind = .comp ∧ (s.task 3).st.final = true ∧ ((actGet acted 9).st = .opened ∧ (actGet acted 9).launch = 0) ∧
    (idle.tasks.Pairwise (fun a b => a.1 < b.1) ∧ ∀ e ∈ idle.tasks, e.2.launch = 0 → e.2.kind ≠ .comp → e.2.st ≠ .running) ∧
    (let w (m : Master) (b : Bool) : Bool := decide (mKind (Master.code m) ≤ 2) || mKind (Master.code m) == 4 || (b && m == .mgmt)
     (w (.host 0) false, w .mgmt false, w .mgmt true, w (.peer 0) true) = (true, false, true, false)) := by decide +kernel

theorem witness_InvalidationAndReadback :
    up.tbivc = none ∧ ({ up with tbivc := some (1, 15, 3) } : State).tbivc = some (1, 15, 3) := by decide

theorem witness_OutsideAccesses :
    let s : State := { up with apbase := 0x100000 }
    let no : State := { s with access := [(homeDie 0x100000, [(0, 0)])] }
    let far : State := { s with apbase := 768000000000 }
    let op : ExtOp := .cas true 0 1
    (0 : BitVec 40).toNat + extBytes op ≤ 2 ^ s.bar2 ∧ State.reset.boot ≠ .ready ∧ s.boot = .ready ∧
    (1 ≤ extBytes op ∧ 0x1000F8 % 256 + extBytes op ≤ 256 ∧ 0x1000F8 + extBytes op ≤ devTop) ∧ 0x1000F8 % 8 = 0 ∧
    (accOk s 0x8001 .wr 0x100000 = true ∧ accOk s 0x8001 .rd 0x100000 = true ∧ accOk s 0xA03F .wr 0x100000 = true) ∧
    accOk no 0x8001 .wr 0x100000 = false ∧ accOk no 0xA03F .wr 0x100000 = false ∧
    devTop < far.apbase.toNat + (0 : BitVec 40).toNat + extBytes op ∧ linkRefuses s 0x8001 .bar2 0 8 = false ∧
    linkRefuses { s with ide := [⟨1, 7, .bar2, 0, 0xFFFF, false⟩] } 0x8001 .bar2 0 8 = true := by decide +kernel

theorem witness_BootPowerAndLinks :
    let cold : State := { up with power := .d3cold }
    let keyed : State := { up with ide := [⟨1, 7, .bar2, 0, 0xFFFF, true⟩] }
    let asked : State := { up with ats := [pageReq] }
    let fn (open_ : List Nat) : MsixFn := ⟨true, false, open_, []⟩
    State.reset.boot = .off ∧ cold.power = .d3cold ∧ (up.boot ≠ .off ∧ up.power ≠ .d3cold) ∧ up.stack = [] ∧
    bootIn.fail = none ∧ ({ bootIn with fail := some (3, 2) } : BootIn).fail = some (3, 2) ∧
    ([0x6200, 0x3200, 0x3338].all fun off => accOk up 0xC000 .wr (3 * 2 ^ 48 + off) && !accOk denied 0xC000 .wr (3 * 2 ^ 48 + off)) = true ∧
    ({ up with boot := .running 5 bootIn, agenda := [.issue 1023] } : State).boot = .running 5 bootIn ∧
    streamSecure up 1 7 = false ∧ streamSecure keyed 1 7 = true ∧ (fn [3]).sends 3 = true ∧ (fn []).sends 3 = false ∧
    (∀ e ∈ up.dies, e.2.walks = []) ∧ up.ats = [] ∧
    (asked.ats = pageReq :: [] ∧ pageReq.kind = .rd) ∧
    (0 : BitVec 64).toNat < 2 ^ 50 ∧ 2 ^ 50 ≤ (0x4000000000000 : BitVec 64).toNat ∧
    (up.pri.filter fun x => x.link == 1).length ≤ 0 ∧
    (let s : State := { up with pri := List.replicate 511 pageReq ++ pageReq :: [pageReq] }
     s.pri = List.replicate 511 pageReq ++ pageReq :: [pageReq] ∧ pageReq.link = 0 ∧
     ((List.replicate 511 pageReq).filter fun x => x.link == 0).length = 511) ∧
    (up.power = .p0 ∧ up.pstate < 2 ∧ max 800 (up.powercap.toNat % 4096) < 2301) ∧ 2300 ≤ max 800 (up.powercap.toNat % 4096) ∧
    2 ≤ ({ up with pstate := 2 } : State).pstate ∧ ({ up with power := .d3hot } : State).power = .d3hot ∧ up.fatal = none ∧
    up.ports[17] ∈ [448, 336, 224] ∧ ({ up with ports := .replicate 18 112 } : State).ports[17] = 112 := by decide +kernel

/-- Page 7 of address space 15 is granted or refused to those who wait for it: a notice of die 7, an access and a fetch of core
1023, a command of its channel 3. -/
theorem witness_PagesGrantedOrNot :
    let k : Core := { Core.reset with
      slot0 := { Slot.reset with
        task := some 0
        asn := 15 }
      inflight := [⟨9, .scalar, 1, .bl, false, 0, 0, 0, 0, 0, some ⟨.ldgs, 0x70000, 0, 0, .pending, false, 0, 1⟩, false, 0⟩] }
    let page : Tlb := ⟨15, 0x70000, 16, 0x30000, true, true, true, true, 0⟩
    let u : State := { up with
      cores := [(1023, { k with l1 := [(0x300, ⟨0x30000, .m, 15, 0, 0, 0⟩)] })]
      clusters := [(127, { Cluster.reset with tlb := [page] })] }
    let cmd : Cmd := { newCmd base .cpy .invalid .invalid 0 true 1 with
      asn := 15
      ask := some 0x70000 }
    let q : State := modChan { up with cores := [(1023, k)] } 1023 3 fun ch => { ch with q := [cmd] }
    let w : State := { up with cores := [(1023, { k with
      inflight := []
      freeze := some ⟨2, 0, .page 0x70000⟩ })] }
    let r : PendRel := ⟨0x700C, 3, 15, some 0x70000, false⟩
    let n := (u.modDie 7 fun x => { x with notices := [r] }).modCluster 112 fun x => { x with tlb := [page] }
    let a := (k.inflight.headD (due .none 0 true 0)).acc.getD (accAt .ldgs 0)
    (up.die 7).notices = [] ∧ ((n.die 7).notices = [r] ∧ ∀ b, b < 7 → (n.die b).notices = []) ∧
    (match xlateU n (128 * 7) (schedMaster 7) 15 false .wr 0x70000 with
      | .ok _ _ _ => true
      | _ => false) = true ∧ up.cores = [] ∧
    (k.inflight.length = 1 ∧ a.st = .pending ∧ cachePage a.word = false ∧ k.pubs = [] ∧ k.withheld = [] ∧ k.slot0.parked = [] ∧
      k.slot1.parked = [] ∧ u.poison = [] ∧ missing u 1023 15 0x70000 = false ∧ xlate u 1023 15 false .rd 0x70000 = .ok 0x30000 0 page ∧
      ctlDenied u false .rd 0x30000 8 = false ∧ hostDenies u a 0x30000 0 = false) ∧
    accReady (fillTlb u 127 7 page) 1023 false a 0x30000 0 = true ∧
    (∀ e ∈ up.cores, coreAsks e.2 15 7 = false) ∧ coreAsks (q.core 1023) 15 7 = true ∧ coreAsks (w.core 1023) 15 7 = true ∧
    slotWake (w.core 1023) false = some (.page 0x70000) ∧ (cmd ∈ (chanOf q 1023 3).q ∧ cmd.asn = 15) ∧
    (0x70000 : Addr).extractLsb' 16 36 = (7 : BitVec 36) := by decide +kernel

/-- A core stands first on the agenda when the junction limit is reached. -/
theorem witness_issueAfterTheLimit :
    (after (exec (.junctionLimit 7) { up with agenda := [.issue 1023] })).agenda = [.issue 1023] := by decide +kernel

/-! ### The scheduling path -/

/-- A ring of two records, and one operator parameter block of two levels, 2 by 3: launch 5 on dies 0 and 7. -/
def launching : State :=
  let s := ({ mapped with rings := [(0, ⟨0x10000, 1, 1, true, false, 0⟩)] } : State).wrBytes 0x10000 20
    ((0x20000 + 0x81 * 2 ^ 56) * 2 ^ 64 + (5 + 15 * 2 ^ 16) * 2 ^ 128)
  (s.wrBytes 0x20000 16 (0x3000 + 2 * 2 ^ 52 + 2 * 2 ^ 56 + 2 * 2 ^ 64 + 3 * 2 ^ 96)).modDie 7 fun x => { x with trpool := 1 }
def fetched5 : State := after (exec .launchFetch launching)

theorem test_launchFetch :
    let l := fetched5.launch 0
    (l.lid, l.dies, l.st, opbEntry l, opbPrio l, opbNlev l) = (5, 0x81, .waiting, 0x3000, 2, 2) ∧ (fetched5.ring 0).head = 1 ∧
    fetched5.nextRing = 1 ∧
    -- a share of 7 is malformed
    (let t := after (exec .launchFetch (launching.wrBytes 0x10012 1 7))
     (t.launch 0).st = .done ∧ rdN t.mem 0x10000 8 % 16 = 4 ∧ rdN t.mem 0x10000 8 / 2 ^ 32 = 0x101) ∧
    -- a ring at its end
    (after (exec .launchFetch fetched5)).launches.length = 1 := by decide +kernel

/-- Die 7 has the upper half: its first index is (1, 0). -/
theorem test_expansion :
    let t := after (exec (.walkerExpand 7) fetched5)
    ((t.task 0).wid, (t.task 0).entry, (t.task 0).die, (t.task 0).st, (t.die 7).ready) = (4, 0x3000, 7, .ready, [0]) ∧
    ((after (exec (.walkerExpand 7) t)).task 1).wid = 5 ∧ (after (exec (.walkerExpand 0) fetched5)).tasks = [] := by decide +kernel

/-- Launch 0 of die 7 waits: role mode, one level of bound 1. -/
def rolesOf (f : Launch → Launch) : State := { base with
  launches := [(0, f { theLaunch with st := .waiting, dies := 0x80, stage := 15, role := true, loader := 0x100, storer := 0x200,
                                      opb := BitVec.ofNat 16384 (2 ^ 56 + 2 ^ 64) })]
  dies := [(7, { Die.reset with trpool := 1 })] }

theorem test_shares :
    let s := rolesOf fun l => { l with stage := 1, fuse := true }
    let r := after (exec (.roleModeStart 127) (s.modDie 7 fun x => { x with staging := 1 }))
    ((after (exec (.stagingShareApply 7) s)).die 7).staging = 1 ∧ ((after (exec (.fuseChange 127) s)).cluster 127).fused = true ∧
    (r.cluster 127).role = some 0 ∧ ((r.core 1016).local_, (r.core 1023).local_) = ([0], [1]) ∧
    ((r.task 0).entry, (r.task 1).entry, (r.task 1).wid) = (0x100, 0x200, 15) := by decide +kernel

/-- Tasks 1 and 2 are ready on die 7; task 2 has waited longer. -/
def queued : State := { base with
  launches := [(0, theLaunch)]
  tasks := [(1, { Task.none with die := 7, st := .ready, entry := 0x100 }), (2, { Task.none with die := 7, st := .ready, entry := 0x200, wid := 9 })]
  dies := [(7, { Die.reset with ready := [1, 2] })] }

theorem test_dispatch :
    let a := after (exec (.priorityAging 7 1) queued)
    let t := after (exec (.dispatch 7) a)
    (a.task 2).waited = 1024 ∧ ((t.die 7).ready, (t.core 896).local_, (t.task 2).st) = ([1], [2], .queued) ∧
    ((after (exec (.dispatch 7) queued)).core 896).local_ = [1] ∧
    (let u := after (exec (.taskStart 896) t)
     let sl := (u.core 896).slot
     (sl.task, sl.pc, sl.wid, sl.sup, (u.core 896).local_, (u.task 2).st) = (some 2, 0x200, 9, false, [], .running)) ∧
    (let o := queued.modDie 7 fun x => { x with overflow := [9] }
     ((after (exec (.overflowMove 7) o)).die 7).ready = [1, 2, 9]) := by decide +kernel

/-- Core 289 holds six tasks, the last two pinned, core 294 five; every other queue is empty. -/
def uneven : State :=
  let c (l : List Nat) : Core := { Core.reset with local_ := l }
  { base with
    cores := [(289, c [1, 2, 3, 4, 5, 6]), (294, c [7, 8, 9, 10, 11])]
    tasks := [(5, { Task.none with pinned := true }), (6, { Task.none with pinned := true })] }

theorem test_balancer :
    (after (exec .balancerSample uneven)).migs = [(289, 0, 3), (294, 1, 2)] ∧
    (let t := after (exec .migration { uneven with migs := [(289, 600, 3)] })
     ((t.core 289).local_, (t.core 600).local_, t.migs) = ([1, 5, 6], [2, 3, 4], [])) := by decide +kernel

theorem witness_launchFetch :
    let rec_ (s : State) : Nat := rdN s.mem 0x10000 128
    let opb (s : State) : WRead := walkerRead s (BitVec.ofNat 4 (rec_ s / 2 ^ 116)) (rec_ s / 2 ^ 64 % 2 ^ 52 / 256 * 256) 8
    let bad := launching.wrBytes 0x10012 1 7
    let far : State := { launching with aspasid := vset base.aspasid 0 0x100000, mem := (State.wrBytes { launching with mem := [] } 0x10000 20
      ((0x20000 + 0x81 * 2 ^ 56) * 2 ^ 64 + (5 + 15 * 2 ^ 16) * 2 ^ 128)).mem, clusters := [], dies := [] }
    (launching.fatal = none ∧ launching.boot = .ready ∧ launching.nextRing = 0 ∧ (launching.ring 0).ready = true) ∧
    ((launching.ring 0).base.toNat / 128 * 128 + 128 * (launching.ring 0).head.toNat) % 2 ^ 52 = 0x10000 ∧
    (engineReach launching 0x10000 = true ∧ accOk launching (schedMaster 0) .rd 0x10000 = true) ∧
    recordBad (BitVec.ofNat 1024 (rec_ launching)) = false ∧ (match opb launching with | .ok _ => true | _ => false) = true ∧
    recordBad (BitVec.ofNat 1024 (rec_ bad)) = true ∧
    (recordBad (BitVec.ofNat 1024 (rec_ far)) = false ∧ opb far = .ask 0x20000 ∧ far.fatal = none ∧ far.boot = .ready ∧
      far.nextRing = 0 ∧ (far.ring 0).ready = true ∧ engineReach far 0x10000 = true ∧ accOk far (schedMaster 0) .rd 0x10000 = true) := by
  decide +kernel

/-- Launch 0 of die 7 with a share of staging, task 0 running. -/
def sharing : State := rolesOf fun l => { l with stage := 1, role := false }
def sharingBusy : State := { sharing with
  tasks := [(0, theTask)]
  cores := [(1023, { Core.reset with slot0 := { Slot.reset with task := some 0 } })] }

theorem witness_sharesAndModes :
    let fuse := rolesOf fun l => { l with fuse := true }
    let head (s : State) : Prop := (pendingOn s 7).head? = some 0
    (head sharing ∧ (sharing.launch 0).stage.toNat ≠ 15 ∧ (sharing.launch 0).stage.toNat ≠ (sharing.die 7).staging ∧
      dieBusy sharing 7 = false) ∧ pendingOn base 7 = [] ∧ dieBusy sharingBusy 7 = true ∧ clusterBusy sharingBusy 127 = true ∧
    ((fuse.launches.filter fun e => e.2.st != .done && e.2.dies.getLsbD 7).head?.isSome = true ∧ clusterBusy fuse 127 = false ∧
      (fuse.cluster 127).fused ≠ (fuse.launch 0).fuse ∧ (sharing.cluster 127).fused = (sharing.launch 0).fuse) := by decide +kernel

theorem witness_roleModeStart :
    let role := rolesOf id
    let unshared := rolesOf fun l => { l with stage := 1 }
    let had := role.modCluster 127 fun x => { x with role := some 0 }
    let placed := after (exec (.roleModeStart 127) role)
    let crowded := role.modCore 1016 fun k => { k with local_ := List.replicate 16 9 }
    let poor := role.modDie 7 fun x => { x with trpool := 0 }
    (∀ x ∈ [role, sharing, unshared, had, placed, crowded, poor], (pendingOn x 7).head? = some 0) ∧
    ((role.launch 0).role = true ∧ (role.cluster 127).role = none ∧ role.tasks = [] ∧ (role.launch 0).stage = 15 ∧
      poolUsed role 7 + 2 ≤ poolSize role 7 ∧ (role.core 1016).local_.length < 16 ∧ (role.core 1023).local_.length < 16) ∧
    (sharing.launch 0).role = false ∧ (had.cluster 127).role.isSome = true ∧
    (∃ e ∈ placed.tasks, e.2.launch = 0 ∧ e.2.kind = .role ∧ e.2.die = 7 ∧ e.2.wid = packWid (placed.launch 0) [127 % 16]) ∧
    ¬((unshared.launch 0).stage = 15 ∨ (unshared.die 7).staging = (unshared.launch 0).stage.toNat) ∧
    poolSize poor 7 < poolUsed poor 7 + 2 ∧ (16 ≤ (crowded.core 1016).local_.length ∧ (crowded.cluster 127).role = none ∧
      (crowded.launch 0).role = true ∧ crowded.tasks = [] ∧ poolUsed crowded 7 + 2 ≤ poolSize crowded 7) ∧
    launchReady role 0 7 = false := by decide +kernel

theorem witness_SchedulingPath :
    let poor := fetched5.modDie 7 fun x => { x with trpool := 0 }
    let oflow (n : Nat) : State := queued.modDie 7 fun x => { x with
      ready := List.replicate n 1
      overflow := [9] }
    let local7 := queued.modCore 1023 fun k => { k with local_ := [2] }
    let saved7 : State := local7.modTask 2 fun x => { x with saved := some ⟨0x340, []⟩ }
    let badTid : State := { local7 with launches := [(0, { theLaunch with opb := (1 : BitVec 16384) <<< 4096 })] }
    ((pendingOn fetched5 7).head? = some 0 ∧ launchReady fetched5 0 7 = true ∧ shareDone (fetched5.launch 0) 7 = false ∧
      waitingOf fetched5 0 7 < 4096 ∧ poolUsed fetched5 7 < poolSize fetched5 7) ∧
    ((pendingOn poor 7).head? = some 0 ∧ poolSize poor 7 ≤ poolUsed poor 7) ∧
    ((oflow 0).die 7).overflow = [9] ∧ ((oflow 0).die 7).ready.length < 8192 ∧
    (((queued.die 7).ready ++ (queued.die 7).overflow)[1]? = some 2) ∧ pickReady queued 7 = some 1 ∧
    (pickCore queued 7 1).isSome = true ∧ startDue queued 7 = false ∧ startDue local7 7 = true ∧ (base.die 7).ready = [] ∧ (base.core 1023).local_ = [] ∧
    ((local7.core 1023).local_ = [2] ∧ freeSlot (local7.core 1023) = some false ∧ (local7.task 2).kind ≠ .comp ∧
      (local7.task 2).comp = none ∧ (local7.task 2).saved = none ∧ tidFail local7 1023 (local7.launch (local7.task 2).launch) = none) ∧
    ((saved7.core 1023).local_ = [2] ∧ freeSlot (saved7.core 1023) = some false ∧ (saved7.task 2).kind ≠ .comp ∧
      (saved7.task 2).comp = none ∧ ((saved7.task 2).saved.map (·.pc)) = some 0x340 ∧
      tidFail saved7 1023 (saved7.launch (saved7.task 2).launch) = none) ∧
    (freeSlot (badTid.core 1023) = some false ∧ (tidFail badTid 1023 (badTid.launch (badTid.task 2).launch)).isSome = true) ∧
    base.migs = [] ∧ (({ uneven with migs := [(289, 600, 3)] } : State).migs = [(289, 600, 3)] ∧ 289 ≠ 600) := by decide +kernel

/-- 8192 of a ready queue's places are taken. -/
theorem witness_overflowWaits :
    let o : State := base.modDie 7 fun x => { x with ready := List.replicate 8192 1, overflow := [9] }
    (o.die 7).overflow = [9] ∧ 8192 ≤ (o.die 7).ready.length := by
  refine ⟨rfl, ?_⟩
  show 8192 ≤ (List.replicate 8192 1).length
  rw [List.length_replicate]

/-! ### Cores and channels -/

def held1 (k : HoldKind) (w : Nat) : State := base.modCore 1023 fun c => { c with hold := some ⟨k, w, 8, []⟩ }
def acc0 (st : AccSt) (late : Bool) : Acc := ⟨.ldgs, 0x3000, 0, 0, st, late, 0x3000, 0⟩
def flying (st : AccSt) (late : Bool) : InFl := ⟨0, .scalar, 1, .bs, false, 0, 0x100, 7, 0, 0, some (acc0 st late), false, 0⟩
/-- Core 1023 runs task 0 with one access due. -/
def core7 (f : Core → Core) : State := { base with
  tasks := [(0, theTask)]
  cores := [(1023, f { Core.reset with slot0 := { Slot.reset with task := some 0, pc := 0x100 } })] }
def lateCore : State := core7 fun k => { k with inflight := [flying .done true] }

/-- Core 1023's array holds one operation, a product of single rows where it is chunked. -/
def arrayOp (i : Instr) (wait : Nat) (run : Option Nat) : State := core7 fun k => { k with
  mq := [{ (blankOp base i) with wait := wait, run := run, occ := 8, mA := 1, mB := 1 }] }
def product : Instr := .mma ⟨g0, false, 3, 1, 2, none⟩

/-- The happenings of a core's cycle ask for it where they are due. -/
theorem test_coreCycles :
    let ag (i : Instr) (s : State) : List Move := (after (exec i s)).agenda
    ag (.waitComplete 1023) (held1 .wait 0) = [.issue 1023] ∧ ag (.waitTimeout 1023) (held1 .wait 7) = [] ∧
    ag (.waitTimeout 1023) (held1 .wait 8) = [.issue 1023] ∧ ag (.factorHoldRelease 1023) (held1 .factor 0) = [.issue 1023] ∧
    ag (.factorHoldExpiry 1023) (held1 .wait 8) = [] ∧ ag (.factorHoldExpiry 1023) (held1 .factor 8) = [.issue 1023] ∧
    ag (.matrixOpStart 1023) base = [] ∧
    ag (.matrixOpStart 1023) (arrayOp (.aclr ⟨1⟩) 0 none) = [.issue 1023] ∧ ag (.matrixOpStart 1023) (arrayOp (.aclr ⟨1⟩) 1 none) = [] ∧
    ag (.matrixChunkEnd 1023) (arrayOp product 0 (some 0)) = [.issue 1023] ∧
    ag (.matrixChunkEnd 1023) (arrayOp (.aclr ⟨1⟩) 0 (some 0)) = [] ∧
    ag (.matrixOpEnd 1023) (arrayOp (.aclr ⟨1⟩) 0 (some 7)) = [.issue 1023] := by decide +kernel

/-- A due result lands; a late one freezes the core, and lands once nothing is awaited. -/
theorem test_coreResults :
    let k (i : Instr) (s : State) : Core := (after (exec i s)).core 1023
    sReg (k (.resultDeliver 1023) (core7 fun k => { k with inflight := [{ flying .done false with acc := none }] })).slot 1 = 7 ∧
    (k (.freezeStart 1023) lateCore).freeze = some ⟨1, 0, .access⟩ ∧ (k (.freezeStart 1023) (core7 id)).freeze = none ∧
    (let u := after (exec (.freezeRelease 1023) (after (exec (.freezeStart 1023) lateCore)))
     (u.core 1023).freeze = none ∧ (u.core 1023).inflight.map (·.acc.map (·.late)) = [] ∧ sReg (u.core 1023).slot 1 = 7) ∧
    (k (.stallWatchdog 1023) (core7 fun k => { k with freeze := some ⟨3, 2 ^ 20 - 1, .sfu⟩ })).freeze = some ⟨3, 2 ^ 20 - 1, .sfu⟩ ∧
    (let f := (core7 fun k => { k with freeze := some ⟨3, 2 ^ 20, .sfu⟩, tfbase := 0x10000 }).modCluster 127 fun x => { x with tlb := [page0] }
     ((k (.stallWatchdog 1023) f).tcause, (k (.stallWatchdog 1023) f).tval) = (0x0012, 3)) ∧
    (k (.monitorWake 1023) (core7 fun k => { k with monitor := some 0 })).monitorHit = true ∧
    (k (.monitorWake 1023) (core7 id)).monitorHit = false := by decide +kernel

theorem test_coreSwitches :
    let two : State := { base with cores := [(1023, { Core.reset with slot1 := { Slot.reset with task := some 3, pc := 0x500 } })] }
    let u := after (exec (.slotResume 1023) two)
    ((u.core 1023).ctx, (u.core 1023).slot.pc) = (true, 0x500) ∧ (after (exec (.slotResume 1023) (core7 id))).cores = (core7 id).cores := by decide +kernel

/-- A fault at its due cycle traps with its address; a trap that waits is entered once nothing is outstanding. -/
theorem test_coreTraps :
    let m (f : Core → Core) : State := (core7 fun k => f { k with tfbase := 0x10000 }).modCluster 127 fun x => { x with tlb := [page0] }
    let k (i : Instr) (s : State) : Core := (after (exec i s)).core 1023
    let f := k (.dueCycleFault 1023) (m fun k => { k with inflight := [flying (.fault 0x0203) false] })
    let e := k (.trapEntry 1023) (m fun k => { k with trapping := some ⟨0x0201, 0x140, 0, 0x77, 5, true⟩ })
    (f.tcause, f.tval, f.slot.sup) = (0x0203, 0x3000, true) ∧ (e.tcause, e.tval, e.tepc, e.trapping) = (0x0201, 0x77, 0x140, none) ∧
    (k (.journalFullCheckpoint 1023) (core7 fun k => { k with jfull := true, journal := [(false, 9, 0, false), (true, 9, 0, true)] })).journal =
      [(true, 9, 0, true)] := by decide +kernel

theorem test_interrupts :
    let m (f : Core → Core) : State := (core7 fun k => f { k with tfbase := 0x10000 }).modCluster 127 fun x => { x with tlb := [page0] }
    let i := (after (exec (.signalInterrupt 1023) (m fun k => { k with signals := [(1, 2, .open)] }))).core 1023
    let j := (after (exec (.assayMismatch 1023) (m fun k => { k with assay := [(0, 0x9000)] }))).core 1023
    (i.tcause, i.tval, i.signals.length) = (0x0020, 0x20001, 0) ∧ (j.tcause, j.tval, j.assay) = (0x0405, 0x9000, []) := by
  decide +kernel

/-- Poison read with no checkpoint to return to ends the step POISONED. -/
def poisonRead : State := { lateCore with poison := [0x3000] }
theorem test_poisonConsumption :
    ((after (exec (.poisonConsumption 1023 0x3000) poisonRead)).core 1023).slot.ending = some (.final .poisoned 0) ∧
    (after (exec (.poisonConsumption 1023 0x3100) poisonRead)).cores = poisonRead.cores := by decide +kernel

theorem witness_CoreEvents :
    let two : State := { base with cores := [(1023, { Core.reset with slot1 := { Slot.reset with task := some 3 } })] }
    let k (f : Core → Core) : Core := (core7 f).core 1023
    let start := (arrayOp (.aclr ⟨1⟩) 0 none).core 1023
    let run := (arrayOp product 0 (some 0)).core 1023
    let last := (arrayOp (.aclr ⟨1⟩) 0 (some 7)).core 1023
    (((held1 .wait 8).core 1023).hold = some ⟨.wait, 8, 8, []⟩ ∧ ((held1 .factor 8).core 1023).hold = some ⟨.factor, 8, 8, []⟩) ∧
    (k fun k => { k with signals := [(1, 2, .open)] }).signals ≠ [] ∧ (0, 9) ∈ (k fun k => { k with assay := [(0, 9)] }).assay ∧
    (start.mq.map fun o => (o.run, o.wait)) = [(none, 0)] ∧ (run.mq.map fun o => (o.kind.chunked, o.run, chunkEnd o o.next)) = [(true, some 0, 1)] ∧
    (last.mq.map fun o => (o.run, o.occ)) = [(some 7, 8)] ∧
    (dueLate (lateCore.core 1023) = true ∧ (lateCore.core 1023).freeze = none ∧ (lateCore.core 1023).slot.task.isSome = true) ∧
    dueLate (base.core 1023) = false ∧ ((two.core 1023).slot.task = none ∧ slotReady two 1023 (!(two.core 1023).ctx) = true) ∧
    ((core7 id).core 1023).slot.task.isSome = true ∧ (k fun k => { k with freeze := some ⟨3, 2 ^ 20, .sfu⟩ }).freeze = some ⟨3, 2 ^ 20, .sfu⟩ ∧
    (k fun k => { k with monitor := some 0 }).monitor.isSome = true ∧ (base.core 1023).monitor = none ∧ (base.core 1023).trapping = none ∧
    (let t := k fun k => { k with trapping := some ⟨0x0201, 0, 0, 0, 2 ^ 20 - 1, true⟩ }
     t.trapping = some ⟨0x0201, 0, 0, 0, 2 ^ 20 - 1, true⟩ ∧ t.inflight = [] ∧ t.mq = [] ∧ t.mdue = []) ∧
    frameAsk ((core7 fun k => { k with tfbase := 0x10000 }).modCluster 127 fun x => { x with tlb := [page0] }) 1023 .wr = none ∧
    ((k fun k => { k with freeze := some ⟨6, 5, .btinv 0x3000⟩ }).freeze = some ⟨6, 5, .btinv 0x3000⟩ ∧
      (k fun k => { k with freeze := some ⟨1, 5, .access⟩ }).freeze = some ⟨1, 5, .access⟩) ∧
    (let f := k fun k => { k with inflight := [flying (.fault 0x0203) false] }
     f.slot.task.isSome = true ∧ f.trapping = none ∧ dueFault f = some (0x0203, 0x3000)) ∧ dueFault (base.core 1023) = none ∧
    (poisonRead.poisoned 0x3000 = true ∧ poisonRead.poisoned 0x3100 = false ∧ (poisonRead.core 1023).slot.sup = false ∧
      (poisonRead.core 1023).slot.shadow = none ∧ ((poisonRead.core 1023).inflight.any fun e => e.acc.any fun a =>
        a.st == .done && a.late && lineOf a.pa.toNat == 0x3000) = true) ∧
    (let j := k fun k => { k with jfull := true }
     j.jfull = true ∧ j.slot.task.isSome = true ∧ j.inflight = [] ∧ j.withheld = [] ∧ j.shrows = []) := by decide +kernel

/-- An empty cycle in which the array's operation starts, ends a chunk or ends, or a hold stands. -/
theorem witness_EmptyCycles :
    let with_ (s : State) : State := s.modCore 1023 fun k => k.setSlotOf false { k.slot with bubble := true }
    let h (k : HoldKind) : State := core7 fun c => { c with hold := some ⟨k, 8, 8, []⟩ }
    [arrayOp (.aclr ⟨1⟩) 0 none, arrayOp product 0 (some 0), arrayOp (.aclr ⟨1⟩) 0 (some 7), h .wait, h .factor].all (fun x =>
      let s := with_ x
      let k := s.core 1023
      let w : State := ({ s with cur := 1023, sig := .none, eff := ⟨none, false, false, false, false, []⟩ } : State).modCore 1023
        fun k => { k with evset := 0 }
      s.agenda == [] && s.fatal.isNone && decide (s.boot = .ready) && s.power == .p0 && k.slot.task.isSome && k.trapping.isNone &&
      k.slot.ending.isNone && !k.returning && k.slot.bubble && k.inflight == [] && k.withheld == [] && k.pubs == [] &&
      k.slot0.parked == [] && k.slot1.parked == [] && (arrayCycle w w 1023 (some k.ctx)).2 == none) = true := by decide +kernel

/-- A core that stands at a bundle: of two signals the second has come; of two mismatches the second is due. -/
theorem witness_Interrupts :
    let late : Acc := ⟨.ldgs, 0x3000, 0, 0, .pending, false, 0, 1⟩
    let s := core7 fun k => { k with
      signals := [(1, 2, ⟨1, false, 5⟩), (3, 4, .open)]
      assay := [(5, 0x100), (6, 0x200)] }
    let s := s.modCore 1 fun k => { k with inflight := [⟨40, .scalar, 1, .bl, false, 0, 0, 0, 0, 0, some late, false, 0⟩] }
    let t := core7 fun k => { k with assay := [(5, 0x100), (0, 0x200)] }
    let none_ := (core7 id).modCore 1023 fun k => k.setSlotOf false { k.slot with sup := true }
    let stands (k : Core) : Bool := k.slot.task.isSome && k.trapping.isNone && k.slot.ending.isNone && !k.slot.sup && !k.slot.bubble &&
      (dueFault k).isNone && !dueLate k && k.hold.isNone
    stands (s.core 1023) = true ∧ (∀ e ∈ (s.core 1023).assay, e.1 ≠ 0) ∧ s.passes ⟨1, false, 5⟩ = false ∧ s.passes .open = true ∧
    stands (t.core 1023) = true ∧ (t.core 1023).assay = [(5, 0x100)] ++ (0, 0x200) :: [] ∧ stands (none_.core 1023) = false := by
  decide +kernel

/-- The first consumption of poison since a checkpoint: a row journaled, a store withheld, a partner of the launch. -/
def consuming : State :=
  let s : State := { (core7 fun k => { k with inflight := [flying .done true] }) with poison := [0x3000] }
  let s := s.modCore 1023 fun k =>
    { (k.setSlotOf false { k.slot with shadow := some (Core.shadowNow k.slot [] [] [] [] 0x80) }) with
      tfbase := 0x10000
      withheld := [⟨false, 0x4000, none, 0, none, 0, 1, false, false, 0⟩]
      journal := [(false, 8191, 7, true)] }
  { (s.modCluster 127 fun x => { x with tlb := [page0] }) with
    cores := (1022, { Core.reset with slot0 := { Slot.reset with task := some 1 } }) :: s.cores
    tasks := [(0, theTask), (1, theTask)] }

theorem test_firstConsumption :
    let t := after (exec (.poisonConsumption 1023 0x3008) consuming)
    let k := t.core 1023
    (k.tcause, k.tepc, k.tval, k.slot.sup, k.slot.replay, k.slot.rolled) = (0x0030, 0x80, 0x3000, true, true, true) ∧
    k.withheld = [] ∧ t.rdRow 1023 8191 = 7 ∧ t.poisoned (spadRow 1023 8191) = true ∧ (t.core 1022).marks = [1023] ∧
    ((vget (vget (t.die 7).banks 1 .reset).recs 0 .empty).ecode, (vget (vget (t.die 7).banks 1 .reset).recs 0 .empty).addr) =
      (0x10, 0x3000) := by decide +kernel

theorem witness_FirstConsumption :
    let k := consuming.core 1023
    (consuming.poisoned 0x3008 = true ∧ k.slot.task.isSome = true ∧ k.slot.sup = false ∧
      (k.inflight.any fun e => e.acc.any fun a => a.st == .done && a.late && lineOf a.pa.toNat == lineOf 0x3008) = true) ∧
    (k.slot.shadow.isSome = true ∧ k.slot.rolled = false) ∧
    ((k.ctx, 8191, 7, true) ∈ k.journal ∧ ∀ e ∈ k.journal, e.1 = k.ctx → e.2.1 = 8191 → e = (k.ctx, 8191, 7, true)) ∧
    ((consuming.core 1022).slot.task = some 1 ∧ clusterOf 1022 = clusterOf 1023 ∧
      k.slot.task.map (fun m => (consuming.task m).launch) = some (consuming.task 1).launch) ∧
    (vget (vget (consuming.die (dieOf 1023)).banks 1 .reset).recs 0 .empty).v = false := by decide +kernel

theorem witness_FirstConsumptionTraps :
    let k := consuming.core 1023
    let w := discardSegment consuming 1023 false
    (pendingAcc (w.core 1023) = false ∧ frameAsk w 1023 .wr = none) ∧
    (k.slot.shadow.any fun sh => sh.inflight == [] && sh.mq == [] && sh.mdue == [] && !sh.bubble) = true ∧
    (k.mq = [] ∧ k.mdue = [] ∧ k.slot0.lcause = [] ∧ k.slot1.lcause = [] ∧ consuming.fatal = none) ∧
    (after (exec (.poisonConsumption 1023 0x3008) consuming)).fatal = none := by decide +kernel

/-! ### Channels -/

/-- Core 0's channel 2 holds one copy of one row from memory at 0x3000 to row 0, in tile 1 of 64 elements (F16). -/
def oneCopy (f : Cmd → Cmd) : State := modChan cp 0 2 fun ch => { ch with q := [f (cpyCmd ⟨1, 1, 2, false, false, false, false, 2, []⟩ cp)] }
def chanRun (i : Instr) (f : Cmd → Cmd) : State := after (exec i (oneCopy f))
def clearOp : MOp := { (blankOp base (.aclr ⟨1⟩)) with follow := some 2 }

theorem test_channels :
    let q (s : State) : List (CmdSt × Nat) := (chanOf s 0 2).q.map fun c => (c.st, c.row)
    let run (c : Cmd) : Cmd := { c with st := .running }
    q (chanRun (.copyStart 0 2) id) = [(.running, 0)] ∧ q (chanRun (.copyStart 0 2) run) = [(.running, 0)] ∧
    (let t := chanRun (.copyRow 0 2) run
     q t = [(.running, 1)] ∧ t.me.shrows.map (fun z => (z.parts.map fun p => (p.pa, p.n), z.whole)) = [([(spadRow 0 0, 128)], false)]) ∧
    (let t := chanRun (.copyComplete 0 2) fun c => { (run c) with row := 1, post := some (1023, 15) }
     q t = [] ∧ (t.core 1023).rposts = [⟨15, 1, 0, false, 0⟩]) ∧ q (chanRun (.copyComplete 0 2) run) = [(.running, 0)] ∧
    (let t := chanRun (.copyFault 0 2) fun c => { (run c) with bad := some (0x24, 0x77), bar := some 5, left := 128 }
     q t = [] ∧ (chanOf t 0 2).fault = true ∧ (t.die 0).arrivals = [.barr 0 5 128 true]) ∧
    (let t := chanRun (.followOnArrival 0 2) fun c => { c with st := .follow, follow := some clearOp }
     t.me.mq.map (·.follow) = [some 2]) := by decide +kernel

theorem witness_ChannelEvents :
    let r (c : Cmd) : Cmd := { c with st := .running }
    let x (f : Cmd → Cmd) : Option Cmd := (chanOf (oneCopy f) 0 2).q.head?
    let c := cpyCmd ⟨1, 1, 2, false, false, false, false, 2, []⟩ cp
    (chanOf base 1023 3).q = [] ∧ (chanOf (oneCopy id) 0 2).q = [c] ∧ c.st = .queued ∧ c.bad = none ∧ c.kind = .cpy ∧ c.row < c.rows ∧
    c.strm = false ∧ c.bar = none ∧ c.follow = none ∧ (r c).st ≠ .queued ∧ (r c).st = .running ∧
    (match copyRow (oneCopy r) ⟨0, 2, r c⟩ (endCore (r c).dst 0) 0 with
      | .ok o => o.parts.length == 1
      | _ => false) = true ∧
    (x fun c => { c with row := 1 }).isSome = true ∧ c.rows ≤ 1 ∧ ({ c with follow := some clearOp } : Cmd).follow.isSome = true ∧
    ({ c with bad := some (0x24, 0x77) } : Cmd).bad = some (0x24, 0x77) ∧ clearOp.kind = .aclr ∧
    (∀ p ∈ (oneCopy id).me.mq, p.follow = none) ∧ clearOp.follow.isSome = true ∧
    (storesAhead ((oneCopy id).core 0) c = false ∧ (((oneCopy id).core 0).slotOf clearOp.slot).sup = false) ∧
    storesAhead { ((oneCopy id).core 0) with withheld := [⟨false, 0x3000, some 0x3000, 0, none, 0, 0, true, false, 0⟩] } { c with after := 1 } = true := by decide +kernel

/-- Follow-ons: an MMA that enters with the records of the moment, or is cancelled for them; an entry taken; a handler. -/
theorem witness_FollowOns :
    let o : MOp := { arrOp tiles (.mma ⟨g0, false, 1, 1, 2, none⟩) 1 2 0 0 32 0 with follow := some 2 }
    let p (t : State) : MOp := { o with
      fA := tileRec t.sl o.tA
      fB := tileRec t.sl o.tB }
    let shift := tiles.modSl fun sl => setTileRec sl (sl.tid 1) { FRec.identity with
      rh := vset FRec.identity.rh 0 ⟨two64, 0, false, 0⟩ }
    let other := (tiles.modSl fun sl => { sl with adopt := vset sl.adopt 1 false }).modSl fun sl =>
      sl.setFrec 25 { FRec.identity with rs := vset FRec.identity.rs 0 ⟨two64, 0, false, 0, false⟩ }
    let out (t : State) : FRec := (outerFactors t 0 (p t)).1
    (o.kind = .mma ∧ (∀ q ∈ tiles.me.mq, q.follow = none) ∧ tiles.sl.sup = false) ∧
    (innerConst (p tiles) = true ∧ badInner (p tiles) = false ∧ badShift (p tiles) = false ∧
      (outerFactors tiles 0 (p tiles)).2.2 = none ∧ (adoptRec tiles.sl (accNo o.instr) (out tiles)).isSome = true ∧
      opScales (p tiles) 1 = ([], [])) ∧ badShift (p shift) = true ∧
    (innerConst (p other) = true ∧ badShift (p other) = false ∧ (outerFactors other 0 (p other)).2.2 = none ∧
      adoptRec other.sl (accNo o.instr) (out other) = none) ∧
    (∃ q ∈ (tiles.modMe fun k => { k with mq := [o] }).me.mq, q.follow.isSome = true) ∧ (sup tiles).sl.sup = true ∧
    (let t := modChan cp 0 2 fun ch => { ch with q := [{ (cpyCmd ⟨1, 1, 2, false, false, false, false, 2, []⟩ cp) with
        st := .follow
        follow := some o }] }
     ∃ x, (chanOf t 0 2).q.head? = some x ∧ x.st = .follow ∧ x.follow = some o ∧ x.sup = false) := by
  refine ⟨?_, ?_, ?_, ?_, ?_, ?_, ⟨_, rfl, rfl, rfl, ?_⟩⟩ <;> decide +kernel

/-! ### Units -/

def trigOp (img : Instr) (cmd : Option Cmd) : TrigOp := ⟨255, 0, img, 0, false, none, none, cmd, 9, 0x3FF, .core, 0, false⟩
def firing (o : TrigOp) : State := collected.modDie 7 fun x => { x with tdue := [{ o with ctr := 1 }, o] }

theorem test_triggersFire :
    let f (o : TrigOp) : State := after (exec (.triggerFire 7 255) (firing o))
    let post := f (trigOp (.fpostr ⟨.reg 1, .src (.reg 2), 15⟩) none)
    let tile := f (trigOp (.cready ⟨0, .reg 1⟩) none)
    let copy := after (exec (.triggerFire 7 255) { cp with dies := [(7, { Die.reset with
      tdue := [trigOp (.cpy ⟨0, 1, 2, false, false, false, false, 2, []⟩) (some (newCmd cp .cpy .invalid .invalid 0 true 7))] })] })
    ((post.core 1023).rposts, (post.die 7).tdue.length) = ([⟨15, 9, 0, false, 0⟩], 1) ∧ ((tileAt tile 0 9).rdy, (tile.die 0).firings) = (true, [9]) ∧
    chanQ copy 2 = [(.cpy, 7, 0)] := by decide +kernel

/-- Posts of one flag arrive; 128 bytes land at a barrier whose arrivals are complete; two releases of one object. -/
theorem test_arrivals :
    let s := base.modCore 1023 fun k => { k with rposts := [⟨15, 2, 0, false, 0⟩, ⟨14, 1, 0, false, 0⟩, ⟨15, 3, 0, false, 0⟩] }
    let t := after (exec (.flagPostArrival 1023 15) s)
    let b := base.modDie 7 fun x => { x with
      barriers := [(4095, ⟨9, 1, 1, 128, false⟩)]
      arrivals := [.rel 7 3 5 true 0 false 0, .barr 7 4095 128 false, .rel 7 3 5 true 0 false 0] }
    let u := after (exec (.barrierOpArrival 7) b)
    let v := after (exec (.releaseArrival 7) b)
    ((t.core 1023).posts, (t.core 1023).rposts) = ([(15, 2), (15, 3)], [⟨14, 1, 0, false, 0⟩]) ∧ barAt u 7 4095 = ⟨10, 1, 0, 0, false⟩ ∧
    (u.die 7).arrivals.length = 2 ∧ objVer v 7 3 = 1 ∧ (v.die 7).arrivals.length = 2 := by decide +kernel

theorem witness_TriggersAndArrivals :
    let s := firing (trigOp (.cready ⟨0, .reg 1⟩) none)
    let o := trigOp (.cready ⟨0, .reg 1⟩) none
    let full := s.modDie 0 fun x => { x with firings := List.replicate 64 0 }
    let c := newCmd cp .cpy .invalid .invalid 0 true 7
    (∀ o ∈ (base.die 7).tdue, o.ctr ≠ 255) ∧ (s.die 7).tdue = [{ o with ctr := 1 }] ++ o :: [] ∧ o.ctr = 255 ∧
    (∀ p ∈ [({ o with ctr := 1 } : TrigOp)], p.ctr ≠ 255) ∧ (s.die (dieOf o.core)).firings.length < 64 ∧
    ((tileAt s 0 (o.opA.toNat % 1024)).v = true ∧ (tileAt s 0 (o.opA.toNat % 1024)).rdy = false) ∧
    64 ≤ (full.die (dieOf o.core)).firings.length ∧ ((chanOf base 0 2).q = [] ∧ noRoom base 0 2 c = false) ∧ (base.die 7).arrivals = [] ∧
    (⟨9, 1, 1, 128, false⟩ : Barrier).pend - BitVec.ofNat 56 128 = 0 ∧ (⟨9, 1, 1, 129, false⟩ : Barrier).pend - BitVec.ofNat 56 128 ≠ 0 := by
  decide +kernel

/-- Arrivals of die 7 whose party's accesses have not performed, and others behind them. -/
theorem witness_ArrivalsAndGates :
    let busy := base.modCore 5 fun k => { k with inflight := [⟨40, .scalar, 1, .bl, false, 0, 0, 0, 0, 0,
      some ⟨.ldgs, 0x3000, 0, 0, .pending, false, 0, 1⟩, false, 0⟩] }
    let g : Gate := ⟨5, false, 9⟩
    let slow : Arrival := .bop 7 3 (.arrive 0) g
    let rel (q : Nat) : Arrival := .rel 7 3 5 true 5 false q
    let l : List Arrival := [rel 9, slow, .barr 7 4095 128 false, .bop 7 4094 (.rearm 2) .open, rel 0]
    (busy.passes g = false ∧ slow.passes busy = false ∧ slow.bar = some (7, 3)) ∧
    (l = [rel 9, slow] ++ .barr 7 4095 128 false :: [.bop 7 4094 (.rearm 2) .open, rel 0] ∧
      (Arrival.barr 7 4095 128 false).bar = some (7, 4095) ∧ (Arrival.barr 7 4095 128 false).passes busy = true ∧
      ∀ y ∈ [rel 9, slow], y.bar ≠ some (7, 4095) ∧ (y.bar.isSome = true → y.passes busy = false)) ∧
    (let m : List Arrival := [rel 9, slow, .bop 7 4094 (.rearm 2) .open]
     m = [rel 9, slow] ++ .bop 7 4094 (.rearm 2) .open :: [] ∧ (Arrival.bop 7 4094 (.rearm 2) .open).passes busy = true ∧
     (Arrival.bop 7 4094 (.rearm 2) .open).bar = some (7, 4094)) ∧
    settledBefore (busy.core 5) false 9 = false ∧ settledBefore (busy.core 5) false 0 = true ∧
    -- only those that wait: nothing acts
    ([slow].find? (fun x => x.bar == some (7, 3)) = some slow) ∧
    (∀ a ∈ [slow, rel 9], ∀ e i, a.bar = some (e, i) → (e, i) = (7, 3)) := by
  refine ⟨?_, ⟨rfl, ?_, ?_, ?_⟩, ⟨rfl, ?_, ?_⟩, ?_, ?_, ?_, ?_⟩
  all_goals first
    | decide +kernel
    | (intro a ha e i h; simp_all [Arrival.bar]; obtain rfl | rfl := ha <;> simp_all)

/-- Entry 9 of FP64 sums on dies 0 and 1 under plan 3: 1 and 2, lane 0; the results go to 0x3000 and 0x3100. -/
def summing (plan : List Nat) : State :=
  let tile (a : Addr) : Tile := ⟨true, true, 0, 0, 0, 256, 256, 0, a, 3, 0, false, .open⟩
  let die (a : Addr) : Die := { Die.reset with
    tiles := [(9, tile a)]
    firings := [9] }
  let s : State := { mapped with
    plans := [(3, plan)]
    dies := [(0, die 0x3000), (1, die 0x3100)] }
  let s := s.modCluster 16 fun x => { x with tlb := [page0] }
  (s.wrBytes (csramBase 0 + 256) 8 0x3FF0000000000000).wrBytes (csramBase 1 + 256) 8 0x4000000000000000
def fire (s : State) : State := after (execCollectiveFiring 1 (after (execCollectiveFiring 0 s)))

theorem test_collectiveSum :
    let t := after (exec (.collectiveComplete 9 []) (fire (summing [64, 192])))
    (rdN t.mem 0x3000 8, rdN t.mem 0x3100 8) = (0x4008000000000000, 0x4008000000000000) ∧
    ((tileAt t 0 9).rdy, (tileAt t 1 9).rdy, (t.die 1).firings, t.fired.length) = (false, false, [], 0) ∧
    -- before die 1 has fired
    (let u := after (exec (.collectiveComplete 9 []) (after (exec (.collectiveFiring 0) (summing [64, 192]))))
     rdN u.mem 0x3000 8 = 0 ∧ (tileAt u 0 9).rdy = true) := by decide +kernel

/-- A member that is a device whose link is down fails the firing everywhere. -/
theorem test_collectiveFault :
    let t := after (exec (.collectiveFault ⟨0, none⟩) (fire (summing [64, 192, 3])))
    ((tileAt t 0 9).rdy, (t.die 0).cflt, (tileAt t 1 9).rdy, (t.die 1).cflt, rdN t.mem 0x3000 8) = (false, [9], false, [9], 0) := by
  decide +kernel

theorem witness_CollectiveEvents :
    let s := after (exec (.collectiveFiring 0) (summing [64]))
    let f := fire (summing [64, 192, 3])
    let far : State := { s with clusters := [], aspasid := vset base.aspasid 0 0x100000 }
    nextFiring base 0 = none ∧ nextFiring (summing [64]) 0 = some 9 ∧ completePlan base 1023 [] = none ∧
    (match completePlan s 9 [] with
      | some (m, l) => decide (m = [⟨none, 0⟩] ∧ l.length = 1)
      | none => false) = true ∧
    resultLines s 0 (tileAt s 0 9) = .ok [0x3000] ∧ [0x3000].Nodup ∧ (∀ a ∈ [0x3000], a < devTop) ∧
    (∀ f ∈ (summing [64]).fired, f.die ≠ 0) ∧
    (f.fired.find? fun x => x.die == 0 && firingFails f x.entry (tget f.plans (tileAt f 0 x.entry).plan.toNat [])).isSome = true ∧
    readyMembers f 9 3 [64, 192, 3] = [0, 1] ∧
    (match completePlan far 9 [] with
      | some (m, _) => (m.findSome? (memberAsks far 9)).isSome
      | none => false) = true ∧
    -- several members, and a peer named with its fault
    (let t := fire (summing [64, 192])
     (match completePlan t 9 [] with
      | some (m, _) => decide (m = [⟨none, 0⟩, ⟨none, 1⟩]) && (m.findSome? (memberAsks t 9)).isNone && m.all Member.isLocal
      | none => false) = true) ∧ resultLines (summing [64]) 0 (tileAt (summing [64]) 0 9) = .ok [0x3000] ∧
    ((planMembers [64, 192, 3]).any fun m => m.peer == some 3) = true := by decide +kernel

/-- Activity 4095 is abandoned with entry 7 of die 7's stack on top, at 0x100000: an ordinary entry, with its entry point. -/
def abandoning (top : Option (Nat × Nat)) (save : Bool) : State :=
  let s : State := { base with
    acts := [(4095, ⟨.abandoning, 5, 0, top, 0, []⟩)]
    abandons := [⟨4095, 0, none, 0, 0, [4095], none, false, none, false, none, .open⟩]
    dies := [(7, { Die.reset with
      csseg := 0x100001
      comps := [(7, (0, 0))] })] }
  s.wrBytes (0x100000 + 64 * 7) 64 ((if save then 1 else 0) * 2 ^ 471)
def onStack : State := abandoning (some (7, 7)) false

theorem test_abandonment :
    let t := after (exec .abandonment (abandoning none false))
    (t.abandons.length, (actGet t 4095).st) = (0, .free) ∧ (after (exec .abandonment onStack)).abandons.length = 1 ∧
    (let u := after (exec .compensationTaskRun onStack)
     ((u.task 0).kind, (u.task 0).comp, (u.die 7).ready) = (.comp, some (4095, 7, 7), [0])) := by decide +kernel

/-- Page 7 of address space 15 by tables at 0x100000 and on: read and written at task level, at 0x50000. -/
def missed (fresh : Bool) : State :=
  let s : State := { base with asroot := vset base.asroot 15 0x100000 }
  let s := ((s.wrBytes 0x100000 8 0x101001).wrBytes 0x101000 8 0x102001).wrBytes 0x102000 8 0x103001
  (s.wrBytes 0x103038 8 0x5002D).modDie 7 fun x => { x with walks := [⟨15, 7, [1023], [], fresh⟩] }
def page7 : Tlb := ⟨15, 0x70000, 16, 0x50000, true, true, false, true, 0⟩
/-- The tables do not name the page, and the host may be asked for it; core 1023's access to it waits. -/
def askedFor : State := { (missed true) with
  mem := []
  aspasid := vset base.aspasid 15 0x100000
  cores := [(1023, { Core.reset with
    slot0 := { Slot.reset with
      task := some 0
      asn := 15 }
    inflight := [{ (flying .pending false) with acc := some { (acc0 .pending false) with va := 0x70000 } }] })] }

theorem test_walkers :
    let s := base.modDie 7 fun x => { x with missq := [⟨15, 7, [1023], [], false⟩] }
    let t := after (exec (.pageWalk 7) s)
    let u := after (exec (.walkComplete 7 0) (missed true))
    ((t.die 7).missq, (t.die 7).walks) = ([], [⟨15, 7, [1023], [], true⟩]) ∧
    ((after (exec (.walkComplete 7 0) (missed false))).die 7).walks = [⟨15, 7, [1023], [], true⟩] ∧
    ((u.die 7).walks, (u.die 7).tlb, (u.cluster 127).tlb) = ([], [page7], [page7]) ∧
    (after (exec (.walkComplete 7 0) askedFor)).ats = [⟨some 0, 15, 7, .rd, false, 0⟩] := by decide +kernel

theorem witness_ActivityUnitAndWalkers :
    let b (s : State) : Abandon := s.abandons.headD ⟨0, 0, none, 0, 0, [], none, false, none, false, none, .open⟩
    let e := abandoning none false
    let running : State := { onStack with
      abandons := [{ (b onStack) with task := some 0 }]
      tasks := [(0, theTask)] }
    let told : State := { askedFor with abandons := [{ (b e) with asn := 15, die := 7, status := some 0x70000 }] }
    (heads told (b told) = [] ∧ (b told).dropped = false ∧ (b told).owed = none ∧
      xlateU told (128 * 7) lauMaster 15 false .wr 0x70000 = .ask) ∧
    base.abandons = [] ∧ (e.abandons = [b e] ∧ (b e).task = none ∧ (b e).failed = none ∧ heads e (b e) = []) ∧
    (onStack.abandons = [b onStack] ∧ heads onStack (b onStack) ≠ [] ∧ (∀ h ∈ heads onStack (b onStack), isSave onStack h.2 = false) ∧
      chooseHead onStack (b onStack) (heads onStack (b onStack)) = some (4095, (7, 7))) ∧
    ((b running).task = some 0 ∧ (running.task 0).st.final = false) ∧
    (let s := base.modDie 7 fun x => { x with missq := [⟨15, 7, [1023], [], false⟩] }
     (s.die 7).missq = [⟨15, 7, [1023], [], false⟩] ∧ (s.die 7).walks.length < 64) ∧ (base.die 7).missq = [] ∧ (base.die 7).walks[63]? = none ∧
    ((missed false).die 7).walks[0]? = some ⟨15, 7, [1023], [], false⟩ ∧ ((missed true).die 7).walks[0]? = some ⟨15, 7, [1023], [], true⟩ ∧
    ((missed true).core 1023).inflight = [] ∧ walk (missed true) 7 15 0x70000 = .leaf page7 ∧
    walk askedFor 7 15 0x70000 = .ask ∧
    (let k := askedFor.core 1023
     let u := askedFor.modDie 7 fun x => { x with walks := x.walks.eraseIdx 0 }
     (askedFor.die 7).walks[0]? = some ⟨15, 7, [1023], [], true⟩ ∧ k.inflight.length = 1 ∧
     (k.inflight.all fun e => e.acc.any fun a => a.st == .pending && a.va == 0x70000 && a.kind.perm == .rd) = true ∧
     k.withheld.any Held.closed = false ∧ (k.slotOf !k.ctx).parked = [] ∧ missing u 1023 k.slot.asn 0x70000 = false ∧
     xlate u 1023 k.slot.asn k.slot.sup .rd 0x70000 = .ask) ∧
    walk (missed true) 7 15 0x60000 = .fault xNotPresent := by decide +kernel

/-- A walk that ends in a fault, for an access, a fetch and a command that wait; an abandonment behind a store. -/
theorem witness_FaultsGiven :
    let s : State := (missed true).modDie 7 fun x => { x with walks := [⟨15, 6, [1023], [], true⟩] }
    let k : Core := { (askedFor.core 1023) with inflight := (askedFor.core 1023).inflight.map fun e =>
      { e with acc := e.acc.map fun a => { a with va := 0x60000 } } }
    let w : State := { askedFor with cores := [(1023, { k with
      inflight := []
      freeze := some ⟨2, 0, .page 0x60000⟩ })] }
    let cmd : Cmd := { newCmd base .cpy .invalid .invalid 0 true 1 with
      asn := 15
      ask := some 0x60000 }
    let q : State := modChan { askedFor with cores := [(1023, k)] } 1023 3 fun ch => { ch with q := [cmd] }
    let e := abandoning none false
    let late : State := (e.modCore 5 fun k => { k with inflight := [⟨40, .scalar, 1, .bl, false, 0, 0, 0, 0, 0,
      some ⟨.ldgs, 0x3000, 0, 0, .pending, false, 0, 1⟩, false, 0⟩] })
    walk s 7 15 0x60000 = .fault xNotPresent ∧ (s.die 7).walks[0]? = some ⟨15, 6, [1023], [], true⟩ ∧ [1023].Nodup ∧
    ((q.core 1023).slot.asn = 15 ∧ ((flightOf (q.core 1023) false).all fun e => e.acc.any fun a =>
      a.st == .pending && a.va.extractLsb' 16 36 == (6 : BitVec 36)) = true ∧ flightOf (q.core 1023) false ≠ []) ∧
    slotWake (w.core 1023) false = some (.page 0x60000) ∧ (cmd ∈ (chanOf q 1023 3).q ∧ cmd.asn = 15 ∧ cmd.ask = some 0x60000) ∧
    late.passes ⟨5, false, 9⟩ = false ∧ e.passes .open = true ∧ e.abandons = [⟨4095, 0, none, 0, 0, [4095], none, false, none, false, none, .open⟩] := by
  decide +kernel

/-! ### Errors -/

/-- One corrected and one uncorrectable error of a scratchpad row of core 1023; the home stack of another die has none. -/
theorem test_errors :
    let row : Addr := BitVec.ofNat 52 (spadRow 1023 8191)
    let c := after (exec (.correctedError 7 1 5 row) base)
    let u := after (exec (.uncorrectableError 7 1 5 row) base)
    let rec0 (s : State) : ErrRec := vget (vget (s.die 7).banks 1 .reset).recs 0 .empty
    ((rec0 c).v, (rec0 c).rank, (rec0 c).unit, (rec0 c).ecode, (rec0 c).addr) = (true, 1, 5, 1, row) ∧
    ((rec0 u).rank, (rec0 u).ecode, u.poisoned row.toNat, c.poisoned row.toNat) = (2, 2, true, false) ∧
    (vget (c.die 7).banks 1 .reset).ccnt = 1 ∧ (vget (u.die 7).banks 1 .reset).dcnt = 1 ∧
    (after (exec (.correctedError 6 1 5 row) base)).dies = [] ∧
    ((after (exec (.fatalPath 7 ⟨0x72, []⟩) base)).fatal.map fun f => (f.die, f.cause)) = some (7, 0x8072) := by decide +kernel

theorem test_holdExpiry :
    let h (n : Nat) : State := base.modCore 1023 fun k => { k with l1 := [(5, ⟨0x500, .m, 15, 15, 0, n⟩)] }
    let l (s : State) : List Nat := ((after (exec (.atomicHoldExpiry 1023) s)).core 1023).l1.map (·.2.hold)
    (l (h 1), l (h 2)) = ([0], [2]) := by decide +kernel

theorem witness_ErrorEvents :
    eccOk base 7 1 (spadRow 1023 8191) = true ∧ eccOk base 6 1 (spadRow 1023 8191) = false ∧
    (vget (vget (base.die 7).banks 1 .reset).recs 0 .empty).v = false ∧ (∀ j : Fin 8, j < 0 → False) ∧ base.fatal = none ∧
    (after (exec (.fatalPath 7 ⟨0x72, []⟩) base)).fatal.isSome = true := by decide +kernel

/-! ### Coherence: cluster 127 and cluster 0 on the line at 0x3000 -/

def ln : Addr := 0x3000
def msgOf (k : MsgKind) (cl : Nat) (st : Moesi) (d : BitVec 4) : Msg := ⟨k, ln, cl, 127, 1023, st, d, false⟩
def entryOf (st : Moesi) (owner : Nat) (sharers : BitVec 128) : DirEnt := ⟨ln, st, owner, sharers, 0⟩
/-- One message on its way, with the line's entry at its home. -/
def homed (m : Msg) (e : List DirEnt) (home : List Txn := []) : State :=
  (setDir base ln.toNat e).modDie 9 id |> fun s => { s with
    msgs := [m]
    home := home }
def told (o : Out) : List (MsgKind × Nat × Moesi) := (after o).msgs.map fun m => (m.kind, m.cl, m.st)
def holds (o : Out) : Option (Moesi × Nat × BitVec 128) := (dirFind (after o) ln).map fun e => (e.st, e.owner, e.sharers)
/-- What a message brought about: the messages sent, the line's entry. -/
structure Seen where
  sent : List (MsgKind × Nat × Moesi)
  entry : Option (Moesi × Nat × BitVec 128)
deriving DecidableEq
def seen (o : Out) : Seen := ⟨told o, holds o⟩
def b127 : BitVec 128 := 1 <<< 127

/-- The rows of the table of R387 for GetS and GetM. -/
theorem test_requests :
    let gs (e : List DirEnt) : Out := exec (.gets 0) (homed (msgOf .gets 127 .i 0) e)
    let gm (st : Moesi) (e : List DirEnt) : Out := exec (.getm 0) (homed (msgOf .getm 127 st 0) e)
    seen (gs []) = ⟨[(.data, 127, .e)], some (.e, 127, b127)⟩ ∧
    seen (gs [entryOf .s 0 1]) = ⟨[(.data, 127, .s)], some (.s, 0, b127 ||| 1)⟩ ∧
    told (gs [entryOf .o 0 3]) = [(.fwds, 0, .i)] ∧
    seen (gm .i []) = ⟨[(.data, 127, .m)], some (.m, 127, b127)⟩ ∧
    seen (gm .s [entryOf .s 0 b127]) = ⟨[(.grant, 127, .m)], some (.m, 127, b127)⟩ ∧
    told (gm .s [entryOf .s 0 (b127 ||| 3)]) = [(.inv, 0, .i), (.inv, 1, .i)] ∧
    told (gm .i [entryOf .o 0 3]) = [(.fwdm, 0, .i), (.inv, 1, .i)] := by decide +kernel

/-- A PutM of the owner writes its dirty sectors to the stack; one of another is dropped. -/
theorem test_putm :
    let p (e : DirEnt) (d : BitVec 4) : Out := exec (.putm 0) ((homed (msgOf .putm 127 .m d) [e]).wrBytes 0x3000 1 7 |> fun s => { s with
      stack := [(0x30, 0)] })
    let own := entryOf .m 127 b127
    (told (p own 1), holds (p own 1), (after (p own 1)).stack) = ([(.putack, 127, .i)], none, []) ∧
    (after (p own 2)).stack = [(0x30, 0)] ∧ holds (p (entryOf .m 0 1) 1) = some (.m, 0, 1) ∧
    holds (p (entryOf .o 127 (b127 ||| 1)) 1) = some (.s, 127, 1) := by decide +kernel

def txn (kind : MsgKind) (fwd : Option Nat) (invs : List Nat) (evict full : Bool) : Txn := ⟨ln, msgOf kind 127 .i 0, evict, fwd, invs, full⟩
theorem test_answers :
    let fa := exec (.fwdack 0) (homed (msgOf .fwdack 0 .i 0) [entryOf .e 0 1] [txn .gets (some 0) [] false false])
    let fn := exec (.fwdnack 0) (homed (msgOf .fwdnack 0 .i 0) [entryOf .e 0 1] [txn .gets (some 0) [] false false])
    let ia := exec (.invack 0) (homed (msgOf .invack 0 .i 0) [entryOf .s 0 1] [txn .getm none [0] false true])
    let ba := exec (.back 0) (homed (msgOf .back 0 .i 0) [entryOf .s 0 3] [txn .gets none [0, 1] true false])
    let bz := exec (.back 0) (homed (msgOf .back 0 .i 0) [entryOf .s 0 1] [⟨ln, { (msgOf .gets 127 .i 0) with pa := 0x1003000 }, true, none, [0], false⟩])
    seen fa = ⟨[], some (.s, 0, b127 ||| 1)⟩ ∧ (after fa).home.length = 0 ∧
    seen fn = ⟨[(.data, 127, .e)], some (.e, 127, b127)⟩ ∧ seen ia = ⟨[(.data, 127, .m)], some (.m, 127, b127)⟩ ∧
    ((after ba).home.map (·.invs)) = [[1]] ∧ seen bz = ⟨[(.data, 127, .e)], none⟩ := by decide +kernel

def line (st : Moesi) (d : BitVec 4) : L1Line := ⟨ln, st, 15, d, 0, 0⟩
/-- Core 1023 holds the line, and one message is on its way. -/
def holder (k : MsgKind) (st : Moesi) (d : BitVec 4) (reqs : List Req := []) : State :=
  let s := base.modCore 1023 fun c => { c with
    l1 := if st = .i then [] else [(0x30, line st d)]
    monitor := some ln }
  { (s.modCluster 127 fun x => { x with
      reqs := reqs
      wbuf := [⟨0x4000, .m, 15⟩] }) with msgs := [⟨k, ln, 127, 127, 1023, .e, 0, false⟩] }
def wish (excl : Bool) (data : Have) (grant : Option Moesi) : Req := ⟨ln, excl, 1023, false, 0, data, grant, false, false⟩
def l1st (o : Out) : Moesi := (l1At (after o) 1023 0x3000).st

theorem test_holders :
    let f (k : MsgKind) (st : Moesi) : Out := match k with
      | .fwds => exec (.fwds 0) (holder k st 9)
      | .fwdm => exec (.fwdm 0) (holder k st 9)
      | .inv => exec (.inv 0) (holder k st 0)
      | _ => exec (.binv 0) (holder k st 9)
    (l1st (f .fwds .m), told (f .fwds .m)) = (.o, [(.dataf, 127, .i), (.fwdack, 127, .i)]) ∧ l1st (f .fwds .e) = .s ∧
    told (f .fwds .i) = [(.fwdnack, 127, .i)] ∧ (l1st (f .fwdm .m), told (f .fwdm .m)) = (.i, [(.dataf, 127, .i), (.fwdack, 127, .i)]) ∧
    told (f .fwdm .i) = [(.fwdnack, 127, .i)] ∧ (l1st (f .inv .s), told (f .inv .s)) = (.i, [(.invack, 127, .i)]) ∧
    (l1st (f .binv .m), (after (f .binv .m)).msgs.map (·.dirty)) = (.i, [9]) ∧ ((after (f .binv .m)).core 1023).monitorHit = true := by
  decide +kernel

theorem test_requesters :
    let reqs (o : Out) : List (Have × Option Moesi) := ((after o).cluster 127).reqs.map fun r => (r.data, r.grant)
    let d := exec (.data 0) (holder .data .i 0 [wish false .no none])
    let g := exec (.grant 0) (holder .grant .i 0 [wish true .no none])
    let h := exec (.grant 0) (holder .grant .s 0 [wish true .own none])
    let f := exec (.dataf 0) (holder .dataf .i 0 [wish true .no none])
    let fs := exec (.dataf 0) (holder .dataf .i 0 [wish false .no none])
    (l1st d, reqs d) = (.e, []) ∧ (l1st g, reqs g) = (.i, [(.no, some .e)]) ∧ (l1st h, reqs h) = (.e, []) ∧
    (l1st f, reqs f) = (.i, [(.got, none)]) ∧ (l1st fs, reqs fs) = (.s, []) ∧
    ((after (exec (.putack 0) { (holder .putack .i 0) with msgs := [⟨.putack, 0x4000, 127, 127, 1023, .i, 0, false⟩] })).cluster 127).wbuf = [] := by
  decide +kernel

theorem witness_CoherenceMessages :
    let ok (s : State) (k : MsgKind) : Bool := (arriving s k 0).isSome
    let fwd := txn .gets (some 0) [] false false
    let inv := txn .getm none [0] false true
    let ev := txn .gets none [0, 1] true false
    let h (k : MsgKind) (st : Moesi) : State := holder k st 9
    arriving base .gets 0 = none ∧ ok (homed (msgOf .gets 127 .i 0) []) .gets = true ∧ ok (homed (msgOf .getm 127 .s 0) [entryOf .s 0 b127]) .getm = true ∧
    ok (homed (msgOf .putm 127 .m 1) [entryOf .m 127 b127]) .putm = true ∧
    (homeBusy base ln = false ∧ (∀ x ∈ base.homeq, x.pa ≠ ln) ∧ dirFind base ln = none ∧ (dirOf base ln.toNat).length < 16) ∧
    dirFind (homed (msgOf .gets 127 .i 0) [entryOf .s 0 1]) ln = some (entryOf .s 0 1) ∧ b127.getLsbD 127 = true ∧
    (b127 ||| 1) &&& ~~~(b127) ≠ 0 ∧ (1 : BitVec 128) &&& ~~~((1 : BitVec 128) <<< 0) = 0 ∧
    (ok (homed (msgOf .fwdack 0 .i 0) [] [fwd]) .fwdack = true ∧ ok (homed (msgOf .fwdnack 0 .i 0) [] [fwd]) .fwdnack = true ∧
      txnOf (homed (msgOf .fwdack 0 .i 0) [] [fwd]) ln false (fun t => t.fwd == some 0) = some fwd) ∧
    (ok (homed (msgOf .invack 0 .i 0) [] [inv]) .invack = true ∧
      txnOf (homed (msgOf .invack 0 .i 0) [] [inv]) ln false (fun t => t.invs.contains 0) = some inv ∧ (∀ c ∈ inv.invs, c = 0)) ∧
    (ok (homed (msgOf .back 0 .i 0) [] [ev]) .back = true ∧
      txnOf (homed (msgOf .back 0 .i 0) [] [ev]) ln true (fun t => t.invs.contains 0) = some ev ∧ ∃ c ∈ ev.invs, c ≠ 0) ∧
    (ok (h .fwds .m) .fwds && ok (h .fwds .i) .fwds && ok (h .fwdm .m) .fwdm && ok (h .fwdm .i) .fwdm && ok (h .inv .s) .inv &&
      ok (h .binv .m) .binv && ok (h .putack .i) .putack) = true ∧
    copies (h .fwds .m) 127 0x3000 ≠ [] ∧ copies (h .fwds .i) 127 0x3000 = [] ∧ wbOf (h .fwds .i) 127 ln = none ∧
    (ok (holder .data .i 0 [wish false .no none]) .data && ok (holder .grant .i 0 [wish true .no none]) .grant &&
      ok (holder .dataf .i 0 [wish true .no none]) .dataf) = true ∧
    ((holder .data .i 0 [wish false .no none]).cluster 127).reqs = [wish false .no none] ∧ (wish false .no none).gone = false ∧
    (wish true .own none).data ≠ .no ∧ (wish true .no none).grant = none ∧ ((h .binv .m).core 1023).monitor = some ln ∧
    wbOf (h .binv .m) 127 ln = none ∧ (wish true .no (some .m)).grant = some .m ∧ (wish true .no none).more = false ∧
    copies (holder .dataf .i 0 [wish true .no (some .m)]) 127 0x3000 = [] ∧
    arriving (holder .dataf .i 0 [wish true .no (some .m)]) .dataf 0 ≠ none := by decide +kernel

/-- The set of the line full of sixteen entries, the one of 0x1003000 first allocated; an owner's answer to a GetM; requests that
the line was taken from meanwhile, and of a sharer whose copy went. -/
theorem witness_EvictionsAndOwners :
    let e (i : Nat) : DirEnt := ⟨BitVec.ofNat 52 (0x3000 + 2 ^ 24 * (i + 1)), .s, 0, 3, i⟩
    let full : State := homed (msgOf .gets 127 .i 0) ((List.range 16).map e)
    let busy : State := homed (msgOf .gets 127 .i 0) ((List.range 16).map e) [⟨(e 0).pa, msgOf .gets 5 .i 0, false, some 0, [], false⟩]
    let fwd := txn .getm (some 0) [] false false
    let own := homed (msgOf .fwdack 0 .i 0) [entryOf .m 0 1] [fwd]
    let gone : Req := { (wish false .no none) with gone := true }
    let s := holder .data .i 0 [gone]
    (arriving full .gets 0).isSome = true ∧ dirFind full ln = none ∧ 16 ≤ (dirOf full ln.toNat).length ∧ e 0 ∈ dirOf full ln.toNat ∧
    (∀ x ∈ dirOf full ln.toNat, x = e 0 ∨ (e 0).stamp < x.stamp) ∧ homeBusy full ln = false ∧ homeBusy full (e 0).pa = false ∧
    (e 0).sharers ≠ 0 ∧ homeBusy busy (e 0).pa = true ∧
    ((arriving own .fwdack 0).isSome = true ∧ txnOf own ln false (fun t => t.fwd == some 0) = some fwd ∧ own.homeq = [] ∧
      dirFind own ln = some (entryOf .m 0 1) ∧ fwd.req.kind = .getm ∧ fwd.invs = [] ∧ fwd.full = false ∧ fwd.req.pa = ln) ∧
    ((arriving s .data 0).isSome = true ∧ (s.cluster 127).reqs = [gone] ∧ gone.gone = true ∧ gone.more = false) ∧
    ((s.core 1023).inflight = [] ∧ (s.core 1023).withheld = [] ∧ (s.core 1023).pubs = [] ∧ (s.core 1023).slot0.parked = []) ∧
    ((wish true .own none).data = .own ∧ (15 : BitVec 4) ≠ 0) := by decide +kernel

/-! ### The whole machine -/

theorem witness_NoInstructionStops :
    let s : State := { (after (exec (.fatalPath 7 ⟨0x72, []⟩) base)) with agenda := [.issue 1023] }
    s.agenda = [.issue 1023] ∧ s.fatal.isSome = true := by decide +kernel

theorem witness_MemoryStaysCanonical :
    let s := State.reset.withFetchWord 32 0x01041080
    Memory.wf State.reset.mem ∧ Memory.wf s.mem ∧ ran (step s) = true := by decide +kernel

end Sys2Proof.Tests
end

section
/-!
PROOFS. Landing of results: what a landing result does to each register file, which of several results for one register is
written (R71), and what the zero registers and the latches see of it (R70, R73).
-/
namespace Sys2Proof.Machine

/-! ## Registers after a write -/

theorem sReg_congr {a b : Slot} {r : BitVec 5} (h : a.s = b.s) : sReg a r = sReg b r := by simp [sReg, h]
theorem vReg_congr {a b : Slot} {r : BitVec 5} (h : a.v = b.v) : vReg a r = vReg b r := by simp [vReg, h]
theorem pReg_congr {a b : Slot} {r : BitVec 3} (h : a.p = b.p) : pReg a r = pReg b r := by simp [pReg, h]
theorem mReg_congr {a b : Slot} {r : BitVec 3} (h : a.m = b.m) : mReg a r = mReg b r := by simp [mReg, h]

theorem setS_zero (sl : Slot) (x : Word) : setS sl 0 x = sl := if_pos rfl
theorem setP_zero (sl : Slot) (x : Bool) : setP sl 0 x = sl := if_pos rfl

theorem setS_s (sl : Slot) {r : BitVec 5} (x : Word) (h : r ≠ 0) : (setS sl r x).s = vset sl.s r.toNat x := by
  rw [setS, if_neg h]

theorem setP_p (sl : Slot) {r : BitVec 3} (x : Bool) (h : r ≠ 0) : (setP sl r x).p = vset sl.p r.toNat x := by
  rw [setP, if_neg h]

/-- A write of a scalar register other than that of element `i` leaves the element; one of s0 leaves them all (R70). -/
theorem vget_setS_ne (sl : Slot) {q : BitVec 5} {i : Nat} (x d : Word) (h : q ≠ 0 → q.toNat ≠ i) :
    vget (setS sl q x).s i d = vget sl.s i d := by
  by_cases hq : q = 0
  · rw [hq, setS_zero]
  · rw [setS_s sl x hq, vget_vset_ne _ _ _ (h hq)]

/-- A write of a predicate other than that of element `i` leaves the element; one of p0 leaves them all (R70). -/
theorem vget_setP_ne (sl : Slot) {q : BitVec 3} {i : Nat} (x d : Bool) (h : q ≠ 0 → q.toNat ≠ i) :
    vget (setP sl q x).p i d = vget sl.p i d := by
  by_cases hq : q = 0
  · rw [hq, setP_zero]
  · rw [setP_p sl x hq, vget_vset_ne _ _ _ (h hq)]

theorem sReg_setS_same (sl : Slot) {r : BitVec 5} (x : Word) (h : r ≠ 0) : sReg (setS sl r x) r = x := by
  rw [sReg, if_neg h, setS_s sl x h, vget_vset_same _ _ _ r.isLt]

theorem sReg_setS_ne (sl : Slot) {q r : BitVec 5} (x : Word) (h : q ≠ r) : sReg (setS sl q x) r = sReg sl r := by
  rw [sReg, vget_setS_ne sl x 0 fun _ => mt BitVec.eq_of_toNat_eq h, sReg]

theorem vReg_setV_same (sl : Slot) (r : BitVec 5) (x : Row) : vReg (setV sl r x) r = x :=
  vget_vset_same _ _ _ r.isLt

theorem vReg_setV_ne (sl : Slot) {q r : BitVec 5} (x : Row) (h : q ≠ r) : vReg (setV sl q x) r = vReg sl r :=
  vget_vset_ne _ _ _ (mt BitVec.eq_of_toNat_eq h)

theorem pReg_setP_same (sl : Slot) {r : BitVec 3} (x : Bool) (h : r ≠ 0) : pReg (setP sl r x) r = x := by
  rw [pReg, if_neg h, setP_p sl x h, vget_vset_same _ _ _ r.isLt]

theorem pReg_setP_ne (sl : Slot) {q r : BitVec 3} (x : Bool) (h : q ≠ r) : pReg (setP sl q x) r = pReg sl r := by
  rw [pReg, vget_setP_ne sl x false fun _ => mt BitVec.eq_of_toNat_eq h, pReg]

theorem mReg_setM_same (sl : Slot) (r : BitVec 3) (x : LaneMask) : mReg (setM sl r x) r = x :=
  vget_vset_same _ _ _ r.isLt

theorem mReg_setM_ne (sl : Slot) {q r : BitVec 3} (x : LaneMask) (h : q ≠ r) : mReg (setM sl q x) r = mReg sl r :=
  vget_vset_ne _ _ _ (mt BitVec.eq_of_toNat_eq h)

/-! ## What a write of one register file leaves of the others -/

@[simp] theorem setS_v (sl : Slot) (r : BitVec 5) (x : Word) : (setS sl r x).v = sl.v := by unfold setS; split <;> rfl
@[simp] theorem setS_p (sl : Slot) (r : BitVec 5) (x : Word) : (setS sl r x).p = sl.p := by unfold setS; split <;> rfl
@[simp] theorem setS_m (sl : Slot) (r : BitVec 5) (x : Word) : (setS sl r x).m = sl.m := by unfold setS; split <;> rfl
@[simp] theorem setV_s (sl : Slot) (r : BitVec 5) (x : Row) : (setV sl r x).s = sl.s := rfl
@[simp] theorem setV_p (sl : Slot) (r : BitVec 5) (x : Row) : (setV sl r x).p = sl.p := rfl
@[simp] theorem setV_m (sl : Slot) (r : BitVec 5) (x : Row) : (setV sl r x).m = sl.m := rfl
@[simp] theorem setP_s (sl : Slot) (r : BitVec 3) (x : Bool) : (setP sl r x).s = sl.s := by unfold setP; split <;> rfl
@[simp] theorem setP_v (sl : Slot) (r : BitVec 3) (x : Bool) : (setP sl r x).v = sl.v := by unfold setP; split <;> rfl
@[simp] theorem setP_m (sl : Slot) (r : BitVec 3) (x : Bool) : (setP sl r x).m = sl.m := by unfold setP; split <;> rfl
@[simp] theorem setM_s (sl : Slot) (r : BitVec 3) (x : LaneMask) : (setM sl r x).s = sl.s := rfl
@[simp] theorem setM_v (sl : Slot) (r : BitVec 3) (x : LaneMask) : (setM sl r x).v = sl.v := rfl
@[simp] theorem setM_p (sl : Slot) (r : BitVec 3) (x : LaneMask) : (setM sl r x).p = sl.p := rfl

/-! ## A landing result -/

/-- Recording a cause changes at most the causes of the cycle. -/
theorem landCause_eq (sl : Slot) (e : InFl) : ∃ l, landCause sl e = { sl with lcause := l } := by
  unfold landCause noteCause
  split_ifs
  · exact ⟨_, rfl⟩
  · exact ⟨sl.lcause, rfl⟩

@[simp] theorem landCause_s (sl : Slot) (e : InFl) : (landCause sl e).s = sl.s := by
  obtain ⟨l, h⟩ := landCause_eq sl e; rw [h]
@[simp] theorem landCause_v (sl : Slot) (e : InFl) : (landCause sl e).v = sl.v := by
  obtain ⟨l, h⟩ := landCause_eq sl e; rw [h]
@[simp] theorem landCause_p (sl : Slot) (e : InFl) : (landCause sl e).p = sl.p := by
  obtain ⟨l, h⟩ := landCause_eq sl e; rw [h]
@[simp] theorem landCause_m (sl : Slot) (e : InFl) : (landCause sl e).m = sl.m := by
  obtain ⟨l, h⟩ := landCause_eq sl e; rw [h]

/-! What it writes goes to its own file; the other files stay. -/

theorem landReg_s (sl : Slot) (e : InFl) :
    (landReg sl e).s = if e.file = .scalar then (setS sl e.reg (e.value.setWidth 64)).s else sl.s := by
  cases h : e.file <;> simp [landReg, h]

theorem landReg_v (sl : Slot) (e : InFl) :
    (landReg sl e).v = if e.file = .vector then (setV sl e.reg (mergeRow e.lmask e.value (vReg sl e.reg))).v else sl.v := by
  cases h : e.file <;> simp [landReg, InFl.row, h]

theorem landReg_p (sl : Slot) (e : InFl) :
    (landReg sl e).p = if e.file = .pred then (setP sl (e.reg.setWidth 3) (e.value.getLsbD 0)).p else sl.p := by
  cases h : e.file <;> simp [landReg, h]

theorem landReg_m (sl : Slot) (e : InFl) :
    (landReg sl e).m = if e.file = .mask then (setM sl (e.reg.setWidth 3) (e.value.setWidth 128)).m else sl.m := by
  cases h : e.file <;> simp [landReg, h]

/-! A register after one landing. -/

theorem sReg_landReg_same (sl : Slot) {e : InFl} (hf : e.file = .scalar) (h : e.reg ≠ 0) :
    sReg (landReg sl e) e.reg = e.value.setWidth 64 := by
  rw [sReg_congr (landReg_s sl e ▸ if_pos hf), sReg_setS_same sl _ h]

theorem vReg_landReg_same (sl : Slot) {e : InFl} (hf : e.file = .vector) :
    vReg (landReg sl e) e.reg = mergeRow e.lmask e.value (vReg sl e.reg) := by
  rw [vReg_congr (landReg_v sl e ▸ if_pos hf), vReg_setV_same]

theorem pReg_landReg_same (sl : Slot) {e : InFl} (hf : e.file = .pred) (h : e.reg.setWidth 3 ≠ (0 : BitVec 3)) :
    pReg (landReg sl e) (e.reg.setWidth 3) = e.value.getLsbD 0 := by
  rw [pReg_congr (landReg_p sl e ▸ if_pos hf), pReg_setP_same sl _ h]

theorem mReg_landReg_same (sl : Slot) {e : InFl} (hf : e.file = .mask) :
    mReg (landReg sl e) (e.reg.setWidth 3) = e.value.setWidth 128 := by
  rw [mReg_congr (landReg_m sl e ▸ if_pos hf), mReg_setM_same]

/-- No landing result changes the element of s0 (R70). -/
theorem landReg_s_zero (sl : Slot) (e : InFl) : vget (landReg sl e).s 0 0 = vget sl.s 0 0 := by
  rw [landReg_s]
  split
  · exact vget_setS_ne sl _ 0 (mt (BitVec.eq_of_toNat_eq (y := 0)))
  · rfl

/-- No landing result changes the element of p0 (R70). -/
theorem landReg_p_zero (sl : Slot) (e : InFl) : vget (landReg sl e).p 0 false = vget sl.p 0 false := by
  rw [landReg_p]
  split
  · exact vget_setP_ne sl _ false (mt (BitVec.eq_of_toNat_eq (y := 0)))
  · rfl

/-! ## Several results landing together -/

theorem sameDst_comm (e f : InFl) : e.sameDst f = f.sameDst e := by
  unfold InFl.sameDst
  by_cases h : e.file = f.file
  · rw [h]
    cases f.file <;> simp [eq_comm]
  · rw [beq_false_of_ne h, beq_false_of_ne (Ne.symm h), Bool.false_and, Bool.false_and]

/-- A reading of the slot that the landings of a list leave as it is stays as it is through the list. -/
theorem landList_keeps {α : Type} (read : Slot → α) (hc : ∀ sl f, read (landCause sl f) = read sl) (l : List InFl)
    (hw : ∀ sl, ∀ f ∈ l, read (landReg sl f) = read sl) (sl : Slot) : read (landList sl l) = read sl := by
  induction l generalizing sl with
  | nil => rfl
  | cons f r ih =>
    rw [landList, ih fun sl g hg => hw sl g (List.mem_cons_of_mem f hg)]
    split
    · exact hc sl f
    · exact hw sl f List.mem_cons_self

/-- A reading of the slot that only results for the register of `e` can change. -/
structure ReadsDst {α : Type} (e : InFl) (read : Slot → α) : Prop where
  cause : ∀ sl f, read (landCause sl f) = read sl
  other : ∀ sl f, e.sameDst f = false → read (landReg sl f) = read sl

/-- A result with no later one for its register is written, and on its register as it was before the whole list (R71):
an earlier result for the register is not written, as this one comes after it. -/
theorem landList_writes_last {α : Type} {e : InFl} {read : Slot → α} (h : ReadsDst e read) (pre : List InFl)
    {post : List InFl} (hpost : post.any e.sameDst = false) (sl : Slot) :
    ∃ sl', read sl' = read sl ∧ read (landList sl (pre ++ e :: post)) = read (landReg sl' e) := by
  induction pre generalizing sl with
  | nil =>
    refine ⟨sl, rfl, ?_⟩
    rw [List.nil_append, landList, hpost]
    exact landList_keeps read h.cause post (fun sl f hf =>
      h.other sl f (Bool.eq_false_iff.2 (List.any_eq_false.1 hpost f hf))) _
  | cons f pre ih =>
    obtain ⟨sl', hkeep, hwrite⟩ := ih (if (pre ++ e :: post).any f.sameDst then landCause sl f else landReg sl f)
    refine ⟨sl', hkeep.trans ?_, hwrite⟩
    split
    · exact h.cause sl f
    · next hnone =>
      have hfe : f.sameDst e = false := Bool.eq_false_iff.2 fun h => hnone (List.any_eq_true.2 ⟨e, by simp, h⟩)
      exact h.other sl f (sameDst_comm e f ▸ hfe)

theorem sReg_readsDst {e : InFl} (hf : e.file = .scalar) : ReadsDst e (sReg · e.reg) where
  cause sl f := sReg_congr (landCause_s sl f)
  other sl f h := by
    by_cases hs : f.file = .scalar
    · rw [sReg_congr (landReg_s sl f ▸ if_pos hs), sReg_setS_ne sl _ fun heq => ?_]
      simp [InFl.sameDst, hf, hs, heq] at h
    · exact sReg_congr (landReg_s sl f ▸ if_neg hs)

theorem vReg_readsDst {e : InFl} (hf : e.file = .vector) : ReadsDst e (vReg · e.reg) where
  cause sl f := vReg_congr (landCause_v sl f)
  other sl f h := by
    by_cases hs : f.file = .vector
    · rw [vReg_congr (landReg_v sl f ▸ if_pos hs), vReg_setV_ne sl _ fun heq => ?_]
      simp [InFl.sameDst, hf, hs, heq] at h
    · exact vReg_congr (landReg_v sl f ▸ if_neg hs)

theorem pReg_readsDst {e : InFl} (hf : e.file = .pred) : ReadsDst e (pReg · (e.reg.setWidth 3)) where
  cause sl f := pReg_congr (landCause_p sl f)
  other sl f h := by
    by_cases hs : f.file = .pred
    · rw [pReg_congr (landReg_p sl f ▸ if_pos hs), pReg_setP_ne sl _ fun heq => ?_]
      simp [InFl.sameDst, hf, hs, heq] at h
    · exact pReg_congr (landReg_p sl f ▸ if_neg hs)

theorem mReg_readsDst {e : InFl} (hf : e.file = .mask) : ReadsDst e (mReg · (e.reg.setWidth 3)) where
  cause sl f := mReg_congr (landCause_m sl f)
  other sl f h := by
    by_cases hs : f.file = .mask
    · rw [mReg_congr (landReg_m sl f ▸ if_pos hs), mReg_setM_ne sl _ fun heq => ?_]
      simp [InFl.sameDst, hf, hs, heq] at h
    · exact mReg_congr (landReg_m sl f ▸ if_neg hs)

/-! ## The landing of a cycle -/

/-- While a due result is away the core is frozen, and nothing lands (R16). -/
theorem landReady_of_awaited {k : Core} (h : k.inflight.any InFl.awaited = true) : landReady k = k := by
  simp [landReady, h]

/-- Where none is away, every due result lands. -/
theorem landReady_slot {k : Core} (h : k.inflight.any InFl.awaited = false) :
    (landReady k).slot = landList k.slot (k.inflight.filter InFl.ready) := by
  unfold landReady
  cases hd : k.inflight.filter InFl.ready with
  | nil => rfl
  | cons f r => simp [h]

/-- Where none is away, each group's latch of age 0 takes what it receives of the due results (R73). -/
theorem landReady_latches {k : Core} (h : k.inflight.any InFl.awaited = false) :
    (landReady k).bs = setLatch0 k.bs (latchIn k.slot .bs (k.inflight.filter InFl.ready)) ∧
    (landReady k).bv = setLatch0 k.bv (latchIn k.slot .bv (k.inflight.filter InFl.ready)) ∧
    (landReady k).bl = setLatch0 k.bl (latchIn k.slot .bl (k.inflight.filter InFl.ready)) ∧
    (landReady k).bx = setLatch0 k.bx (latchIn k.slot .bx (k.inflight.filter InFl.ready)) := by
  unfold landReady
  cases hd : k.inflight.filter InFl.ready with
  | nil => exact ⟨rfl, rfl, rfl, rfl⟩
  | cons f r => simp [h]

/-- A reading of the slot that no landing result changes stays as it is through a landing. -/
theorem landReady_keeps {α : Type} (read : Slot → α) (hc : ∀ sl f, read (landCause sl f) = read sl)
    (hw : ∀ sl f, read (landReg sl f) = read sl) (k : Core) : read (landReady k).slot = read k.slot := by
  cases h : k.inflight.any InFl.awaited with
  | true => rw [landReady_of_awaited h]
  | false => rw [landReady_slot h, landList_keeps read hc _ fun sl f _ => hw sl f]

/-- Results that all enter no latch give the latches nothing. -/
theorem latchIn_of_nl (sl : Slot) (g : Lat) {l : List InFl} (h : ∀ e ∈ l, e.nl = true) : latchIn sl g l = none := by
  have hnone : (l.filter fun e => !e.nl && e.group == g) = [] := List.filter_eq_nil_iff.2 fun e he => by simp [h e he]
  simp [latchIn, hnone]

/-- A due scalar result that enters the scalar latches, the last of those, is in the latch of age 0, whatever its register. -/
theorem landReady_bs_zero {k : Core} {e : InFl} (h : k.inflight.any InFl.awaited = false) (hf : e.file = .scalar)
    (hlast : ((k.inflight.filter InFl.ready).filter fun f => !f.nl && f.group == .bs).getLast? = some e) :
    vget (landReady k).bs 0 0 = e.value := by
  have hin : latchIn k.slot .bs (k.inflight.filter InFl.ready) = some e.value := by
    simp only [latchIn, hlast, Option.map_some, InFl.row, hf]
  rw [(landReady_latches h).1, hin]
  exact vget_vset_same _ _ _ (by decide)

/-- Where every due result enters no latch, a landing leaves the latches as they are. -/
theorem landReady_latches_of_nl {k : Core} (hnl : ∀ e ∈ k.inflight, e.ready = true → e.nl = true) :
    (landReady k).bs = k.bs ∧ (landReady k).bv = k.bv ∧ (landReady k).bl = k.bl ∧ (landReady k).bx = k.bx := by
  cases h : k.inflight.any InFl.awaited with
  | true => simp [landReady_of_awaited h]
  | false =>
    have hin (g : Lat) : latchIn k.slot g (k.inflight.filter InFl.ready) = none :=
      latchIn_of_nl _ g fun e he => hnl e (List.mem_of_mem_filter he) (List.mem_filter.1 he).2
    simpa only [hin, setLatch0] using landReady_latches h

/-- A due result with no later one for its register lands last on it: a reading of that register shows its landing, on the
register as the core had it (R71). -/
theorem landReady_writes_last {α : Type} {k : Core} {pre post : List InFl} {e : InFl} {read : Slot → α}
    (h : ReadsDst e read) (hdue : k.inflight.filter InFl.ready = pre ++ e :: post)
    (haway : k.inflight.any InFl.awaited = false) (hpost : post.any e.sameDst = false) :
    ∃ sl', read sl' = read k.slot ∧ read (landReady k).slot = read (landReg sl' e) := by
  rw [landReady_slot haway, hdue]
  exact landList_writes_last h pre hpost k.slot

/-! ## The statements -/

/-- Settles O5: s0 and p0 pass through a landing as no result writes them; the latch of age 0 takes the value of the last
scalar result whatever its register; results that enter no latch give the latches nothing. -/
theorem resultsToZeroRegistersAreDiscarded : Obligations.ResultsToZeroRegistersAreDiscarded := by
  unfold Obligations.ResultsToZeroRegistersAreDiscarded
  intro k
  refine ⟨⟨?_, rfl⟩, ⟨?_, rfl⟩, fun e haway hlast hf => landReady_bs_zero haway hf hlast, landReady_latches_of_nl,
    fun _ _ _ _ => rfl⟩
  · exact landReady_keeps (fun sl => vget sl.s 0 0) (fun sl f => by rw [landCause_s]) landReg_s_zero k
  · exact landReady_keeps (fun sl => vget sl.p 0 false) (fun sl f => by rw [landCause_p]) landReg_p_zero k

/-- Settles O6: a due result with no later one for its register lands last on it, in each of the four register files. -/
theorem laterResultIsWritten : Obligations.LaterResultIsWritten := by
  unfold Obligations.LaterResultIsWritten
  intro k pre post e hdue haway hpost
  refine ⟨fun hf hr => ?scalar, fun r hf hr h0 => ?pred, fun r hf hr => ?mask, fun hf => ?vector⟩
  case scalar =>
    obtain ⟨sl', -, hland⟩ := landReady_writes_last (sReg_readsDst hf) hdue haway hpost
    exact hland.trans (sReg_landReg_same sl' hf hr)
  case pred =>
    subst hr
    obtain ⟨sl', -, hland⟩ := landReady_writes_last (pReg_readsDst hf) hdue haway hpost
    exact hland.trans (pReg_landReg_same sl' hf h0)
  case mask =>
    subst hr
    obtain ⟨sl', -, hland⟩ := landReady_writes_last (mReg_readsDst hf) hdue haway hpost
    exact hland.trans (mReg_landReg_same sl' hf)
  case vector =>
    obtain ⟨sl', hbefore, hland⟩ := landReady_writes_last (vReg_readsDst hf) hdue haway hpost
    exact hland.trans ((vReg_landReg_same sl' hf).trans (congrArg _ hbefore))

end Sys2Proof.Machine
end
